-- ==== Sys2Proof/Word.lean ====
section
/-! DEFINITION. Word types and the sparse tables and byte memories every other file uses.
Little-endian throughout (R12). -/

namespace Sys2Proof

/-- A byte of memory. -/
abbrev Byte := BitVec 8

/-- A 32-bit CSR word (R13). -/
abbrev Word := BitVec 32

/-- A sparse table: entries in strictly rising key order; a key that is not listed holds the table's default. -/
abbrev Tab (α : Type) := List (Nat × α)

/-- The entry of key `k`, or the default `d`. -/
def Tab.get {α : Type} (d : α) : Tab α → Nat → α
  | [], _ => d
  | (j, v) :: t, k => if j = k then v else Tab.get d t k

/-- Write entry `k`, keeping the order of the keys. -/
def Tab.put {α : Type} : Tab α → Nat → α → Tab α
  | [], k, v => [(k, v)]
  | (j, w) :: t, k, v =>
    if k < j then (k, v) :: (j, w) :: t
    else if k = j then (k, v) :: t
    else (j, w) :: Tab.put t k v

/-- Drop the entry of key `k`, so that it holds the default again. -/
def Tab.drop {α : Type} : Tab α → Nat → Tab α
  | [], _ => []
  | (j, w) :: t, k => if j = k then t else (j, w) :: Tab.drop t k

/-- A byte memory: addresses strictly rising, no entry equal to what an unlisted address reads as. -/
abbrev Mem := List (Nat × Byte)

/-- The byte at address `a`; an unlisted address reads `d`. -/
def Mem.get (d : Byte) : Mem → Nat → Byte
  | [], _ => d
  | (j, v) :: m, a => if j = a then v else if a < j then d else Mem.get d m a

/-- Write one byte in canonical form: a byte equal to `d` is removed from the list. -/
def Mem.put (d : Byte) : Mem → Nat → Byte → Mem
  | [], a, b => if b = d then [] else [(a, b)]
  | (j, v) :: m, a, b =>
    if a < j then (if b = d then (j, v) :: m else (a, b) :: (j, v) :: m)
    else if a = j then (if b = d then m else (a, b) :: m)
    else (j, v) :: Mem.put d m a b

/-- Every listed address is at least `lo`, the addresses rise strictly, and no entry equals the default. -/
def Mem.wfFrom (d : Byte) : Nat → Mem → Bool
  | _, [] => true
  | lo, (j, v) :: m => decide (lo ≤ j) && !(v == d) && Mem.wfFrom d (j + 1) m

/-- The canonical form of a byte memory whose unlisted bytes read `d`. -/
def Mem.wf (d : Byte) (m : Mem) : Bool := Mem.wfFrom d 0 m

/-- A set of numbers, strictly rising. -/
abbrev NSet := List Nat

/-- Membership. -/
def NSet.has : NSet → Nat → Bool
  | [], _ => false
  | j :: t, k => if j = k then true else if k < j then false else NSet.has t k

/-- Insert `k`. -/
def NSet.add : NSet → Nat → NSet
  | [], k => [k]
  | j :: t, k => if k < j then k :: j :: t else if k = j then j :: t else j :: NSet.add t k

/-- Remove `k`. -/
def NSet.del : NSet → Nat → NSet
  | [], _ => []
  | j :: t, k => if j = k then t else if k < j then j :: t else j :: NSet.del t k

/-- Strictly rising from `lo`. -/
def NSet.wfFrom : Nat → NSet → Bool
  | _, [] => true
  | lo, j :: t => decide (lo ≤ j) && NSet.wfFrom (j + 1) t

/-- The canonical form of a set. -/
def NSet.wf (t : NSet) : Bool := NSet.wfFrom 0 t

end Sys2Proof
end

