-- ==== Sys2Proof/Syntax.lean ====
section
/-! DEFINITION. The block's commands: one constructor per row of spec/opcode_table.json. The table gives the rows no
operand bits; the operands here are the ones the rule of each row speaks of (notes/assumptions/4.md). -/

namespace Sys2Proof

/-- Result of training one memory channel (R415 step 5, R419, R309). -/
structure TrainResult where
  ok   : Bool        -- the training, or the verification of saved values, succeeds
  cap  : BitVec 2    -- capacity the channel reports: 0 is 2 GiB, 1 is 4 GiB, 2 is 8 GiB
  temp : Int         -- PHY temperature at the end of training, degrees C
deriving DecidableEq, Repr

/-- What the board and the silicon show to a start-up (R415, R431, R432). -/
structure BootEnv where
  nodeId   : BitVec 4
  grm      : BitVec 6
  bmAddr   : BitVec 2
  serial   : BitVec 64
  stepping : BitVec 8
  fuses    : List (Option (List Byte))   -- per key slot: the 32-byte hash in the fuses, if present
  supplyOk : Bool                        -- the board acknowledges a request for the P0 supply within 1 ms
  train    : List TrainResult            -- per channel
  verify   : List Bool                   -- per channel: saved training values verify with one re-centre (R417)
  flashOk  : Bool                        -- the flash device answers reads, erases and programs
deriving DecidableEq, Repr

/-- Result of the checks on a DRAM read (R332): link ECC after its retries, then inline ECC. -/
inductive DramCheck
  | clean
  | linkCorrected
  | linkFails (recentreHelps : Bool)
  | inlineCorrected
  | inlineTransient
  | inlineFails (word : Nat)   -- the stored word, counted from the block's first, whose error lasts
deriving DecidableEq, Repr

/-- The link-ECC part of such a check, after its two retries (R332). -/
inductive LinkCheck
  | clean
  | corrected
  | fails (recentreHelps : Bool)
deriving DecidableEq, Repr

/-- The inline-ECC part of such a check (R332). -/
inductive InlineCheck
  | clean
  | corrected
  | transient
  | fails (word : Nat)   -- as in `DramCheck`
deriving DecidableEq, Repr

/-- What a source shows to a service command that reads it (R256, R328). -/
structure ReadResult where
  ok  : Bool        -- the host completes the reads
  chk : DramCheck   -- the checks on the DRAM reads
deriving DecidableEq, Repr

/-- A write of `EXP_WPM_CLR_CMD` (R319, R320), with the checks on the reads of the gather buffers it closes (R329). -/
structure ClearWrite where
  v   : Word
  chk : DramCheck
deriving DecidableEq, Repr

/-- A read of a register of BAR0 (R438); of an entry of the error log, whether two of its copies are equal (R392). -/
structure RegRead where
  size   : Nat
  readOk : Bool
deriving DecidableEq, Repr

/-- What the outside supplies to a service command that moves data (R254, R256, R257). -/
structure SourceIo where
  host    : List Byte          -- the bytes the host returns, when the source lies in the host range
  readOk  : Bool               -- the host completes the reads
  chk     : DramCheck          -- the checks on the DRAM reads, when the source lies there
  flashOk : Bool               -- the flash device erases, programs and reads back
  train   : List TrainResult   -- channel training before a whole rig load (R409)
deriving DecidableEq, Repr

/-- How a protected word checks when it is read (R363, R364). -/
inductive Ecc
  | clean | correctable | uncorrectable | poisoned
deriving DecidableEq, Repr

/-- How a protected word checks when it is met, and when it is read again (R363). -/
structure RereadEcc where
  met   : Ecc
  again : Ecc
deriving DecidableEq, Repr

/-- The memories of R362 whose words are read again after an uncorrectable error. `meshPacket`: the flits of a packet on the mesh, by its
place in the mesh list of State, which are not read again. -/
inductive MemRef
  | scratchpad (tile word : Nat)
  | programStore (tile : Nat)
  | tileState (tile : Nat) (strand : Option Nat)
  | splice (chan set way : Nat)
  | tagCache (chan page : Nat)
  | writtenMap (chan word : Nat)
  | schedTask (uid : Nat)
  | schedHitch (hitch : Nat)
  | meshPacket (idx : Nat)
deriving DecidableEq, Repr

/-- A frame as it stands on a link (R344, R347). -/
structure WireFrame where
  hdr     : BitVec 128
  payload : List Byte
  gcmTag  : List Byte      -- 16 bytes when the link is encrypted, else none
  seq     : BitVec 12
  rsv     : BitVec 20
  crc     : BitVec 32
deriving DecidableEq, Repr

/-- What a HELLO carries (R356). -/
structure HelloMsg where
  node   : BitVec 4
  dimX   : BitVec 5
  dimY   : BitVec 3
  port   : BitVec 2
  device : BitVec 32
  keyEn  : Bool
  epoch  : BitVec 32
deriving DecidableEq, Repr

/-- An epoch record (R357). -/
structure EpochRec where
  num     : BitVec 32
  up      : BitVec 16
  transit : BitVec 16
  links   : BitVec 64     -- 4 bits a node
deriving DecidableEq, Repr

/-- A link-state report (R357): the sender, its port map, whether it serves, and the highest epoch it has seen. -/
structure ChangeMsg where
  node    : BitVec 4
  ports   : BitVec 4
  serving : Bool
  epoch   : BitVec 32
deriving DecidableEq, Repr

/-- What the consumer of a bight on another node shows to a producer's service controller (R380): the read pointer, and each slot's state
(0 EMPTY, 1 FILLING, 2 FULL, 3 DRAINING) with its returned mark. -/
structure BightView where
  bight : Nat
  rd    : Nat
  slots : List (BitVec 2 × Bool)
deriving DecidableEq, Repr

/-- How the slots a lost tile produces into are rebuilt (R380): from its own registers, which can be read, or from what the consumers show. -/
inductive ProducerSrc
  | readable
  | views (l : List BightView)
deriving DecidableEq, Repr

/-- Where a verdict reaches the scheduler from (R142, R345): a packet of the mesh, or a VERDICT frame at a port. -/
inductive VerdictSrc
  | packet (idx : Nat)
  | frame (port : Nat) (f : WireFrame)
deriving DecidableEq, Repr

/-- Why a link goes DOWN (R351). -/
inductive DownCause
  | resends | noProgress | tagFailure | laneLock
deriving DecidableEq, Repr

/-- The commands. `fn` is the PCIe function (0 the PF), `tile` a PHYSICAL tile, `strand` a strand of it, `i` a packet's
place in the mesh list of State. -/
inductive Instr
  -- reset, pins and PCIe state
  | powerGood (env : BootEnv)
  | powerLoss
  | perstAssert (env : BootEnv)
  | perstDeassert
  | hotReset (env : BootEnv)
  | glbResetWarm (fn : Nat) (v : Word) (env : BootEnv)
  | functionLevelReset (fn : Nat) (env : BootEnv)
  | busMasterEnable (fn : Nat) (on : Bool)
  | memorySpaceEnable (fn : Nat) (on : Bool)
  | d3hot (fn : Nat) (on : Bool)
  -- CSR accesses
  | csrWrite (fn off size : Nat) (v : BitVec 64)
  | lowWordRead (fn off : Nat) (rd : RegRead)
  | pstoreDataRead (fn tile : Nat)
  | irqMaskWrite (fn : Nat) (v : Word)
  | discFaultClear (fn : Nat) (v : Word)
  | completerAbort (fn off size : Nat)
  -- hold pair, board manager
  | holdChange (a b : Bool)
  | discrepancyFault (a b : Bool) (n : Nat)
  | supplyAck (level : Bool)
  | supplyTimeout
  | smbusState
  | smbusTj
  | smbusTjMax
  | smbusProfile
  | smbusNodeId
  | smbusSerialNumber
  | smbusUnlistedRead (cmd : BitVec 8)
  | smbusWrite (cmd : BitVec 8) (data : List Byte)
  | alertResponse
  -- power and thermal
  | thermalSample (first : Int) (others : List Int)   -- the readings of sensor 0, and of sensors 1 to 23
  | tclkDivisorChange
  | watchdogExpiry
  | profileCommand (fn : Nat) (v : Word)
  | domainCommand (fn : Nat) (v : Word)
  | domainTransitionEnd (d : Nat) (train : TrainResult)
  -- rigs
  | writeSlot (fn : Nat) (v : Word) (io : SourceIo)
  | activate (fn : Nat) (v : Word) (io : SourceIo)
  | rollback (fn : Nat) (v : Word) (io : SourceIo)
  | load (fn : Nat) (v : Word) (io : SourceIo)
  | reconfLay (fn : Nat) (v : Word) (io : SourceIo)
  | reconfTile (fn : Nat) (v : Word) (io : SourceIo)
  | setBoot (fn : Nat) (v : Word) (io : SourceIo)
  | compact (fn : Nat) (v : Word) (io : SourceIo)
  | revoke (fn : Nat) (v : Word) (io : SourceIo)
  | journalCompaction (flashOk : Bool)
  | drainEnd (flashOk : Bool)
  | drainLimit
  -- firmware
  | fwWriteSlot (fn : Nat) (v : Word) (io : SourceIo)
  | switch (fn : Nat) (v : Word) (io : SourceIo)
  | switchWaitTimeout
  | fwAlive (flashOk : Bool)
  | fwAliveTimeout (flashOk : Bool)
  | fwSetBoot (fn : Nat) (v : Word) (io : SourceIo)
  | fwLoad (fn : Nat) (v : Word) (io : SourceIo) (env : BootEnv)
  -- faults, retirement, ECC, log
  | lineRetirement (fn : Nat) (v : Word) (flashOk : Bool)
  | bankRetirement (fn : Nat) (v : Word) (flashOk : Bool)
  | tileRetirement (fn : Nat) (v : Word) (flashOk : Bool)
  | tileLost (tile : Nat) (supply : Bool)
  | faultRecovery (readable : Bool) (producer : ProducerSrc)
  | reread (m : MemRef) (o : RereadEcc)
  | healTest (tile word : Nat) (o : Ecc)
  | scrub (tile : Nat) (o : Ecc)
  | scrubAlarm (tile lapUs : Nat)   -- the lap's length in microseconds
  | logCommit (copiesOk readOk : Bool)
  | logClear (fn : Nat) (v : Word)
  | recentre (chan : Nat) (temp : Int)
  | fullRetrainEnd (chan : Nat) (ok : Bool)
  -- scheduler
  | submissionDoorbell (fn off size : Nat) (v : BitVec 64)
  | completionDoorbell (fn off size : Nat) (v : BitVec 64)
  | queueEnable (fn : Nat) (v : Word)
  | queueFlush (fn : Nat) (v : Word)
  | entryRead (q : Nat) (hostEntry hostPacket : List Byte) (readOk : Bool) (chk : DramCheck)
  | packetAcceptance (q : Nat)
  | dispatch (uid : Nat)
  | completionReport (tile strand : Nat)
  | completionRecordPost (q : Nat)
  | modUsExpiry (q : Nat)
  -- kernel steps of the units BLD, ARR and EPI, and events of the array
  | endStep (tile strand : Nat)
  | tbuild (tile strand : Nat)
  | tmcast (tile strand : Nat)
  | cbload (tile strand : Nat)
  | lpass (tile strand : Nat)
  | passRetire (tile : Nat)
  | tableSwap (tile : Nat)
  | rippleEnd (tile : Nat)
  | setTimeout (tile strand : Nat)
  | tableMulticastPacket (idx : Nat)
  | output (tile strand : Nat)
  | partialSend (tile strand : Nat)
  | combine (tile strand : Nat)
  | unitStepComplete (tile unit : Nat)
  -- vector operations
  | copy (tile strand : Nat)
  | add (tile strand : Nat)
  | sub (tile strand : Nat)
  | mul (tile strand : Nat)
  | fma (tile strand : Nat)
  | scale (tile strand : Nat)
  | max (tile strand : Nat)
  | min (tile strand : Nat)
  | exp (tile strand : Nat)
  | log (tile strand : Nat)
  | recip (tile strand : Nat)
  | rsqrt (tile strand : Nat)
  | tanh (tile strand : Nat)
  | sigmoid (tile strand : Nat)
  | silu (tile strand : Nat)
  | gelu (tile strand : Nat)
  | rsum (tile strand : Nat)
  | rsumsq (tile strand : Nat)
  | rmax (tile strand : Nat)
  | dot (tile strand : Nat)
  | odot (tile strand : Nat)
  | fcomb (tile strand : Nat)
  | statcmb (tile strand : Nat)
  | rmsnorm (tile strand : Nat)
  | smexp (tile strand : Nat)
  | smnorm (tile strand : Nat)
  | rope (tile strand : Nat)
  | qu8a (tile strand : Nat)
  | qs8 (tile strand : Nat)
  | kapp (tile strand : Nat)
  | vapp (tile strand : Nat)
  | pscale (tile strand : Nat)
  | qg8 (tile strand : Nat)
  | qm8 (tile strand : Nat)
  | topk (tile strand : Nat)
  | topkm (tile strand : Nat)
  | argmax (tile strand : Nat)
  | iadd (tile strand : Nat)
  | gather (tile strand : Nat)
  | fill (tile strand : Nat)
  | inval (tile strand : Nat)
  | matvec (tile strand : Nat)
  | outer (tile strand : Nat)
  | dsilu (tile strand : Nat)
  | dgelu (tile strand : Nat)
  | adamw (tile strand : Nat)
  -- streams, bights, hitches and control steps
  | sstart (tile strand : Nat)
  | swait (tile strand : Nat)
  | streamRequest (tile : Nat)
  | bread (tile strand : Nat)
  | bightTimeout (tile strand : Nat)
  | bwrite (tile strand : Nat)
  | brel (tile strand : Nat)
  | harrive (tile strand : Nat)
  | hwait (tile strand : Nat)
  | loop (tile strand : Nat)
  | setr (tile strand : Nat)
  | hitchArrival (idx : Nat)
  | hitchRelease (idx : Nat)
  | verdict (src : VerdictSrc)
  | scratchpadWrite (idx : Nat)
  | scratchpadRead (idx : Nat)
  | readResponse (idx : Nat)
  | writeAck (idx : Nat)
  | claim (idx : Nat)
  | fullUpdate (idx : Nat)
  | abandon (idx : Nat)
  | creditReturn (idx : Nat)
  -- memory side
  | memoryRead (idx : Nat) (chk : DramCheck)
  | memoryWrite (idx : Nat) (chk : DramCheck)
  | spliceFill (chan fill : Nat) (link : LinkCheck) (inl : InlineCheck) (tagLink : LinkCheck) (tagInl : InlineCheck)   -- of the block, of its tag line
  | gatherBufferClose (chan buf : Nat) (chk : DramCheck)
  | spliceFlush (fn chan : Nat) (v : Word)
  | spliceFlushDone (chan : Nat)
  | wpmClear (fn : Nat) (w : ClearWrite)
  | wpmClearDone
  | codeTableLoad (fn : Nat) (v : Word) (host : List Byte) (rd : ReadResult)
  | keyLoad (fn : Nat) (v : Word)
  | regionEnable (fn off : Nat) (v : Word)
  | bar4Read (fn addr len : Nat) (chk : DramCheck)
  | bar4Write (fn addr : Nat) (data : List Byte) (chk : DramCheck)
  | pcieCompletion (tag : Nat) (data : List Byte) (ok : Bool)
  -- grommet
  | portEnable (fn port : Nat) (v : Word)
  | portRetrain (fn port : Nat) (v : Word)
  | linkTrained (port : Nat)
  | hello (port : Nat) (f : WireFrame)
  | change (port : Nat) (f : WireFrame)
  | epochIssue
  | epoch (port : Nat) (f : WireFrame)
  | linkNak (port : Nat) (seq : BitVec 12)
  | linkDown (port : Nat) (cause : DownCause)
  | frameForward (port : Nat) (f : WireFrame)
  | rdReq (port : Nat) (f : WireFrame)
  | wr (port : Nat) (f : WireFrame)
  | slot (port : Nat) (f : WireFrame)
  | credit (port : Nat) (f : WireFrame)
  | rdRsp (port : Nat) (f : WireFrame)
  | wrAck (port : Nat) (f : WireFrame)
  | replyTimeout (rtag : Nat)
  | recentreEnd (chan : Nat)
  | linkAck (port : Nat) (seq : BitVec 12) (credits : List Nat)
  | frameDiscard (port : Nat) (f : WireFrame)
  | frameInject (idx : Nat)
  | hostInterfaceRequest (idx : Nat)
deriving DecidableEq, Repr

end Sys2Proof
end

