-- ==== Sys2Proof/Config.lean ====
section
/-! DEFINITION. What the manual leaves open: free values. Each is a constant WITHOUT a body, applied to a
counter of State (`fresh`), so that no proof can see a value of it (notes/assumptions/6.md). -/

namespace Sys2Proof.Config

/-- A free byte (contents of a codebook entry after a stopped load, R59). -/
opaque freeByte : Nat → BitVec 8

/-- A free 32-bit word (log details the manual does not list for an event, R389; a syndrome, R362). -/
opaque freeWord : Nat → BitVec 32

/-- A free accumulator total (of an entry that has received nothing since its group was opened; R125 gives totals 34 bits). -/
opaque freeTotal : Nat → BitVec 34

/-- The SECDED check byte of a stored 8-byte word in an inline-ECC region (R332): the manual names a SECDED code and gives no matrix. -/
opaque checkByte : BitVec 64 → BitVec 8

/-- Whether page `pg` of channel `c`, one of the rig shadow's, is one that the service controller writes (R258, R312): the manual gives the
shadow 8 MiB and no layout. -/
opaque shadowPage : Nat → Nat → Bool

/-- Receive buffers of a grommet port for virtual channel and lane `k` (R343, R350): the manual gives no number. -/
opaque linkBuffers : Nat → Nat

end Sys2Proof.Config
end

