-- ==== Sys2Proof/Machine/Crypto.lean ====
section
/-! DEFINITION. Byte strings, CRC-32C (R235), SHA-256 and ECDSA P-256 (R236), AES-128 in the XTS (R330) and GCM
(R349) modes. The manual names the standards; what they say is PRESUMED from them (notes/assumptions/9.md). -/

namespace Sys2Proof.Machine

/-! ## Byte strings -/

/-- `n` bytes of `x`, least significant first (R12). -/
def leBytes : Nat → Nat → List Byte
  | 0, _ => []
  | n + 1, x => BitVec.ofNat 8 x :: leBytes n (x / 256)

/-- The number a byte string spells, least significant byte first (R12). -/
def leNat : List Byte → Nat
  | [] => 0
  | b :: t => b.toNat + 256 * leNat t

/-- The number a byte string spells, most significant byte first. -/
def beNat (l : List Byte) : Nat := leNat l.reverse

/-- `n` bytes of `x`, most significant first. -/
def beBytes (n x : Nat) : List Byte := (leBytes n x).reverse

/-- The `n` bytes of `l` from place `off`; places past the end read zero. -/
def slice (l : List Byte) (off n : Nat) : List Byte :=
  let t := (l.drop off).take n
  t ++ List.replicate (n - t.length) 0

/-- The little-endian number in the `n` bytes of `l` from place `off`. -/
def fieldAt (l : List Byte) (off n : Nat) : Nat := leNat (slice l off n)

/-- Bits `[lo + n - 1 : lo]` of a number. -/
def bitsOf (x lo n : Nat) : Nat := x / 2 ^ lo % 2 ^ n

/-- All bytes of `l` are zero. -/
def allZero (l : List Byte) : Bool := l.all (· == 0)

/-- A signed reading of the low `n` bits of `x`. -/
def signedOf (n x : Nat) : Int :=
  let y := x % 2 ^ n
  if y < 2 ^ (n - 1) then (y : Int) else (y : Int) - 2 ^ n

/-! ## CRC-32C -/

/-- One bit of the reflected Castagnoli CRC. -/
def crcBit (c : BitVec 32) : BitVec 32 := if c.getLsbD 0 then (c >>> 1) ^^^ 0x82F63B78#32 else c >>> 1

/-- One byte of it. -/
def crcByte (c : BitVec 32) (b : Byte) : BitVec 32 :=
  crcBit (crcBit (crcBit (crcBit (crcBit (crcBit (crcBit (crcBit (c ^^^ b.setWidth 32))))))))

/-- CRC-32C of a byte string (R235). -/
def crc32c (l : List Byte) : BitVec 32 := (l.foldl crcByte 0xFFFFFFFF#32) ^^^ 0xFFFFFFFF#32

/-! ## SHA-256 -/

/-- The greatest number whose `k`-th power is at most `x`, among those that agree with `r` above bit `b`. -/
def rootBits (k x : Nat) : Nat → Nat → Nat
  | 0, r => r
  | b + 1, r => rootBits k x b (if (r + 2 ^ b) ^ k ≤ x then r + 2 ^ b else r)

/-- The first 32 bits of the fraction of the `k`-th root of a small number. -/
def rootFrac (k p : Nat) : BitVec 32 := BitVec.ofNat 32 (rootBits k (p * 2 ^ (32 * k)) 36 0)

/-- The first 64 primes, 2 to 311. -/
def shaPrimes : List Nat :=
  ((List.range 310).map (· + 2)).filter fun n => (List.range 16).all fun i => n == i + 2 || n % (i + 2) != 0

/-- The round constants: the fractions of the primes' cube roots. -/
def shaK : List (BitVec 32) := shaPrimes.map (rootFrac 3)

/-- The initial hash: the fractions of the first eight primes' square roots. -/
def shaInit : List (BitVec 32) := (shaPrimes.take 8).map (rootFrac 2)

/-- The exclusive or of a word's right rotations by each of `l`, and of its right shift by `n` where that is not 0. -/
def shaMix (l : List Nat) (n : Nat) (x : BitVec 32) : BitVec 32 :=
  l.foldl (fun a r => a ^^^ x.rotateRight r) (if n = 0 then 0 else x >>> n)

/-- `n` more words of the message schedule before those in `w`, which holds the words newest first: the word 16 back, the word 7 back, and
the words 15 and 2 back mixed. -/
def shaExpand : Nat → List (BitVec 32) → List (BitVec 32)
  | 0, w => w
  | n + 1, w =>
    let back := fun k => w.getD (k - 1) 0
    shaExpand n ((back 16 + shaMix [7, 18] 3 (back 15) + back 7 + shaMix [17, 19] 10 (back 2)) :: w)

/-- The working words in two lines of four, the newest first in each: `a` to `d`, and `e` to `h`. -/
structure ShaWork where
  a : List (BitVec 32)
  e : List (BitVec 32)
deriving DecidableEq, Repr

/-- One round with a round constant and a word of the schedule, added before: each line takes a new word in front and drops its last. -/
def ShaWork.round (x : ShaWork) (kw : BitVec 32) : ShaWork :=
  let at_ := fun (l : List (BitVec 32)) k => l.getD k 0
  let choose := at_ x.e 2 ^^^ (at_ x.e 0 &&& (at_ x.e 1 ^^^ at_ x.e 2))
  let majority := (at_ x.a 0 &&& (at_ x.a 1 ||| at_ x.a 2)) ||| (at_ x.a 1 &&& at_ x.a 2)
  let one := at_ x.e 3 + shaMix [6, 11, 25] 0 (at_ x.e 0) + choose + kw
  { a := (one + majority + shaMix [2, 13, 22] 0 (at_ x.a 0)) :: x.a.take 3, e := (at_ x.a 3 + one) :: x.e.take 3 }

/-- One block of 64 bytes. -/
def shaBlock (h : List (BitVec 32)) (blk : List Byte) : List (BitVec 32) :=
  let first := (List.range 16).map fun i => BitVec.ofNat 32 (beNat (slice blk (60 - 4 * i) 4))
  let sums := List.zipWith (· + ·) shaK (shaExpand 48 first).reverse
  let r := sums.foldl ShaWork.round { a := h.take 4, e := h.drop 4 }
  List.zipWith (· + ·) h (r.a ++ r.e)

/-- The padded message. -/
def shaPad (l : List Byte) : List Byte :=
  let z := (119 - l.length % 64) % 64
  l ++ 0x80 :: List.replicate z 0 ++ beBytes 8 (8 * l.length)

/-- `n` consecutive chunks of `k` items. -/
def chunks {α : Type} (k : Nat) : Nat → List α → List (List α)
  | 0, _ => []
  | n + 1, l => l.take k :: chunks k n (l.drop k)

/-- SHA-256 of a byte string. -/
def sha256 (l : List Byte) : List Byte :=
  let p := shaPad l
  ((chunks 64 (p.length / 64) p).foldl shaBlock shaInit).flatMap fun w => beBytes 4 w.toNat

/-! ## ECDSA P-256 -/

/-- Field prime of P-256. -/
def p256P : Nat := 0xffffffff00000001000000000000000000000000ffffffffffffffffffffffff
/-- Order of its base point. -/
def p256N : Nat := 0xffffffff00000000ffffffffffffffffbce6faada7179e84f3b9cac2fc632551
/-- Coefficient b. -/
def p256B : Nat := 0x5ac635d8aa3a93e7b3ebbd55769886bc651d06b0cc53b0f63bce3c3e27d2604b
/-- Base point. -/
def p256G : Nat × Nat :=
  (0x6b17d1f2e12c4247f8bce6e563a440f277037d812deb33a0f4a13945d898c296,
   0x4fe342e2fe1a7f9b8ee7eb4a7c0f9e162bce33576b315ececbb6406837bf51f5)

/-- `x ^ e mod m`, the bits of `e` below bit `n`. -/
def powMod (m x : Nat) : Nat → Nat → Nat
  | 0, _ => 1 % m
  | n + 1, e =>
    let r := powMod m (x * x % m) n (e / 2)
    if e % 2 = 1 then x * r % m else r

/-- Inverse modulo a prime below 2^256. -/
def invMod (m x : Nat) : Nat := powMod m x 256 (m - 2)

/-- Point addition; none is the point at infinity. -/
def p256Add (a b : Option (Nat × Nat)) : Option (Nat × Nat) :=
  match a, b with
  | none, b => b
  | a, none => a
  | some (x1, y1), some (x2, y2) =>
    let p := p256P
    if x1 = x2 ∧ (y1 + y2) % p = 0 then none
    else
      let l := if x1 = x2 then (3 * x1 * x1 + (p - 3)) * invMod p (2 * y1 % p) % p
               else (y2 + p - y1) * invMod p ((x2 + p - x1) % p) % p
      let x3 := (l * l + 2 * p - x1 - x2) % p
      some (x3, (l * (x1 + p - x3) + p - y1) % p)

/-- Scalar multiple, the low `n` bits of `k`. -/
def p256Mul (a : Option (Nat × Nat)) : Nat → Nat → Option (Nat × Nat)
  | 0, _ => none
  | n + 1, k =>
    let r := p256Mul (p256Add a a) n (k / 2)
    if k % 2 = 1 then p256Add a r else r

/-- ECDSA P-256 verification of a 32-byte hash under a 64-byte public key X, Y and a 64-byte signature r, s, all
big-endian (R236). -/
def ecdsaVerify (pub hash sig : List Byte) : Bool :=
  let x := beNat (slice pub 0 32)
  let y := beNat (slice pub 32 32)
  let r := beNat (slice sig 0 32)
  let s := beNat (slice sig 32 32)
  let p := p256P
  let n := p256N
  if x < p ∧ y < p ∧ (y * y) % p = (x * x * x + (p - 3) * x + p256B) % p ∧ 0 < r ∧ r < n ∧ 0 < s ∧ s < n then
    let w := invMod n s
    match p256Add (p256Mul (some p256G) 256 (beNat (hash.take 32) * w % n))
        (p256Mul (some (x, y)) 256 (r * w % n)) with
    | none => false
    | some (x3, _) => decide (x3 % n = r)
  else false

/-! ## AES-128 -/

/-- Multiplication by x in the AES field. -/
def xtime (a : Byte) : Byte := if a.getLsbD 7 then (a <<< 1) ^^^ 0x1B#8 else a <<< 1

/-- Multiplication in the AES field, the low `n` bits of `b`. -/
def gfMul (a : Byte) : Nat → Byte → Byte
  | 0, _ => 0
  | n + 1, b => (if b.getLsbD 0 then a else 0) ^^^ gfMul (xtime a) n (b >>> 1)

/-- The AES substitution: the field inverse x^254, then the affine map. -/
def aesSub (a : Byte) : Byte :=
  let m := fun x y => gfMul x 8 y
  let a2 := m a a
  let a4 := m a2 a2
  let a8 := m a4 a4
  let a16 := m a8 a8
  let a32 := m a16 a16
  let a64 := m a32 a32
  let a128 := m a64 a64
  let i := m a2 (m a4 (m a8 (m a16 (m a32 (m a64 a128)))))
  i ^^^ i.rotateLeft 1 ^^^ i.rotateLeft 2 ^^^ i.rotateLeft 3 ^^^ i.rotateLeft 4 ^^^ 0x63#8

/-- The substitution as a table. -/
def aesTable : List Byte := (List.range 256).map fun i => aesSub (BitVec.ofNat 8 i)

/-- The inverse substitution as a table. -/
def aesInvTable : List Byte := (List.range 256).map fun i => BitVec.ofNat 8 (aesTable.idxOf (BitVec.ofNat 8 i))

/-- Bytewise exclusive or. -/
def xorBytes (a b : List Byte) : List Byte := (a.zip b).map fun p => p.1 ^^^ p.2

/-- The round keys, from the last one made: ten more. -/
def aesKeys : Nat → Byte → List Byte → List (List Byte)
  | 0, _, k => [k]
  | n + 1, rc, k =>
    let sb := fun i => aesTable.getD (k.getD i 0).toNat 0
    let w0 := xorBytes (k.take 4) [sb 13 ^^^ rc, sb 14, sb 15, sb 12]
    let w1 := xorBytes (slice k 4 4) w0
    let w2 := xorBytes (slice k 8 4) w1
    let w3 := xorBytes (slice k 12 4) w2
    k :: aesKeys n (xtime rc) (w0 ++ w1 ++ w2 ++ w3)

/-- ShiftRows: byte (row r, column c) comes from column c + r. -/
def aesShift (b : List Byte) : List Byte := (List.range 16).map fun i => b.getD ((i + 4 * (i % 4)) % 16) 0

/-- Its inverse. -/
def aesInvShift (b : List Byte) : List Byte := (List.range 16).map fun i => b.getD ((i + 12 * (i % 4)) % 16) 0

/-- MixColumns with the given first row of coefficients. -/
def aesMix (c0 c1 c2 c3 : Byte) (b : List Byte) : List Byte :=
  (List.range 16).map fun i =>
    let at_ := fun k => b.getD (i / 4 * 4 + (i + k) % 4) 0
    gfMul (at_ 0) 8 c0 ^^^ gfMul (at_ 1) 8 c1 ^^^ gfMul (at_ 2) 8 c2 ^^^ gfMul (at_ 3) 8 c3

/-- Encryption rounds under the remaining round keys. -/
def aesRounds : List (List Byte) → List Byte → List Byte
  | [], b => b
  | [k], b => xorBytes (aesShift (b.map fun x => aesTable.getD x.toNat 0)) k
  | k :: ks, b => aesRounds ks (xorBytes (aesMix 2 3 1 1 (aesShift (b.map fun x => aesTable.getD x.toNat 0))) k)

/-- AES-128 encryption of one block. -/
def aesEnc (key b : List Byte) : List Byte :=
  match aesKeys 10 1 key with
  | [] => b
  | k :: ks => aesRounds ks (xorBytes b k)

/-- Decryption rounds under the remaining round keys, last first. -/
def aesInvRounds : List (List Byte) → List Byte → List Byte
  | [], b => b
  | [k], b => xorBytes ((aesInvShift b).map fun x => aesInvTable.getD x.toNat 0) k
  | k :: ks, b =>
    aesInvRounds ks (aesMix 14 11 13 9 (xorBytes ((aesInvShift b).map fun x => aesInvTable.getD x.toNat 0) k))

/-- AES-128 decryption of one block. -/
def aesDec (key b : List Byte) : List Byte :=
  match (aesKeys 10 1 key).reverse with
  | [] => b
  | k :: ks => aesInvRounds ks (xorBytes b k)

/-! ## XTS and GCM -/

/-- Multiplication by alpha of an XTS tweak, as a little-endian number. -/
def xtsDouble (t : Nat) : Nat := if t < 2 ^ 127 then 2 * t else (2 * t % 2 ^ 128) ^^^ 0x87

/-- XTS over whole 16-byte blocks with the cipher `f`. -/
def xtsBlocks (f : List Byte → List Byte) : Nat → Nat → List Byte → List Byte
  | 0, _, _ => []
  | n + 1, t, l =>
    let tb := leBytes 16 t
    xorBytes (f (xorBytes (l.take 16) tb)) tb ++ xtsBlocks f n (xtsDouble t) (l.drop 16)

/-- AES-XTS-128 (IEEE 1619) of a data unit; the length is a multiple of 16. -/
def xts (decrypt : Bool) (dataKey tweakKey : List Byte) (unit : Nat) (l : List Byte) : List Byte :=
  let t := leNat (aesEnc tweakKey (leBytes 16 unit))
  xtsBlocks (if decrypt then aesDec dataKey else aesEnc dataKey) (l.length / 16) t l

/-- Multiplication in the GCM field; bit 0 of a block is the most significant bit of its big-endian number. -/
def ghashMul (x : Nat) : Nat → Nat → Nat → Nat
  | 0, _, z => z
  | n + 1, v, z =>
    let z' := if (x / 2 ^ n) % 2 = 1 then z ^^^ v else z
    ghashMul x n (if v % 2 = 1 then (v / 2) ^^^ (0xE1 * 2 ^ 120) else v / 2) z'

/-- GHASH over zero-padded 16-byte blocks. -/
def ghash (h : Nat) (blocks : List (List Byte)) : Nat :=
  blocks.foldl (fun y b => ghashMul (y ^^^ beNat (slice b 0 16)) 128 h 0) 0

/-- Counter mode from counter block `ctr`. -/
def gcmCtr (key nonce : List Byte) : Nat → Nat → List Byte → List Byte
  | 0, _, _ => []
  | n + 1, ctr, l =>
    xorBytes (l.take 16) (aesEnc key (nonce ++ beBytes 4 ctr)) ++ gcmCtr key nonce n (ctr + 1) (l.drop 16)

/-- The GCM tag of a ciphertext with additional data. -/
def gcmTag (key nonce aad ct : List Byte) : List Byte :=
  let h := beNat (aesEnc key (List.replicate 16 0))
  let g := ghash h (chunks 16 ((aad.length + 15) / 16) aad ++ chunks 16 ((ct.length + 15) / 16) ct
    ++ [beBytes 8 (8 * aad.length) ++ beBytes 8 (8 * ct.length)])
  xorBytes (beBytes 16 g) (aesEnc key (nonce ++ beBytes 4 1))

/-- AES-GCM-128 counter-mode transform of a payload, the same for both directions. -/
def gcmCrypt (key nonce l : List Byte) : List Byte := gcmCtr key nonce ((l.length + 15) / 16) 2 l

end Sys2Proof.Machine
end

