-- ==== Sys2Proof/Machine/State.lean ====
section
/-! DEFINITION. The state of the block: plain data, every piece of state the manual names (INVENTORY.md, State), the
queue of waiting commands, and the state right after cold reset. Numbered resources are sparse tables whose unlisted
entries hold the resource's reset value. -/

namespace Sys2Proof.Machine

/-! ## Tables and banks of a tile -/

/-- Device state, `GLB_STATE.STATE` (R3). -/
inductive DevState
  | off | boot | held | ready | running | degraded | halted
deriving DecidableEq, Repr

/-- State of a table bank (R72). -/
inductive TBankSt
  | free | building | ready | active | ripple
deriving DecidableEq, Repr

/-- A bank of the table store (R72, R105, R68). `slots` holds the stored entries of each of the 16 slots. -/
structure TableBank where
  st      : TBankSt := .free
  owner   : Option Nat := none
  mode    : Nat := 0
  present : BitVec 16 := 0
  mapId   : BitVec 16 := 0
  share   : Option (Nat × Nat) := none   -- share set and set tag of a multicast
  slots   : List (List Int) := []
  sums    : List Int := []               -- group sums of the 16 slots
deriving DecidableEq, Repr

/-- A codebook entry (R58, R59). -/
structure Codebook where
  id      : BitVec 16 := 0
  valid   : Bool := false
  dim8    : Bool := false
  loading : Bool := false
  data    : List Byte := []
deriving DecidableEq, Repr

/-- State of an accumulator bank (R127). -/
inductive ABankSt
  | free | filling | ready | draining | replay
deriving DecidableEq, Repr

/-- A group context (R125). `final`: the group's FINAL segment has run; `drained`: an epilogue step has taken it. -/
structure GroupCtx where
  base  : Nat
  rows  : Nat
  wfmt  : Nat
  suma  : Int := 0
  part  : Bool := false
  final : Bool := false
  drained : Bool := false
deriving DecidableEq, Repr

/-- An accumulator entry (R122, R125): `guard` records a guard overflow, `sat` a final saturation (R131). FIRST removes
the group's entries, so that the first promotion writes the chunk; an entry that is not listed has received nothing. -/
structure AccEntry where
  total  : Int := 0
  chunk  : Int := 0
  count  : Nat := 0
  guard  : Bool := false
  sat    : Bool := false
deriving DecidableEq, Repr

/-- An accumulator bank (R125, R127). `shift` is the replay shift its values were made under (R130). -/
structure AccBank where
  st      : ABankSt := .free
  owner   : Option Nat := none
  tok     : Nat := 0
  groups  : Tab GroupCtx := []
  entries : Tab AccEntry := []
  clamped : Bool := false
deriving DecidableEq, Repr

/-! ## Strands, steps and streams -/

/-- A token record in a strand's token record buffer (R91). -/
structure TokRec where
  scale : Word
  zero  : Byte
  fmt   : Bool
  shift : Nat := 0
deriving DecidableEq, Repr

/-- A scratchpad operand after its register is added (R177). -/
inductive Opnd
  | spad (off : Nat)
  | pstore (off : Nat)
  | none_
deriving DecidableEq, Repr

/-- A step with its effective operands, as the replay log records it (R174). -/
structure LogEnt where
  word : BitVec 128
  tok  : Nat
  q    : Nat := 0
  o1   : Opnd := .none_
  o2   : Opnd := .none_
  sum  : Bool := false   -- LPASS: the first segment of its pass that names its group (R50)
deriving DecidableEq, Repr

/-- The open row group of a strand (R130, R174). `skip`: guard overflow, the remaining array steps are skipped (R132);
`redo`: the index of the next log entry of a replay under way (R134). -/
structure RowGroup where
  tok   : Nat
  rgo   : Bool
  skip  : Bool := false
  redo  : Option Nat := none
deriving DecidableEq, Repr

/-- Strand state (R168). -/
inductive StrandSt
  | free | loading | issuing | waiting | ending
deriving DecidableEq, Repr

/-- Wait reason (R169). -/
inductive Reason
  | none_ | waitu | unit | tbank | abank | codebook | stream | sctx | slot | credit | hitch | mset | end_
deriving DecidableEq, Repr

/-- A bight slot a strand holds (R456): acquired by BREAD (`rd`) or by BWRITE. -/
structure HeldSlot where
  bight : Nat
  slot  : Nat
  rd    : Bool
deriving DecidableEq, Repr

/-- A FILLING slot of a producer strand (R218, R220): claimed by an EPI step (`epi`) or a stream. -/
structure ClaimedSlot where
  bight : Nat
  slot  : Nat
  epi   : Bool
deriving DecidableEq, Repr

/-- A strand (R166 to R174). -/
structure Strand where
  st       : StrandSt := .free
  reason   : Reason := .none_
  uid      : Nat := 0                 -- the task's number in the scheduler
  func     : Nat := 0
  kernel   : Nat := 0
  lay      : Nat := 0
  base     : Nat := 0
  size     : Nat := 0
  a        : List Word := []          -- A0..A14
  c        : List (BitVec 16) := []   -- C0..C3
  next     : Nat := 0                 -- index of the next step
  recs     : Tab TokRec := []         -- token record buffer; a token not listed has not been read
  log      : List LogEnt := []
  logOver  : Bool := false
  rg       : Option RowGroup := none
  pass     : Option (List Nat) := none -- groups named by the lookup pass under way (R181)
  unacked  : Nat := 0                 -- unacknowledged writes (R205)
  outRd    : Nat := 0                 -- responses outstanding (R173)
  held     : List HeldSlot := []      -- in order of acquisition
  claims   : List ClaimedSlot := []
  arrived  : Tab Nat := []            -- hitch, arrivals whose round is not released yet (R226)
  status   : Nat := 0                 -- status once ENDING
  replays  : Nat := 0
  shifts   : Tab Nat := []            -- token shifts of a part dispatched again (R143)
  only     : Option (List Nat) := none -- tokens a part dispatched again executes (R143)
  waitFrom : Nat := 0                 -- timebase at the start of a wait
  nonfin   : Bool := false            -- NONFINITE already logged for the task (R94)
  again    : Option (Nat × Nat) := none -- reduction group and token whose new partials a COMBINE waits for after a REPLAY (R142)
  kept     : List (Nat × Nat) := []   -- bight and slot of partials of other tokens that such a wait has passed over
deriving DecidableEq, Repr

/-- A step on a unit (R170). For the array: `run` once its table set is the active one, `skipped` if R132 skips it,
`bank` its accumulator bank. For the builder, a TMCAST (R68): `wait` while its share hitch has not been released, `arrive` while it
has not arrived on it, `since` the timebase at its arrival, `left` what it waits for, and `out` the share of slots it has still to send, each with its stored
entries, with `set` the share set and the set tag. For the epilogue: `bank` the bank it drains, `clamped` when the task ends with status
0x04 after it. For synchronisation: `arrive` an arrival that waits for acknowledgements (R225). -/
structure UStep where
  strand  : Nat
  uid     : Nat
  ent     : LogEnt
  run     : Bool := false
  clamped : Bool := false
  skipped : Bool := false
  wait    : Bool := false
  bank    : Nat := 0
  arrive  : Option (Nat × Nat) := none   -- hitch and count
  since   : Nat := 0
  left    : Nat := 0                     -- releases of its hitch to come, the one of its own round the last
  out     : List (Nat × List Int) := []
  set     : Nat × Nat := (0, 0)
deriving DecidableEq, Repr

/-- A stream descriptor (R192). -/
structure Desc where
  gaddr  : Nat
  esize  : Nat
  ndim   : Nat
  dir    : Bool
  cls    : Nat
  dbight : Bool
  mcast  : Bool
  bight  : Nat
  loc    : Nat
  mgroup : Nat
  count  : List Nat
  stride : List Int
deriving DecidableEq, Repr

/-- A slot a bight stream has claimed (R201, R202), and its bytes that have not landed (a load) or left (a store). -/
structure FillSlot where
  slot    : Nat
  pending : Nat
deriving DecidableEq, Repr

/-- A stream context in use (R197). `pos` is the next byte in dense order. -/
structure StreamCtx where
  strand  : Nat
  uid     : Nat
  sid     : Nat
  desc    : Desc
  pos     : Nat := 0
  out     : Nat := 0              -- reads outstanding
  unacked : Nat := 0              -- writes unacknowledged
  fills   : List FillSlot := []
  stopped : Bool := false         -- issues nothing further (R195, R173)
deriving DecidableEq, Repr

/-- An entry of the table of recent correctable words (R367). `word`: its physical bank, line and word index, as `Tile.place` numbers
them. -/
structure CeEnt where
  word : Nat
  lap  : Nat
deriving DecidableEq, Repr

/-- A physical tile. CSR words keep the bit places of their register tables. -/
structure Tile where
  -- scratchpad (R156 to R163), addressed by scratchpad offset
  mem       : Mem := []
  valid     : NSet := []                -- words (offset / 8) whose valid bit is set
  ecc       : Tab Ecc := []             -- words that do not check clean
  retire    : BitVec 64 := 0            -- TILE_SPAD_RETIRE
  spare     : Tab Nat := []             -- bank * 4 + k: the line spare line k replaces
  spareSel  : BitVec 6 := 0
  ceTab     : List CeEnt := []
  heals     : NSet := []                -- hard-fault candidates awaiting their heal tests (R367), by `Tile.place`
  rereads   : Tab Bool := []            -- words waiting for their re-read (R363); true: found by the scrubber
  -- program store (R175, R176)
  pstore    : Mem := []
  pstoreAddr : BitVec 14 := 0
  masks     : Tab Nat := []             -- strand mask of each kernel (R244)
  -- array (R43 to R81)
  tb0       : TableBank := { st := .active }
  tb1       : TableBank := {}
  row0      : Bool := false             -- bank selected by row 0
  row31     : Bool := false             -- bank selected by row 31
  swapBusy  : Bool := false
  arraySt   : Word := 0                 -- bits 0..2 of TILE_ARRAY_STATUS
  invalidInfo : Word := 0
  setLimit  : BitVec 16 := 0x0064
  injectCyc : Word := 0
  swapCyc   : Word := 0
  setwaitCyc : Word := 0
  cb0       : Codebook := {}
  cb1       : Codebook := {}
  quantSt   : Word := 0                 -- TILE_QUANT_STATUS
  -- accumulators (R121 to R138)
  acc0      : AccBank := {}
  acc1      : AccBank := {}
  satSt     : Word := 0                 -- TILE_SAT_STATUS
  satInfo   : Word := 0
  replayCnt : Word := 0
  -- strands, units, streams
  strands   : Tab Strand := []
  units     : Tab (List UStep) := []    -- 0 BLD, 1 ARR, 2 EPI, 3 VEC, 4 STR, 5 SYN
  ctxs      : Tab (Option StreamCtx) := []
  rr        : Nat := 15                 -- context served last (R199)
  outReads  : Nat := 0
  tokens    : Nat := 4096               -- bandwidth bucket of the turn group, bytes (R301)
  tokMark   : Nat := 0                  -- timebase up to which the bucket has been refilled
  arbCyc    : Word := 0
  boundOff  : Word := 0
  boundInfo : Word := 0
  vecSt     : Word := 0
  bightLimit : BitVec 16 := 0x0064
  bightSt   : Word := 0
  bightSel  : BitVec 8 := 0
  streamErr : Word := 0
  streamErrAddr : BitVec 40 := 0
  -- ECC and scrubber (R362 to R372)
  eccSt     : Word := 0
  eccCnt    : Word := 0
  scrubCtl  : Word := 0x27100001
  scrubLap  : BitVec 16 := 0
  scrubAlarm : Bool := false
  alarmed   : Bool := false             -- SCRUB_ALARM already logged in this lap
  lapTclk   : BitVec 64 := 0
  lapUs     : Word := 0
  lapStart  : Nat := 0
  lapCount  : Nat := 0                  -- TCLK the lap under way had used at `lapMark`
  lapMark   : Nat := 0
  scrubPos  : Nat := 0
  lost      : Bool := false
  deadRouter : Bool := false            -- the router discards local deliveries (R379 step 1)
  lastState : Option Nat := none        -- timebase of the last TILE_STATE fault (R384)
  lastPstore : Option Nat := none
  -- scheduler's view of the tile (R295 to R297)
  launch    : Option Nat := none        -- task in the launch slot
  turn      : Option Nat := none        -- turn group
  closed    : Bool := false
deriving DecidableEq, Repr

/-! ## Rig -/

/-- A bight declaration (R211, R241). Endpoints are (node, logical tile). -/
structure BightDecl where
  lay     : Nat
  cnode   : Nat
  ctile   : Nat
  region  : Nat
  slotsz  : Nat
  slots   : Nat
  nprod   : Nat
  prod    : List (Nat × Nat)
  tps     : Nat
  tstride : Nat
deriving DecidableEq, Repr

/-- A multicast group (R240). -/
structure McastGroup where
  share    : Bool
  lay      : Nat
  src      : Nat
  shareset : Nat
  dest     : List Nat
deriving DecidableEq, Repr

/-- A reduction group (R243). -/
structure RedGroup where
  lay    : Nat
  n      : Nat
  cbight : Nat
  comb   : Nat × Nat
  parts  : List (Nat × Nat)
deriving DecidableEq, Repr

/-- A lay entry (R239). -/
structure LayEnt where
  nstage : Nat
  ver    : Word
deriving DecidableEq, Repr

/-- The running rig's structure (R237 to R245). An absent table entry is an undefined resource. -/
structure Rig where
  version  : Word := 0
  degraded : Bool := false
  profiles : BitVec 4 := 0
  key      : Nat := 0
  spares   : List Nat := []
  minb     : Tab Nat := []
  lays     : Tab (Option LayEnt) := []
  place    : Tab (Option (Nat × Nat)) := []     -- logical tile: lay, stage
  mcast    : Tab (Option McastGroup) := []
  bights   : Tab (Option BightDecl) := []
  hitches  : Tab (Option (Nat × Nat)) := []     -- target, lay
  idle     : Tab (Nat × Nat) := []              -- hitch: target and lay of an entry whose ALLOC is clear (R242)
  reduce   : Tab (Option RedGroup) := []
  masks    : Tab Nat := []                      -- 64 * logical tile + kernel
  pstores  : Tab (List Byte) := []              -- logical tile: program-store image
deriving DecidableEq, Repr

/-- Slot state (R214). -/
inductive SlotSt
  | empty | filling | full | draining
deriving DecidableEq, Repr

/-- A bight slot at its consumer (R215): the recorded producer, the returned mark, and the strand that holds it. -/
structure BSlot where
  st       : SlotSt := .empty
  prod     : Option (Nat × Nat) := none
  puid     : Option Nat := none
  returned : Bool := false
  holder   : Option (Nat × Nat) := none   -- physical tile and strand
deriving DecidableEq, Repr

/-- A bight's live state (R213 to R216): slots and read pointer of a consumer on this node, credits and next slots of
the producers on this node by rank. -/
structure BightSt where
  slots  : Tab BSlot := []
  rd     : Nat := 0
  credit : Tab Nat := []
  nextWr : Tab Nat := []
deriving DecidableEq, Repr

/-- A hitch (R222). Target, lay and ALLOC come from the rig. -/
structure Hitch where
  target : Nat := 0
  lay    : Nat := 0
  alloc  : Bool := false
  ovf    : Bool := false
  count  : BitVec 16 := 0
  gen    : BitVec 16 := 0
deriving DecidableEq, Repr

/-! ## Scheduler -/

/-- A wait entry (R280). -/
inductive WaitEnt
  | tag (t : Word)
  | hitch (h : Nat) (gen : BitVec 16)
deriving DecidableEq, Repr

/-- A predecessor (R279, R287): its task number, ORDER, and the status it retired with. -/
structure Pred where
  uid   : Nat
  order : Bool
  done  : Option Nat := none
deriving DecidableEq, Repr

/-- Where an accepted task stands. -/
inductive TaskSt
  | waiting                            -- accepted, not dispatched
  | launch (tile : Nat)                -- in the launch slot of a physical tile
  | running (tile strand : Nat)        -- on a strand of a physical tile
  | verdicts                           -- a split-reduction part whose execution has ended (R143)
  | retired                            -- final status fixed, record formed
deriving DecidableEq, Repr

/-- An accepted task (R278, R282). Its number is its age. -/
structure Task where
  func    : Nat
  queue   : Nat
  tag     : Word
  kernel  : Nat
  irq     : Bool
  lay     : Nat
  stage   : Nat
  tile    : Nat
  layVer  : Word
  base    : Nat
  size    : Nat
  opnds   : List Word
  preds   : List Pred := []
  waits   : List WaitEnt := []
  st      : TaskSt := .waiting
  status  : Nat := 0
  replays : Nat := 0
  propagated : Bool := false
  retried : Bool := false
  reexec  : Bool := false
  ltile   : Nat := 0xFF
  start   : Nat := 0
  fin     : Nat := 0
  arrivals : List (Nat × BitVec 16) := []   -- hitch and round of recorded arrivals of this execution (R227)
  oldArr  : List (Nat × BitVec 16) := []    -- those of earlier executions that this one has not repeated
  reds    : List Nat := []                  -- reduction groups the task sent partials to
  sent    : List (Nat × Nat) := []          -- (RED_ID, token) of partials sent
  verds   : List (Nat × Nat × Nat) := []    -- (RED_ID, token, verdict) received
  aborted : List (Nat × Nat) := []          -- (RED_ID, token) of ABORT verdicts; 64 for every token (R142)
  shifts  : Tab Nat := []                   -- token shift for the next execution (R143)
  only    : Option (List Nat) := none
  lostTo  : Bool := false                   -- ended by a fault, to become ready again when its strand is free (R382)
deriving DecidableEq, Repr

/-- A formed record (R303), less the phase bit that posting adds. `after`: a MARKER's earlier tasks. -/
structure CRec where
  tag    : Word
  status : Nat
  replay : Nat := 0
  flags  : BitVec 8 := 0
  tile   : Nat := 0xFF
  start  : Nat := 0
  fin    : Nat := 0
  uid    : Option Nat := none
deriving DecidableEq, Repr

/-- A queue entry whose packet has been fetched and waits for acceptance (R281, R282). -/
structure PendEntry where
  etag  : Word
  irq   : Bool
  plen  : Nat
  bytes : List Byte
  fault : Option Nat := none   -- status of a packet-level fault whose record awaits posting (R283, R285)
  fetch : Option Nat := none   -- address of the packet while its fetch waits for Bus Master Enable (R439)
deriving DecidableEq, Repr

/-- Queue state (R267). -/
inductive QSt
  | disabled | active | error | flushing
deriving DecidableEq, Repr

/-- A queue context (R264 to R274). -/
structure Queue where
  sqBase  : BitVec 40 := 0
  sqLog   : BitVec 5 := 4
  cqBase  : BitVec 40 := 0
  cqLog   : BitVec 5 := 4
  vector  : BitVec 11 := 0
  cfg     : Word := 0x2            -- SCH_Q_CFG
  head    : BitVec 32 := 0
  tail    : BitVec 32 := 0
  cqTail  : BitVec 32 := 0
  cqHead  : BitVec 32 := 0
  st      : QSt := .disabled
  err     : BitVec 4 := 0
  entry   : Option PendEntry := none
  recs    : List CRec := []
  markers : List (Nat × CRec) := []  -- first task number accepted after the marker, and its record
  unsig   : Nat := 0               -- records posted since the last signal
  unsigAt : Nat := 0               -- timebase when the first of them was posted (R305)
  cqHeld  : Bool := false          -- a record write was refused; retried when the queue is re-enabled (R274)
deriving DecidableEq, Repr

/-- A queue group (R264). -/
structure QGroup where
  cfg    : Word := 0x700
  strand : Word := 0
  bw     : Word := 0
deriving DecidableEq, Repr

/-! ## Mesh -/

/-- A mesh endpoint (R30, R31). `fenced`: a logical tile whose map entry was fenced when the packet was made; the source
holds the packet until the fence clears (R21). -/
inductive Endpoint
  | tile (phys : Nat)
  | fenced (logical : Nat)
  | chan (c : Nat)
  | host (odd : Bool)      -- its two attachments: for even 4 KiB pages, and for odd ones (R32)
  | port (p : Nat)
  | core (portB : Bool)    -- its two attachments: port A, and port B (R33)
deriving DecidableEq, Repr

/-- Virtual channel (R24). -/
inductive VC
  | ctl | req | rsp | pst
deriving DecidableEq, Repr

/-- Who waits for a response or an acknowledgement. -/
inductive Requester
  | stream (tile strand uid ctx pos len : Nat)   -- a stream's request for dense bytes pos .. pos + len - 1
  | step (tile strand uid : Nat)                 -- a unit step's write
  | msg (tile uid : Nat) (stream : Option (Nat × Nat))   -- a slot message; of a stream, its ID and the slot's device address
  | bar4 (fn n : Nat)                            -- a host access through BAR4: a read's length, or a write's address
  | peer (port src sep rtag : Nat)               -- a remote node's frame, answered through a port
  | fill (chan fill : Nat)                       -- a splice-cache fill of a host-range block (R335)
  | tagLine (chan fill line : Nat)               -- the line of host tags that a fill needs, by its device address (R335)
  | none_
deriving DecidableEq, Repr

/-- A slot-state update (R215, R345). -/
inductive SlotMsg
  | claim | full | abandon
deriving DecidableEq, Repr

/-- A verdict (R142). -/
inductive VerdictKind
  | accept | replay | clamp | abort
deriving DecidableEq, Repr

/-- What a packet carries. Addresses are device addresses; scratchpad packets carry the tile's offset. -/
inductive Body
  | read (addr len : Nat) (func : Nat) (weight : Bool) (who : Requester)
  | write (addr : Nat) (data : List (Nat × Byte)) (func : Nat) (prod : Option (Nat × Nat)) (peer : Bool) (who : Requester)
  | spadRead (off len : Nat) (who : Requester)
  | spadWrite (data : List (Nat × Byte)) (prod : Option (Nat × Nat)) (who : Requester)
  | response (data : List Byte) (status : Nat) (who : Requester)
  | ack (status : Nat) (who : Requester)
  | slot (m : SlotMsg) (bight slot : Nat) (prod : Nat × Nat) (uid : Nat) (who : Requester)
  | credit (bight rank : Nat)
  | tableSlot (share tag slot : Nat) (entries : List Int) (who : Requester)
  | arrive (hitch count uid : Nat) (tile strand : Nat) (tmcast : Bool)
  | release (hitch : Nat) (gen : BitVec 16) (tile strand uid : Nat)
  | verdict (red tok : Nat) (v : VerdictKind) (part : Nat × Nat)   -- tok: 64 for every token of the group that is not decided
deriving DecidableEq, Repr

/-- A packet in flight. `more`: the further destinations of a multicast packet, to which routers have not delivered its copy yet (R27).
`bad`: an uncorrectable error of a link or a router marked it (R362). -/
structure Packet where
  src  : Endpoint
  dst  : Endpoint
  vc   : VC
  body : Body
  more : List Endpoint := []
  bad  : Bool := false
deriving DecidableEq, Repr

/-! ## Memory side -/

/-- A splice-cache line (R206). -/
structure SpliceLine where
  addr : Nat
  func : Nat
  data : List Byte
deriving DecidableEq, Repr

/-- What a channel finds when it takes up a block (R318, R321, R330, R333): status 0x00, 0x01 or 0x05, the plaintext, and
for a damage check its kind, the table and the tag. `touched`: DRAM was read; `tagMiss`: the block's tag line was read from DRAM, since
the tag cache did not hold it (R322). -/
structure BlockRes where
  st      : Nat := 0
  data    : List Byte := []
  kind    : Nat := 0
  table   : Nat := 0
  tag     : Nat := 0
  touched : Bool := false
  tagMiss : Bool := false
deriving DecidableEq, Repr

/-- A splice-cache fill in flight (R207, R208, R210): the block as it stood when the fill began, and the reads that wait
on it. `install`: the block will be installed and later misses may wait on the fill. For a host-range block (R335): the bytes the host
has returned, and the block's tag, `none` inside when the read of it failed; `stale`: the share was flushed since. -/
structure SpliceFillSt where
  addr    : Nat
  func    : Nat
  install : Bool
  snap    : BlockRes := {}
  waiters : List (Nat × Nat × Requester)   -- address, length, requester
  host    : Option (List Byte × Bool) := none
  hostTag : Option (Option Nat) := none
  stale   : Bool := false
deriving DecidableEq, Repr

/-- A line of the compression tag cache (R322, R335): the tags of one page, whose values `Chan.tags` holds, `dirty` until it is written
back; or a line of a function's host tag array, with its bytes, by its device address. -/
structure TagLine where
  key   : Nat
  host  : Option Nat := none     -- a host tag line: its function
  dirty : Bool := false
  data  : List Byte := []
deriving DecidableEq, Repr

/-- An open gather buffer (R329). -/
structure GatherBuf where
  addr   : Nat                       -- device address of the block
  bytes  : List (Nat × Byte)         -- offset in the block
  acks   : List Requester
deriving DecidableEq, Repr

/-- Training state of a channel (R420, R421). -/
inductive TrainSt
  | untrained | trained | failed | out
deriving DecidableEq, Repr

/-- A memory channel. -/
structure Chan where
  dram     : Mem := []               -- local bytes
  tags     : Tab Nat := []           -- tag of each local block, as the tag area and the tag cache together hold it
  tagLines : List TagLine := []      -- the lines in the tag cache, most recently used first (R322)
  badWords : NSet := []              -- stored 8-byte words of inline-ECC regions with a lasting uncorrectable error (R332)
  lostTags : NSet := []              -- blocks whose tag a lost tag line held (R362)
  written  : NSet := []              -- local pages whose bit is set
  lostWpm  : NSet := []              -- pages whose bit an uncorrectable error lost (R362)
  sets     : Tab (List SpliceLine) := []   -- most recently used first
  fills    : Tab SpliceFillSt := []
  nextFill : Nat := 0
  bufs     : Tab GatherBuf := []     -- in order of opening
  nextBuf  : Nat := 0
  spliceEn : Bool := true
  flushing : Bool := false
  hit      : Word := 0
  miss     : Word := 0
  merge    : Word := 0
  eccCnt   : Word := 0
  window   : Nat := 0                -- the 1 microsecond window that `served` counts, by the timebase (R302)
  served   : Tab Nat := []           -- bytes served to each queue group in it
  train    : TrainSt := .untrained
  tTrain   : Int := 0
  tNow     : Int := 0
  trainCnt : Word := 0
  busy     : Bool := false           -- a re-centre runs
  retrain  : Bool := false           -- a full retrain runs
  due      : Bool := false           -- a full retrain is due at the next slot (R421, R422)
  deferred : Bool := false
  saved    : Bool := false           -- training values kept in the always-on core (R419)
deriving DecidableEq, Repr

/-- A region entry (R315). -/
structure Region where
  base : BitVec 24 := 0
  size : BitVec 24 := 0
  ctl  : Word := 0
  tag  : Word := 0
deriving DecidableEq, Repr

/-- A host window (R334). -/
structure HostWin where
  lo : Word := 0
  hi : Word := 0
deriving DecidableEq, Repr

/-- Expander and memory-map registers (chapter 09). -/
structure Expander where
  ways     : BitVec 2 := 0
  set      : BitVec 2 := 0
  waysNext : BitVec 2 := 0
  setNext  : BitVec 2 := 0
  chCap    : BitVec 2 := 0
  nextBad  : Bool := false
  mapped   : BitVec 16 := 0
  regions  : Tab Region := []
  clrBase  : BitVec 24 := 0
  clrSize  : BitVec 24 := 0
  clrBusy  : Bool := false
  tblSrc   : BitVec 40 := 0
  tblErr   : Bool := false
  tblReason : BitVec 2 := 0
  tables   : Tab (List Byte) := []   -- 128 bytes each
  keyFunc  : BitVec 6 := 0
  keyEnBit : Bool := false
  keyData  : BitVec 256 := 0
  keys     : Tab (BitVec 256) := []  -- data key low, tweak key high
  keyEn    : BitVec 64 := 0
  dmgInfo  : Word := 0
  dmgAddr  : BitVec 40 := 0
  hostWin  : Tab HostWin := []
deriving DecidableEq, Repr

/-! ## Grommet -/

/-- Port state, `GRM_PORT_STATUS.STATE`. -/
inductive PortSt
  | down | training | hello | up | heldDown
deriving DecidableEq, Repr

/-- A grommet port. -/
structure Port where
  ctl      : Word := 0                 -- EN bit 0, KEY_EN bit 2
  st       : PortSt := .down
  nbValid  : Bool := false
  nb       : BitVec 4 := 0
  flags    : BitVec 5 := 0             -- TOPO_MISMATCH, KEY_MISMATCH, DUP_ID, GCM_FAIL, WENT_DOWN
  cnt      : Word := 0
  keyData  : BitVec 128 := 0           -- as written
  keyNew   : Bool := false             -- written since; takes effect, with TX_CTR 0, when the port next leaves DOWN
  key      : BitVec 128 := 0           -- in force since the port last left DOWN
  txCtr    : BitVec 64 := 0
  rxCtr    : BitVec 64 := 0
  txSeq    : BitVec 12 := 0
  rxSeq    : BitVec 12 := 0
  replay   : List WireFrame := []      -- replay buffer, oldest first
  sends    : List Nat := []            -- how many times each of those has been sent (R351)
  credits  : Tab Nat := []             -- link credits by 2 * VC + lane
  draining : Bool := false             -- EN was cleared; the replay buffer is being completed
  mq       : List (BitVec 128 × List Byte) := []   -- link-state frames that wait for the replay buffer and a buffer of the neighbour
  held     : List (BitVec 128 × List Byte) := []   -- checked frames in the receive buffers, oldest first: header and decrypted payload (R352)
deriving DecidableEq, Repr

/-- A RD_REQ, WR or SLOT that awaits its reply (R353, R355). -/
structure PendFrame where
  dst  : Nat
  read : Bool
  grp  : Nat             -- the frames that carry one write share a number
  st   : Nat := 0        -- lowest status so far of that write's other frames
  who  : Requester
deriving DecidableEq, Repr

/-- Node-wide grommet state. -/
structure Grommet where
  node     : BitVec 4 := 0
  dimX     : BitVec 5 := 2
  dimY     : BitVec 3 := 1
  epoch    : EpochRec := ⟨0, 0, 0, 0⟩
  maxEpoch : BitVec 32 := 0            -- highest number seen in any HELLO, CHANGE or EPOCH
  member   : BitVec 16 := 0
  leader   : BitVec 4 := 0
  allow    : BitVec 64 := 0
  aperLo   : Word := 0
  aperHi   : Word := 0
  timeout  : BitVec 16 := 0x0032
  codeA    : Tab Word := []
  codeB    : Tab Word := []
  ports    : Tab Port := []
  pend     : Tab PendFrame := []       -- by request tag
  nextTag  : Nat := 0
  reports  : Tab ChangeMsg := []       -- CHANGEs collected, by node
  collecting : Bool := false           -- the 5 us wait of the leader runs
  told     : Bool := false             -- whether this node last reported itself as serving
  fenced   : NSet := []                -- destinations whose route changed (R354)
deriving DecidableEq, Repr

/-! ## Service controller -/

/-- State of a flash slot. -/
inductive FSlotSt
  | empty | writing | valid | bad
deriving DecidableEq, Repr

/-- A rig or firmware slot as the journal records it (R252, R424). -/
structure FSlot where
  st     : FSlotSt := .empty
  key    : BitVec 2 := 0
  reason : BitVec 8 := 0
  ver    : Word := 0
  len    : Nat := 0
  digest : List Byte := []
deriving DecidableEq, Repr

/-- The journal's state (R252). -/
structure Journal where
  rig0    : FSlot := {}
  rig1    : FSlot := {}
  boot    : Bool := false
  fw0     : FSlot := {}
  fw1     : FSlot := {}
  fwBoot  : Bool := false
  lines   : List (Nat × Nat × Nat) := []   -- tile, bank, line, in order of retirement
  banks   : Tab (BitVec 64) := []          -- physical tile: banks retired
  tiles   : NSet := []
  revoked : BitVec 4 := 0
  seq     : Nat := 0                       -- SEQ of the last record that stands
  comm    : Nat := 0                       -- SEQ of the last committed record
  pos     : Nat := 0                       -- next journal byte to program
deriving DecidableEq, Repr

/-- What the running rig command still has to do (R259, R261, R262). -/
inductive DrainKind
  | whole (slot : Option Bool)       -- slot to commit ACTIVATE for
  | lay (n : Nat)
  | tile (l : Nat)
deriving DecidableEq, Repr

/-- A rig command between validation and its last step. -/
structure DrainSt where
  kind : DrainKind
  rig  : Rig
  phys : List Nat := []
  role : List Nat := []
  set  : Option (BitVec 2 × BitVec 2) := none   -- channel set to apply, when it differs (R409)
  left : List Nat := []                         -- logical tiles the lay gives up
  mine : List Nat := []                         -- logical tiles the image places
deriving DecidableEq, Repr

/-- A fault-latch entry (R383). `own`: the tasks that own the lost state of a TILE_STATE fault; none when the owner is unknown
and for every other kind. `spare`: the spare that takes over for a lost tile (R379 step 3). -/
structure FaultEnt where
  source : BitVec 16
  kind   : BitVec 4
  at_    : Nat                       -- timebase when it was latched
  acted  : Bool := false             -- recovered; the window waits for the tasks to retire
  uids   : List Nat := []            -- the tasks it ended
  own    : Option (List Nat) := none
  spare  : Option Nat := none
deriving DecidableEq, Repr

/-- The service controller (chapters 07, 11, 12). -/
structure Svc where
  rigActive  : Word := 0             -- SVC_RIG_ACTIVE less BOOT_SLOT
  memFail    : Bool := false         -- memory training failed in start-up (R256, R263)
  rigSrc     : BitVec 40 := 0
  rigLen     : Word := 0
  rigBusy    : Bool := false
  rigDone    : Bool := false
  rigErr     : Bool := false
  rigReason  : BitVec 8 := 0
  rigSect    : BitVec 8 := 0xFF
  rigEntry   : BitVec 16 := 0
  drainLimit : BitVec 16 := 0x0064
  drain      : Option DrainSt := none
  retireBusy : Bool := false
  retireDone : Bool := false
  retireErr  : Bool := false
  retireReason : BitVec 3 := 0
  retireTile : Option Nat := none    -- the tile whose recovery the retirement under way waits for
  retireFlash : Bool := true         -- the flash takes the record of that retirement
  faults     : List FaultEnt := []   -- at most two, entry 0 first
  pwrBusy    : Bool := false
  pwrDone    : Bool := false
  pwrErr     : Bool := false
  pwrReason  : BitVec 3 := 0
  profile    : BitVec 2 := 1
  bootProf   : BitVec 2 := 1
  supplyWait : Option (BitVec 2) := none   -- profile whose supply is awaited
  profNext   : Option (BitVec 2) := none   -- profile that takes effect with the divisor (R404)
  pd         : Tab (BitVec 2) := []  -- 0 OFF, 1 RET, 2 ON, 3 in transition
  pdNext     : Tab (BitVec 2) := []  -- target of a transition
  fwBusy     : Bool := false
  fwDone     : Bool := false
  fwErr      : Bool := false
  fwReverted : Bool := false
  fwReason   : BitVec 8 := 0
  romMode    : Bool := false
  runSlot    : Bool := false
  fwMem      : Bool := false         -- the firmware was loaded from memory, and runs from no slot
  fwVersion  : Word := 0
  fwWait     : Option Bool := none   -- SWITCH waits for a quiet state: slot
  fwAlive    : Option (Bool × Word × Bool × Bool) := none -- handed over, not alive yet: old slot, version and fwMem; new slot
  tj         : BitVec 8 := 0
  level      : BitVec 2 := 0
  levelShown : BitVec 2 := 0         -- GLB_PROFILE.LEVEL, which changes with the divisor
  sensor     : BitVec 5 := 0
  tjMax      : BitVec 8 := 0x80
  hot        : Nat := 0              -- consecutive samples at 110 C or above
  div        : Nat := 5              -- TCLK divisor in force
  divNext    : Option Nat := none    -- divisor that takes effect at the next common edge
deriving DecidableEq, Repr

/-- A tile-map entry (R19, R20): role 0 ACTIVE, 1 SPARE, 2 RETIRED. -/
structure MapEnt where
  phys   : Nat
  role   : Nat
  fenced : Bool := false
deriving DecidableEq, Repr

/-- An event of the error log before its commit (R387, R390). -/
structure LogEvent where
  time   : Nat
  source : BitVec 16
  event  : BitVec 16
  sev    : BitVec 8
  loc    : BitVec 64 := 0
  info0  : Word := 0
  info1  : Word := 0
  late   : Bool := false
deriving DecidableEq, Repr

/-- A stored entry: the event and its SEQ; `lost` when no two copies agree (R392). -/
structure LogStored where
  ev   : LogEvent
  seq  : BitVec 16
  lost : Bool := false
deriving DecidableEq, Repr

/-- The error log (R387 to R393). -/
structure ErrLog where
  first  : List LogStored := []      -- entries 0 to 895
  ring   : Tab LogStored := []       -- entries 896 to 1,023
  rhead  : Nat := 0
  rcount : Nat := 0
  ovf    : Bool := false
  loss   : Bool := false
  seq    : Nat := 0
  irqSev : BitVec 5 := 0x1C
  lostCount : Word := 0
  mirLo  : Word := 0
  mirHi  : Word := 0
  mirPos : Nat := 0
  queue  : List LogEvent := []       -- events not committed yet
deriving DecidableEq, Repr

/-! ## Global block, pins, PCIe -/

/-- Hold logic (R394 to R397). -/
structure Hold where
  discMs  : BitVec 8 := 0x64
  a       : Bool := false
  b       : Bool := false
  agreed  : Bool := true
  disagree : Bool := false
  disc    : Bool := false
  run     : Nat := 0
  cnt     : BitVec 16 := 0
  max     : Word := 0
deriving DecidableEq, Repr

/-- An MSI-X table entry (R441). -/
structure MsixEnt where
  addr   : BitVec 64 := 0
  data   : Word := 0
  masked : Bool := true
deriving DecidableEq, Repr

/-- A PCIe function (R435, R439, R441). -/
structure Func where
  bme  : Bool := false
  mse  : Bool := false
  d3   : Bool := false
  msix : Tab MsixEnt := []
  pba  : BitVec 32 := 0
  latch : Tab Word := []             -- captured high words by register (R13)
  qsel : BitVec 15 := 0              -- SCH_Q_SEL
deriving DecidableEq, Repr

/-- Pins and straps (R430 to R433). -/
structure Pins where
  pwrGood   : Bool := true
  perst     : Bool := true           -- PERST# asserted
  supplyReq : BitVec 2 := 1
  ackLow    : Bool := false          -- a low sample of SUPPLY_ACK has followed the last change of SUPPLY_REQ
  faultN    : Bool := true
  thermN    : Bool := true
  clkreqN   : Bool := false
  alertN    : Bool := true
  hiZ       : Bool := false
  nodeId    : BitVec 4 := 0
  grm       : BitVec 6 := 0
  bmAddr    : BitVec 2 := 0
deriving DecidableEq, Repr

/-- Global block and device state. -/
structure Glb where
  st        : DevState := .boot
  haltCause : BitVec 3 := 0
  degRig    : Bool := false
  degChan   : Bool := false
  irq       : BitVec 4 := 0
  mask      : BitVec 4 := 0xF
  time      : Nat := 0               -- TIME_NOW, 64 bits
  stepping  : BitVec 8 := 0x10
  serial    : BitVec 64 := 0
  linkUp    : Bool := false          -- the host link has trained
  vfEn      : Bool := false
  started   : Bool := false          -- start-up has run since PWR_GOOD rose
  warm      : Bool := false          -- the start-up in progress, or the last one, follows a warm reset
  avail     : Nat := 1               -- start-up steps completed, for the availability of CSR blocks (R416)
  fuses     : List (Option (List Byte)) := [none, none, none, none]
  fuseRev   : BitVec 4 := 0
deriving DecidableEq, Repr

/-- What leaves the device. -/
inductive OutEvent
  | hostWrite (fn : Nat) (addr : Nat) (data : List Byte)       -- PCIe Memory Write
  | hostRead (fn : Nat) (addr len tag : Nat) (ro : Bool)       -- PCIe Memory Read issued
  | msix (fn : Nat) (addr : Nat) (data : Word)
  | completion (fn : Nat) (data : List Byte)                   -- Successful Completion
  | poisoned (fn : Nat) (data : List Byte)                     -- Successful Completion with EP
  | abort (fn : Nat)                                           -- Completer Abort
  | unsupported (fn : Nat)                                     -- Unsupported Request
  | smbus (data : List Byte) (pec : Byte)                      -- pec: what follows if the board manager reads on (R433)
  | smbusNak
  | frame (port : Nat) (f : WireFrame)
  | linkCtl (port : Nat) (nak : Bool) (seq : BitVec 12) (credit : Option Nat)   -- credit: 2 * VC + lane
  | linkCredits (port : Nat) (credits : List Nat)              -- the empty receive buffers, by 2 * VC + lane (R350)
  | aer
deriving DecidableEq, Repr

/-- A host read in flight through the host interface (R334). -/
structure HostRead where
  fn  : Nat
  addr : Nat                          -- device address
  len : Nat
  who : Requester
  dst : Endpoint
deriving DecidableEq, Repr

/-- The scheduler. -/
structure Sched where
  queues  : Tab Queue := []
  groups  : Tab QGroup := []
  hitches : Tab Hitch := []
  tasks   : Tab (Option Task) := []   -- accepted tasks by number
  nextUid : Nat := 0
  lastQ   : Nat := 32767              -- queue whose entry was read last (R281)
deriving DecidableEq, Repr

/-- The machine. -/
structure State where
  glb     : Glb := {}
  pins    : Pins := {}
  hold    : Hold := {}
  funcs   : Tab Func := []
  tmap    : Tab MapEnt := []
  tiles   : Tab Tile := []
  sched   : Sched := {}
  rig     : Rig := {}
  shadow  : Rig := {}                 -- rig shadow (R258)
  bights  : Tab BightSt := []
  svc     : Svc := {}
  flash   : Mem := []                 -- unlisted bytes are erased, 0xFF
  journal : Journal := {}
  elog    : ErrLog := {}
  chans   : Tab Chan := []
  exp     : Expander := {}
  grm     : Grommet := {}
  mesh    : List Packet := []         -- in order of sending
  hreads  : Tab HostRead := []
  out     : List OutEvent := []       -- newest first
  fresh   : Nat := 0                  -- the model's own counter of free values
  pending : List Instr := []          -- the commands that wait, first in, first out
deriving DecidableEq, Repr

/-- Faults of the model. No command of this block stops the machine: its errors are statuses, reasons and log entries
(R9, R257, R389). The one constructor is for a state no run reaches. -/
inductive Fault
  /-- Raised by nothing; kept so that the type is inhabited. Safe. -/
  | unreachable
deriving DecidableEq, Repr

/-- Refusals. -/
inductive Refusal
  /-- Raised by an arm of exec whose command has no meaning yet. Safe: nothing can be proved of a run past it. -/
  | notModelled (mnemonic : String)
deriving DecidableEq, Repr

/-- Role of logical tile `n` at reset (GLB_TILE_MAP_n). -/
def MapEnt.resetOf (n : Nat) : MapEnt :=
  { phys := n, role := if n = 16 ∨ n = 33 ∨ n = 50 ∨ n = 67 then 1 else 0 }

/-- The state right after cold reset: every register at the Reset value of its table, PWR_GOOD risen, start-up not yet
run (notes/assumptions/1.md). -/
def State.reset : State := {}

end Sys2Proof.Machine
end

