-- ==== Sys2Proof/Machine/Mesh.lean ====
section
/-! DEFINITION. The mesh as the manual lays it out: tile coordinates (R16), the routers that the edge endpoints attach to (R30, R31),
dimension-ordered routes (R23), and the trees along which routers replicate a multicast packet (R27). -/

namespace Sys2Proof.Machine

/-! ## Coordinates -/

/-- Column of a physical tile (R16). -/
def tileX (id : Nat) : Nat := id % 17
/-- Row of a physical tile (R16). -/
def tileY (id : Nat) : Nat := id / 17
/-- The tile at a column and a row (R16). -/
def tileId (x y : Nat) : Nat := y * 17 + x

/-- A port of a router (R22). Row 0 is the top edge, so that north leads to the row above. -/
inductive RouterPort
  | north | south | east | west | local_
deriving DecidableEq, Repr

/-- The router that port `d` of a router leads to; none where the port leads to the tile or off the mesh. -/
def neighbour (r : Nat) : RouterPort → Option Nat
  | .north => if tileY r = 0 then none else some (tileId (tileX r) (tileY r - 1))
  | .south => if tileY r < 3 then some (tileId (tileX r) (tileY r + 1)) else none
  | .east => if tileX r < 16 then some (tileId (tileX r + 1) (tileY r)) else none
  | .west => if tileX r = 0 then none else some (tileId (tileX r - 1) (tileY r))
  | .local_ => none

/-! ## Attachments -/

/-- Router and outward port of memory channel `c` (R30). -/
def chanAttach (c : Nat) : Nat × RouterPort :=
  if c < 4 then (tileId (4 * c + 2) 0, .north) else (tileId (4 * (c - 4) + 2) 3, .south)

/-- Router and outward port of grommet port `q` (R31). -/
def portAttach (q : Nat) : Nat × RouterPort :=
  match q with
  | 0 => (tileId 0 0, .west)
  | 1 => (tileId 0 3, .west)
  | 2 => (tileId 16 0, .east)
  | _ => (tileId 16 3, .east)

/-- Router and port at which an endpoint attaches to the mesh (R30, R31). A logical tile behind a fence attaches nowhere until its fence
clears (R21). -/
def Endpoint.attach : Endpoint → Option (Nat × RouterPort)
  | .tile p => if p < 68 then some (p, .local_) else none
  | .fenced _ => none
  | .chan c => some (chanAttach c)
  | .port q => some (portAttach q)
  | .host odd => some (tileId 0 (if odd then 2 else 1), .west)
  | .core portB => some (tileId 16 (if portB then 2 else 1), .east)

/-- The host interface's attachment for a device page (R32): tile 17 for even 4 KiB pages, tile 34 for odd ones. -/
def hostSide (a : Nat) : Endpoint := .host (a / 4096 % 2 == 1)

/-- The always-on core's attachment for messages to physical tile `p` (R33): port A for tiles 0 to 33, port B for the others. -/
def coreSide (p : Nat) : Endpoint := .core (decide (34 ≤ p))

/-! ## Routes -/

/-- The port through which a packet for router `d` leaves router `r` (R23): along x to the column, then along y to the row. -/
def turnAt (r d : Nat) : RouterPort :=
  if tileX r < tileX d then .east
  else if tileX d < tileX r then .west
  else if tileY r < tileY d then .south
  else if tileY d < tileY r then .north
  else .local_

/-- The links that a packet crosses from router `r` to router `d`, each as the router it leaves and the port it leaves through; at most
`n` of them. -/
def linksTo (d : Nat) : Nat → Nat → List (Nat × RouterPort)
  | 0, _ => []
  | n + 1, r =>
    match neighbour r (turnAt r d) with
    | some m => (r, turnAt r d) :: linksTo d n m
    | none => []

/-- The route of a packet from one endpoint to another (R23): the links between routers, then the port that leads out of the last
router to the destination. None where an endpoint is not attached. -/
def meshRoute (src dst : Endpoint) : Option (List (Nat × RouterPort)) :=
  match src.attach, dst.attach with
  | some (r, _), some (d, out) => some (linksTo d 19 r ++ [(d, out)])
  | _, _ => none

/-- Where a route ends: the router and the port it leaves through, if every link of it leads to the next router. -/
def walkRoute : List (Nat × RouterPort) → Option (Nat × RouterPort)
  | [] => none
  | [h] => some h
  | h :: k :: t => if neighbour h.1 h.2 = some k.1 then walkRoute (k :: t) else none

/-- A packet from `src` reaches `dst` over the mesh: its route ends at the port where `dst` attaches (R23). -/
def reaches (src dst : Endpoint) : Bool :=
  match meshRoute src dst with
  | some l => walkRoute l == dst.attach
  | none => false

/-- The links of the tree along which routers replicate a multicast packet (R27): those of its destinations' routes, each link once. -/
def mcastTree (src : Endpoint) (dests : List Endpoint) : List (Nat × RouterPort) :=
  dests.foldl (fun t d => t ++ ((meshRoute src d).getD []).filter fun h => !t.contains h) []

/-- Payload bytes of a mesh packet at most (R22). -/
abbrev meshPayload : Nat := 256

/-- Flit slots of a packet with `n` payload bytes (R22). -/
def flitsOf (n : Nat) : Nat := max 1 ((n + 63) / 64)

end Sys2Proof.Machine
end

