-- ==== Sys2Proof/Machine/Ops.lean ====
section
/-! DEFINITION. The named operations every meaning is built from: reads and writes of numbered resources, the error
log, interrupts, the device state, the mesh, and what leaves the device. -/

namespace Sys2Proof.Machine

/-- What a meaning answers. -/
abbrev Ans := Host.Outcome State Fault Refusal

/-! ## Numbered resources -/

/-- Physical tile `p`. -/
def State.tile (s : State) (p : Nat) : Tile := Tab.get {} s.tiles p
/-- Write physical tile `p`. -/
def State.setTile (s : State) (p : Nat) (t : Tile) : State := { s with tiles := Tab.put s.tiles p t }
/-- Update physical tile `p`. -/
def State.modTile (s : State) (p : Nat) (f : Tile → Tile) : State := s.setTile p (f (s.tile p))

/-- Strand `k` of a tile. -/
def Tile.strand (t : Tile) (k : Nat) : Strand := Tab.get {} t.strands k
/-- Write strand `k` of a tile. -/
def Tile.setStrand (t : Tile) (k : Nat) (x : Strand) : Tile := { t with strands := Tab.put t.strands k x }
/-- Strand `k` of tile `p`. -/
def State.strand (s : State) (p k : Nat) : Strand := (s.tile p).strand k
/-- Update strand `k` of tile `p`. -/
def State.modStrand (s : State) (p k : Nat) (f : Strand → Strand) : State :=
  s.modTile p fun t => t.setStrand k (f (t.strand k))

/-- PCIe function `f`. -/
def State.func (s : State) (f : Nat) : Func := Tab.get {} s.funcs f
/-- Update function `f`. -/
def State.modFunc (s : State) (f : Nat) (g : Func → Func) : State := { s with funcs := Tab.put s.funcs f (g (s.func f)) }

/-- Memory channel `c`. -/
def State.chan (s : State) (c : Nat) : Chan := Tab.get {} s.chans c
/-- Update channel `c`. -/
def State.modChan (s : State) (c : Nat) (g : Chan → Chan) : State := { s with chans := Tab.put s.chans c (g (s.chan c)) }

/-- Grommet port `p`. -/
def State.port (s : State) (p : Nat) : Port := Tab.get {} s.grm.ports p
/-- Update port `p`. -/
def State.modPort (s : State) (p : Nat) (g : Port → Port) : State :=
  { s with grm := { s.grm with ports := Tab.put s.grm.ports p (g (s.port p)) } }

/-- Queue `q`. -/
def State.queue (s : State) (q : Nat) : Queue := Tab.get {} s.sched.queues q
/-- Update queue `q`. -/
def State.modQueue (s : State) (q : Nat) (g : Queue → Queue) : State :=
  { s with sched := { s.sched with queues := Tab.put s.sched.queues q (g (s.queue q)) } }

/-- Queue group `g`. -/
def State.qgroup (s : State) (g : Nat) : QGroup := Tab.get {} s.sched.groups g
/-- Update queue group `g`. -/
def State.modGroup (s : State) (g : Nat) (h : QGroup → QGroup) : State :=
  { s with sched := { s.sched with groups := Tab.put s.sched.groups g (h (s.qgroup g)) } }

/-- Hitch `h`. -/
def State.hitch (s : State) (h : Nat) : Hitch := Tab.get {} s.sched.hitches h
/-- Write hitch `h`. -/
def State.setHitch (s : State) (h : Nat) (x : Hitch) : State :=
  { s with sched := { s.sched with hitches := Tab.put s.sched.hitches h x } }

/-- Accepted task number `u`. -/
def State.task (s : State) (u : Nat) : Option Task := Tab.get none s.sched.tasks u
/-- Write task `u`. -/
def State.setTask (s : State) (u : Nat) (x : Task) : State :=
  { s with sched := { s.sched with tasks := Tab.put s.sched.tasks u (some x) } }
/-- Update task `u` if it is there. -/
def State.modTask (s : State) (u : Nat) (f : Task → Task) : State :=
  match s.task u with
  | some x => s.setTask u (f x)
  | none => s
/-- Forget task `u`. -/
def State.dropTask (s : State) (u : Nat) : State := { s with sched := { s.sched with tasks := Tab.drop s.sched.tasks u } }
/-- The accepted tasks, oldest first. -/
def State.taskList (s : State) : List (Nat × Task) := s.sched.tasks.filterMap fun e => e.2.map fun t => (e.1, t)

/-- Live state of bight `b`. -/
def State.bight (s : State) (b : Nat) : BightSt := Tab.get {} s.bights b
/-- Update bight `b`. -/
def State.modBight (s : State) (b : Nat) (f : BightSt → BightSt) : State := { s with bights := Tab.put s.bights b (f (s.bight b)) }
/-- Declaration of bight `b` in the running rig. -/
def State.bightDecl (s : State) (b : Nat) : Option BightDecl := Tab.get none s.rig.bights b

/-- Tile-map entry of logical tile `n` (R19). -/
def State.mapEnt (s : State) (n : Nat) : MapEnt := Tab.get (MapEnt.resetOf n) s.tmap n
/-- Write a tile-map entry. -/
def State.setMap (s : State) (n : Nat) (e : MapEnt) : State := { s with tmap := Tab.put s.tmap n e }
/-- Physical tile that serves logical tile `n`. -/
def State.physOf (s : State) (n : Nat) : Nat := (s.mapEnt n).phys
/-- Logical tile that physical tile `p` serves. -/
def State.logOf (s : State) (p : Nat) : Nat := ((List.range 68).find? fun n => (s.mapEnt n).phys == p).getD p

/-- State of power domain `d`: 0 OFF, 1 RET, 2 ON, 3 in transition. -/
def State.pd (s : State) (d : Nat) : Nat := (Tab.get (0 : BitVec 2) s.svc.pd d).toNat
/-- Write a power-domain state. -/
def State.setPd (s : State) (d v : Nat) : State :=
  { s with svc := { s.svc with pd := Tab.put s.svc.pd d (BitVec.ofNat 2 v) } }

/-- Region entry `i`. -/
def State.region (s : State) (i : Nat) : Region := Tab.get {} s.exp.regions i

/-! ## Free values -/

/-- A free word, and the state with the counter advanced (notes/assumptions/6.md). -/
def State.freeWord (s : State) : Word × State := (Config.freeWord s.fresh, { s with fresh := s.fresh + 1 })
/-- A free byte, and the state with the counter advanced. -/
def State.freeByte (s : State) : Byte × State := (Config.freeByte s.fresh, { s with fresh := s.fresh + 1 })

/-! ## What leaves the device -/

/-- Emit an output event. -/
def State.emit (s : State) (e : OutEvent) : State := { s with out := e :: s.out }

/-! ## Error log -/

/-- Source IDs (R388). -/
def srcTile (p : Nat) : BitVec 16 := BitVec.ofNat 16 p
@[inherit_doc srcTile] def srcChan (c : Nat) : BitVec 16 := BitVec.ofNat 16 (0x1000 + c)
@[inherit_doc srcTile] def srcPort (p : Nat) : BitVec 16 := BitVec.ofNat 16 (0x2000 + p)
@[inherit_doc srcTile] def srcHost : BitVec 16 := 0x3000
@[inherit_doc srcTile] def srcSched : BitVec 16 := 0x4000
@[inherit_doc srcTile] def srcSvc : BitVec 16 := 0x5000
@[inherit_doc srcTile] def srcHold : BitVec 16 := 0x6000
@[inherit_doc srcTile] def srcExp : BitVec 16 := 0x7000

/-- Event codes (R389). -/
inductive Ev
  | ce | ceHealed | ceHard | ueTransient | poison | poisonScrub | writeRefused | scrubAlarm | taskStatus | drop
  | nonfinite | fault | recovered | retired | channelOut | damage | link | holdDisc | holdChange | halt
deriving DecidableEq, Repr

/-- The code of an event (R389). -/
def Ev.code : Ev → BitVec 16
  | .ce => 0x0001 | .ceHealed => 0x0002 | .ceHard => 0x0003 | .ueTransient => 0x0004 | .poison => 0x0005
  | .poisonScrub => 0x0006 | .writeRefused => 0x0007 | .scrubAlarm => 0x0008 | .taskStatus => 0x0010
  | .drop => 0x0011 | .nonfinite => 0x0012 | .fault => 0x0020 | .recovered => 0x0021 | .retired => 0x0022
  | .channelOut => 0x0023 | .damage => 0x0030 | .link => 0x0040 | .holdDisc => 0x0050 | .holdChange => 0x0051
  | .halt => 0x0060

/-- The severity of an event (R389): 0 INFO, 1 WARN, 2 ERROR, 3 FAULT, 4 FATAL. -/
def Ev.sev : Ev → BitVec 8
  | .ce => 0 | .ceHealed => 0 | .ceHard => 1 | .ueTransient => 1 | .poison => 2 | .poisonScrub => 2
  | .writeRefused => 2 | .scrubAlarm => 1 | .taskStatus => 2 | .drop => 1 | .nonfinite => 1 | .fault => 3
  | .recovered => 3 | .retired => 1 | .channelOut => 3 | .damage => 2 | .link => 1 | .holdDisc => 3
  | .holdChange => 0 | .halt => 4

/-- The word given, or a free word where the manual lists none for the event. -/
def State.infoWord (s : State) : Option Word → Word × State
  | some w => (w, s)
  | none => s.freeWord

/-- Emit an event to the log with a given severity; it is committed later (R390). -/
def State.logSev (s : State) (src : BitVec 16) (ev : Ev) (sev : BitVec 8) (loc : BitVec 64) (i0 i1 : Option Word) : State :=
  let a := s.infoWord i0
  let b := a.2.infoWord i1
  let e : LogEvent := { time := s.glb.time, source := src, event := ev.code, sev := sev, loc := loc, info0 := a.1, info1 := b.1 }
  { b.2 with elog := { b.2.elog with queue := b.2.elog.queue ++ [e] } }

/-- Emit an event to the log (R389). -/
def State.logEv (s : State) (src : BitVec 16) (ev : Ev) (loc : BitVec 64) (i0 i1 : Option Word) : State :=
  s.logSev src ev ev.sev loc i0 i1

/-- Log a dropped access (R389 DROP). -/
def State.logDrop (s : State) (src : BitVec 16) (addr : Nat) : State :=
  s.logEv src .drop (BitVec.ofNat 64 (addr % 2 ^ 40)) none none

/-- Location of a scratchpad word: bank, physical line, scratchpad offset (R387). -/
def spadLoc (bank line off : Nat) : BitVec 64 :=
  BitVec.ofNat 64 (2 ^ 63 + bank % 64 * 2 ^ 51 + line % 2048 * 2 ^ 40 + off % 2 ^ 22)

/-! ## Interrupts -/

/-- `GLB_STATE.OUTPUT_HOLD` (R396). -/
def State.outputHold (s : State) : Bool := s.hold.agreed || s.hold.disc

/-- Signal entry `e` of function `f`'s MSI-X table (R441): sent, or held with its Pending Bit set when the entry is
masked, Bus Master Enable is 0, the function is in D3hot or `held` says so (R439, R435, R396). -/
def State.msix (s : State) (f e : Nat) (held : Bool) : State :=
  let fn := s.func f
  let m := Tab.get {} fn.msix e
  if m.masked || !fn.bme || fn.d3 || held then
    s.modFunc f fun x => { x with pba := x.pba ||| BitVec.ofNat 32 (2 ^ e) }
  else s.emit (.msix f m.addr.toNat m.data)

/-- Send the messages of a function whose Pending Bits are set and which may now go. -/
def State.flushPba (s : State) (f : Nat) : State :=
  (List.range 32).foldl (fun a e =>
    let fn := a.func f
    let m := Tab.get {} fn.msix e
    if fn.pba.getLsbD e && !m.masked && fn.bme && !fn.d3 && !s.outputHold then
      (a.modFunc f fun x => { x with pba := x.pba &&& ~~~(BitVec.ofNat 32 (2 ^ e)) }).emit (.msix f m.addr.toNat m.data)
    else a) s

/-- Raise bit `i` of `GLB_IRQ_STATUS` (R442): a message goes when the bit rises while its mask bit is 0, under output hold when that ends
(R396). -/
def State.irq (s : State) (i : Nat) : State :=
  if s.glb.irq.getLsbD i then s
  else
    let s' := { s with glb := { s.glb with irq := s.glb.irq ||| BitVec.ofNat 4 (2 ^ i) } }
    if s.glb.mask.getLsbD i then s' else s'.msix 0 i s.outputHold

/-! ## Device state and pins -/

/-- FAULT_N is low while HALTED or while a discrepancy fault is latched (R393); its fall drives BM_ALERT_N low (R433). -/
def State.syncFaultN (s : State) : State :=
  let low := s.hold.disc || s.glb.st == .halted
  { s with pins := { s.pins with faultN := !low, alertN := s.pins.alertN && !(low && s.pins.faultN) } }

/-- Enter device state `d`: a change raises the state interrupt and the board manager's alert (R442, R433). -/
def State.setDev (s : State) (d : DevState) : State :=
  if s.glb.st = d then s
  else
    let s' := { s with glb := { s.glb with st := d }, pins := { s.pins with alertN := false } }
    (s'.irq 3).syncFaultN

/-- The states in which tasks are dispatched and records posted (R4). -/
def DevState.serving : DevState → Bool
  | .ready | .running | .degraded => true
  | _ => false

/-- A task that has been dispatched and whose record is not posted yet (R5). -/
def Task.busy (t : Task) : Bool :=
  match t.st with
  | .waiting | .retired => t.ltile != 0xFF
  | _ => true

/-- At least one task is in flight, or its record awaits posting (R3, R5). -/
def State.inFlight (s : State) : Bool := s.taskList.any fun e => e.2.busy

/-- The serving state that the causes and the tasks in flight call for (R5, R6). -/
def State.servingState (s : State) : DevState :=
  if s.glb.degRig || s.glb.degChan then .degraded else if s.inFlight then .running else .ready

/-- Bring a serving device to the state its causes call for (R5). -/
def State.settle (s : State) : State := if s.glb.st.serving then s.setDev s.servingState else s

/-- Every grommet port drops its link (R4, HALTED). -/
def State.dropLinks (s : State) : State :=
  (List.range 4).foldl (fun a p => a.modPort p fun x => { x with
    st := .down, nbValid := false, replay := [], sends := [], credits := [], mq := [], held := [], draining := false
    flags := if x.st = .up then x.flags ||| 0x10 else x.flags }) s

/-- Enter HALTED (R5, R385, R413, R428): the cause is kept, HALT is logged, the ports drop link, FAULT_N goes low and AER
reports an internal error (R442). -/
def State.halt (s : State) (cause : Nat) : State :=
  if s.glb.st = .off ∨ s.glb.st = .halted then s
  else
    let s1 := { s with glb := { s.glb with haltCause := BitVec.ofNat 3 cause } }
    let s2 := s1.logEv srcSvc .halt 0 (some (BitVec.ofNat 32 cause)) none
    ((s2.setDev .halted).dropLinks).emit .aer

/-- The domain of tile `p` is ON and the device has not stopped, so that its memories can be read (R38, R413; notes/assumptions/12.md). -/
def State.tileUpNow (s : State) (p : Nat) : Bool := decide (p < 68) && s.pd p == 2 && s.glb.st != .halted && s.glb.st != .off

/-- Physical tile `p` is a SPARE, whose TCLK is stopped (R378). -/
def State.isSpare (s : State) (p : Nat) : Bool := (s.mapEnt (s.logOf p)).role == 1

/-- The clock of tile `p` runs: the tile is up, not lost, and no SPARE (R377, R378). -/
def State.tileRuns (s : State) (p : Nat) : Bool := s.tileUpNow p && !(s.tile p).lost && !s.isSpare p

/-- The scratchpad of tile `p` takes accesses: its domain is ON (R29), and it is no SPARE, whose clock stands (R378,
notes/assumptions/63.md). -/
def State.spadOpen (s : State) (p : Nat) : Bool := s.pd p == 2 && !s.isSpare p

/-! ## Mesh -/

/-- Where a packet for logical tile `n` goes now: the tile the map names, or held at its source by the fence (R18, R21). -/
def State.tileEnd (s : State) (n : Nat) : Endpoint :=
  let e := s.mapEnt n
  if e.fenced then .fenced n else .tile e.phys

/-- Put a packet on the mesh, behind every earlier one (R25). -/
def State.send (s : State) (p : Packet) : State := { s with mesh := s.mesh ++ [p] }

/-- An acknowledgement to the requester of a write (R204). A refused BAR4 write is dropped and logged (R29, R219); one that a
poisoned word of a scratchpad refuses is logged where it is refused (R368). -/
def State.ackTo (s : State) (src : Endpoint) (who : Requester) (st : Nat) : State :=
  match who with
  | .stream t _ _ _ _ _ => s.send { src := src, dst := .tile t, vc := .rsp, body := .ack st who }
  | .step t _ _ => s.send { src := src, dst := .tile t, vc := .rsp, body := .ack st who }
  | .msg t _ _ => if st = 0 then s else s.send { src := src, dst := .tile t, vc := .rsp, body := .ack st who }
  | .peer q _ _ _ => s.send { src := src, dst := .port q, vc := .rsp, body := .ack st who }
  | .bar4 _ a =>
    if st = 0 then s
    else
      match src with
      | .tile _ => if st = 1 then s else s.logDrop srcHost a
      | _ => s.logDrop srcHost a
  | _ => s

/-- The PCIe completion of a BAR4 read (R29, R364, R437): the data; poisoned, all bytes 0xFF, on a bus error; Completer
Abort when it is refused. -/
def State.completeRead (s : State) (fn n : Nat) (data : List Byte) (st : Nat) : State :=
  if st = 0 then s.emit (.completion fn data)
  else if st = 0x01 ∨ st = 0x05 then s.emit (.poisoned fn (List.replicate n 0xFF))
  else s.emit (.abort fn)

/-- A read response to a requester (R200, R353). -/
def State.respond (s : State) (src : Endpoint) (who : Requester) (data : List Byte) (st : Nat) : State :=
  match who with
  | .stream t _ _ _ _ _ => s.send { src := src, dst := .tile t, vc := .rsp, body := .response data st who }
  | .peer q _ _ _ => s.send { src := src, dst := .port q, vc := .rsp, body := .response data st who }
  | .bar4 fn n => s.completeRead fn n data st
  | _ => s

/-- Every destination that a packet has still to reach. -/
def Packet.dests (p : Packet) : List Endpoint := p.dst :: p.more

/-- The packet's copy for destination `d`, behind the packets in `before`, may be delivered now: no fence holds it (R21), its route leads
there (R23), and no packet ahead of it shares its source, destination and channel (R25). -/
def Packet.mayReach (p : Packet) (before : List Packet) (d : Endpoint) : Bool :=
  reaches p.src d && !(before.any fun q => q.src == p.src && q.vc == p.vc && q.dests.contains d)

/-- Packet `i` of the mesh may be delivered now: to its destination, or, a multicast packet, to the first of those left that it may
reach. The answer's `dst` is that destination, and its `more` are the others (R27). A payload that is marked bad counts as a bus error
at its receiver (R362). -/
def State.deliverable (s : State) (i : Nat) : Option Packet :=
  match s.mesh[i]? with
  | none => none
  | some p =>
    match p.dests.find? (p.mayReach (s.mesh.take i)) with
    | none => none
    | some d => some { p with dst := d, more := p.dests.erase d }

/-- Packet `i` of the mesh has been delivered where `deliverable` says: it leaves the mesh, or stays for its other destinations. -/
def State.unsend (s : State) (i : Nat) : State :=
  { s with mesh := match s.deliverable i with
    | some { src := src, more := d :: l, vc := vc, body := body, bad := bad, .. } =>
      s.mesh.set i { src := src, dst := d, vc := vc, body := body, more := l, bad := bad }
    | _ => s.mesh.eraseIdx i }

/-- A multicast packet whose next destination cannot take it goes on to its others first (R24, R26). -/
def State.passBy (s : State) (i : Nat) : State :=
  { s with mesh := match s.deliverable i with
    | some { src := src, dst := e, more := d :: l, vc := vc, body := body, bad := bad } =>
      s.mesh.set i { src := src, dst := d, vc := vc, body := body, more := l ++ [e], bad := bad }
    | _ => s.mesh }

/-- A packet from `src` to `dst` on channel `vc` is still on the mesh, so that a later one of theirs waits behind it (R25). -/
def State.inWay (s : State) (src dst : Endpoint) (vc : VC) : Bool :=
  s.mesh.any fun q => q.src == src && q.vc == vc && q.dests.contains dst

/-- A message on CTL crosses the mesh within the step that sends it (R24, R35): its route leads to its destination, and no earlier one
of its source and destination is still on the way (R25). -/
def State.crosses (s : State) (src dst : Endpoint) : Bool := reaches src dst && !s.inWay src dst .ctl

/-- No packet on the mesh is addressed to physical tile `p` (R21 step 3). -/
def State.meshClear (s : State) (p : Nat) : Bool := !(s.mesh.any fun q => q.dests.contains (.tile p))

/-- A held packet's destination after the fence of logical tile `n` has cleared. -/
def State.unfence (s : State) (n : Nat) (d : Endpoint) : Endpoint := if d = .fenced n then .tile (s.physOf n) else d

/-- The packets a fence held for logical tile `n` go to the tile the map now names, in their order (R21). -/
def State.release (s : State) (n : Nat) : State :=
  { s with mesh := s.mesh.map fun p => { p with dst := s.unfence n p.dst, more := p.more.map (s.unfence n) } }

/-! ## Memories -/

/-- Bytes `a .. a + n - 1` of a memory. -/
def Mem.read (d : Byte) (m : Mem) (a n : Nat) : List Byte := (List.range n).map fun i => Mem.get d m (a + i)

/-- Write a byte string from address `a`. -/
def Mem.write (d : Byte) (m : Mem) (a : Nat) : List Byte → Mem
  | [] => m
  | b :: t => Mem.write d (Mem.put d m a b) (a + 1) t

/-- Write listed bytes. -/
def Mem.writeAt (d : Byte) (m : Mem) : List (Nat × Byte) → Mem
  | [] => m
  | (a, b) :: t => Mem.writeAt d (Mem.put d m a b) t

/-- A byte string as listed bytes from address `a`. -/
def bytesAt (a : Nat) : List Byte → List (Nat × Byte)
  | [] => []
  | b :: t => (a, b) :: bytesAt (a + 1) t

/-- A time span of `us` microseconds in ticks of the 100 MHz timebase. -/
def usTicks (us : Nat) : Nat := us * 100

end Sys2Proof.Machine
end

