-- ==== Sys2Proof/Machine/Operands.lean ====
section
/-! DEFINITION. Kernel steps and their operands: the fields of a 128-bit step (R177 to R185), the effective operands
(R177), the kernel directory (R175), and the extents a step will touch (R165, R166). -/

namespace Sys2Proof.Machine

/-- Bits `[lo + n - 1 : lo]` of a step. -/
def fld (w : BitVec 128) (lo n : Nat) : Nat := bitsOf w.toNat lo n
/-- Bit `i` of a step. -/
def flag (w : BitVec 128) (i : Nat) : Bool := w.getLsbD i
/-- `OPCODE` (R177). -/
def opcodeOf (w : BitVec 128) : Nat := fld w 0 6
/-- `WAITU` (R177). -/
def waituOf (w : BitVec 128) : Nat := fld w 6 6

/-- The unit of an opcode (R178): 0 BLD, 1 ARR, 2 EPI, 3 VEC, 4 STR, 5 SYN; none for control steps. -/
def unitOf (op : Nat) : Option Nat :=
  if op = 1 ∨ op = 2 ∨ op = 3 then some 0
  else if op = 4 then some 1
  else if op = 5 then some 2
  else if op = 6 then some 3
  else if op = 7 ∨ op = 8 then some 4
  else if 9 ≤ op ∧ op ≤ 13 then some 5
  else none

/-! ## Registers and operands -/

/-- Address register `r` of a strand. -/
def Strand.reg (x : Strand) (r : Nat) : Word := x.a.getD r 0
/-- Write address register `r` (0 to 14). -/
def Strand.setReg (x : Strand) (r : Nat) (v : Word) : Strand :=
  { x with a := (List.range 15).map fun i => if i = r then v else x.reg i }
/-- Loop counter `r`. -/
def Strand.cnt (x : Strand) (r : Nat) : BitVec 16 := x.c.getD r 0
/-- Write loop counter `r` (0 to 3). -/
def Strand.setCnt (x : Strand) (r : Nat) (v : BitVec 16) : Strand :=
  { x with c := (List.range 4).map fun i => if i = r then v else x.cnt i }

/-- A scratchpad operand (R177): A[reg] + 64 × offset modulo 2^32, or the program store for register 15. -/
def spadOpnd (x : Strand) (v : Nat) : Opnd :=
  let r := v / 2 ^ 16 % 16
  let off := 64 * (v % 2 ^ 16)
  if r = 15 then .pstore off else .spad (((x.reg r).toNat + off) % 2 ^ 32)

/-- A scratchpad operand of a field that allows none (`SB`, `OMAP`). -/
def spadOpndOpt (x : Strand) (v : Nat) : Opnd := if v = 0xFFFFF then .none_ else spadOpnd x v

/-- A register operand that may be none (R177). -/
def regOpt (x : Strand) (r : Nat) : Option Nat := if r = 15 then none else some (x.reg r).toNat

/-- A token operand (R177). -/
def tokOpnd (x : Strand) (v : Nat) : Nat := if v < 64 then v else (x.cnt (v % 4)).toNat % 64

/-- An operand shifted by a byte count. -/
def Opnd.plus : Opnd → Nat → Opnd
  | .spad o, n => .spad (o + n)
  | .pstore o, n => .pstore (o + n)
  | .none_, _ => .none_

/-- The effective offset of a window operand. -/
def Opnd.off : Opnd → Option Nat
  | .spad o => some o
  | _ => none

/-! ## Kernel directory -/

/-- A directory entry (R175). -/
structure KernelDir where
  entry   : Nat
  count   : Nat
  minsize : Nat
  valid   : Bool
deriving DecidableEq, Repr

/-- Directory entry `m` of a program store given by a byte reader (R175). -/
def kernelDir (rd : Nat → Nat → List Byte) (m : Nat) : KernelDir :=
  let w := leNat (rd (8 * m) 8)
  { entry := bitsOf w 0 12, count := bitsOf w 12 12, minsize := bitsOf w 32 16, valid := bitsOf w 48 1 == 1 }

/-- Bytes of the program store. -/
def Tile.psRead (t : Tile) (a n : Nat) : List Byte := Mem.read 0 t.pstore a n

/-- The step at index `i` (R175, R176). -/
def Tile.step (t : Tile) (i : Nat) : BitVec 128 := BitVec.ofNat 128 (leNat (t.psRead (16 * i) 16))

/-- The directory entry of a strand's kernel. -/
def Tile.dir (t : Tile) (x : Strand) : KernelDir := kernelDir t.psRead x.kernel

/-- The step index lies in the strand's kernel (R176). -/
def Tile.inKernel (t : Tile) (x : Strand) (i : Nat) : Bool :=
  let d := t.dir x
  decide (d.entry ≤ i) && decide (i < d.entry + d.count)

/-! ## Extents -/

/-- One access a step will make: operand, byte count, alignment of the operand, whether it is a destination, and, for a
piece of an operand, the operand's own effective offset (`TILE_BOUND_OFF`). `only`: the parts of the extent that are read, as a place
from its first byte and a byte count, when it is not read whole (R46). -/
structure Access where
  o     : Opnd
  len   : Nat
  align : Nat := 1
  write : Bool := false
  cap   : Option Nat := none
  only  : Option (List (Nat × Nat)) := none
deriving DecidableEq, Repr

/-- The parts of the extent that are read. -/
def Access.parts (a : Access) : List (Nat × Nat) := a.only.getD [(0, a.len)]

/-- The statuses an access raises at issue (R165, R166, R177) for a window of `size` bytes; 0 stands for none. -/
def Access.status (size : Nat) (a : Access) : Nat :=
  match a.o with
  | .none_ => 0x0B
  | .spad off => if a.len ≠ 0 ∧ size < off + a.len then 0x02 else if off % a.align ≠ 0 then 0x0B else 0
  | .pstore off => if a.write ∨ (a.len ≠ 0 ∧ 65536 < off + a.len) then 0x02 else if off % a.align ≠ 0 then 0x0B else 0

/-- The access fails the window check itself (R165). -/
def Access.outside (size : Nat) (a : Access) : Option Nat :=
  match a.o with
  | .spad off => if a.len ≠ 0 ∧ size < off + a.len then some (a.cap.getD off) else none
  | _ => none

/-- The piece of operand `o` from byte `at_` for `len` bytes. -/
def Opnd.piece (o : Opnd) (at_ len : Nat) (write : Bool) : Access := { o := o.plus at_, len := len, write := write, cap := o.off }

/-- The lowest non-zero status of a list, or 0 (R10). -/
def worst (l : List Nat) : Nat :=
  l.foldl (fun a b => if b = 0 then a else if a = 0 then b else min a b) 0

/-- A check: status `st` unless `ok`. -/
def need (ok : Bool) (st : Nat) : Nat := if ok then 0 else st

end Sys2Proof.Machine
end

