-- ==== Sys2Proof/Machine/Route.lean ====
section
/-! DEFINITION. Node coordinates and grommet routes (R337, R338, R342), and the peer windows (R339). -/

namespace Sys2Proof.Machine

/-- The node that port `p` of node `n` faces in an X × Y topology (R337). -/
def facing (X Y n p : Nat) : Nat :=
  let x := n % X
  let y := n / X
  if p = 0 then y * X + (x + X - 1) % X
  else if p = 2 then y * X + (x + 1) % X
  else if p = 1 then (y + Y - 1) % Y * X + x
  else (y + 1) % Y * X + x

/-- The port at the other end of a link. -/
def oppPort (p : Nat) : Nat := (p + 2) % 4

/-- The link at port `p` of node `n` is up, at both ends, in an epoch record (R357). -/
def epLink (e : EpochRec) (X Y n p : Nat) : Bool :=
  e.links.getLsbD (4 * n + p) && e.links.getLsbD (4 * facing X Y n p + oppPort p)

/-- Node `n` is present in an epoch: it has at least one link UP to an included node (R357). -/
def epPresent (e : EpochRec) (n : Nat) : Bool := e.up.getLsbD n

/-- `k` hops through port `p` from node `n`, if no link is down and no node absent on the way (R342). -/
def epWalk (e : EpochRec) (X Y p : Nat) : Nat → Nat → Option Nat
  | 0, n => some n
  | k + 1, n =>
    let m := facing X Y n p
    if epLink e X Y n p && epPresent e m then epWalk e X Y p k m else none

/-- One dimension: `a` hops in the + direction through port `pp`, or `b` through `pm`; the shorter first, + on a tie (R342).
The answer is the port taken, if any, and the node reached. -/
def epDim (e : EpochRec) (X Y pp pm a b n : Nat) : Option (Option Nat × Nat) :=
  if a = 0 then some (none, n)
  else
    let first := if a ≤ b then (pp, a) else (pm, b)
    let second := if a ≤ b then (pm, b) else (pp, a)
    match epWalk e X Y first.1 first.2 n with
    | some m => some (some first.1, m)
    | none =>
      match epWalk e X Y second.1 second.2 n with
      | some m => some (some second.1, m)
      | none => none

/-- The port through which a frame leaves node `n` for node `d` (R342): X first, then Y; none when unreachable. -/
def epRoute (e : EpochRec) (X Y n d : Nat) : Option Nat :=
  if X = 0 ∨ Y = 0 ∨ n = d ∨ X * Y ≤ d then none
  else
    match epDim e X Y 2 0 ((d % X + X - n % X) % X) ((n % X + X - d % X) % X) n with
    | none => none
    | some (px, m) =>
      match epDim e X Y 3 1 ((d / X + Y - m / X) % Y) ((m / X + Y - d / X) % Y) m with
      | none => none
      | some (py, _) => match px with
        | some p => some p
        | none => py

/-- This node's ID. -/
def State.node (s : State) : Nat := s.grm.node.toNat

/-- The port on the route to node `d` from here (R342). -/
def State.routeTo (s : State) (d : Nat) : Option Nat :=
  epRoute s.grm.epoch s.grm.dimX.toNat s.grm.dimY.toNat s.node d

/-- Node `n` is in the member set of the current epoch (R358): in `UP`, not in `TRANSIT`, and reachable from here. -/
def State.epMember (s : State) (n : Nat) : Bool :=
  s.grm.epoch.up.getLsbD n && !s.grm.epoch.transit.getLsbD n && (n == s.node || (s.routeTo n).isSome)

/-- Traffic toward node `n` may start (R221, R355): the node is a member, or it is this node, whose own targets no link leads to (R339;
notes/assumptions/77.md). -/
def State.isMember (s : State) (n : Nat) : Bool := n == s.node || s.epMember n

/-- Node of an address in the peer range (R339). -/
def peerNode (a : Nat) : Nat := a / 0x200000000 % 16
/-- Offset in the peer window. -/
def peerOff (a : Nat) : Nat := a % 0x200000000
/-- Device address of logical tile `n`'s scratchpad offset `off` (R36). -/
def spadAddr (n off : Nat) : Nat := 0x8000000000 + n * 0x1000000 + off
/-- Address of a remote scratchpad in the peer window of node `n` (R339). -/
def peerSpad (node tile off : Nat) : Nat := 0xA000000000 + node * 0x200000000 + tile * 0x1000000 + off

end Sys2Proof.Machine
end

