-- ==== Sys2Proof/Machine/Access.lean ====
section
/-! DEFINITION. The address map and access rights: the interleave (R310 to R312), the region table (R315, R316), host
windows (R334), peer windows (R339 to R341), and the target of a task's access (R36, R37, R195). -/

namespace Sys2Proof.Machine

/-! ## Interleave -/

/-- The channel list of a pair of `WAYS` and `SET` (R310); none for an illegal pair. -/
def chanList (ways set : Nat) : Option (List Nat) :=
  match ways, set with
  | 0, 0 => some [0, 1, 2, 3, 4, 5, 6, 7]
  | 1, 0 => some [1, 2, 5, 6]
  | 1, 1 => some [0, 3, 4, 7]
  | 2, 0 => some [1, 6]
  | 2, 1 => some [2, 5]
  | 2, 2 => some [0, 7]
  | 2, 3 => some [3, 4]
  | _, _ => none

/-- The channel set in force. -/
def Expander.list (e : Expander) : List Nat := (chanList e.ways.toNat e.set.toNat).getD [0, 1, 2, 3, 4, 5, 6, 7]
/-- log2 of the number of channels in the set. -/
def Expander.lw (e : Expander) : Nat := if e.list.length = 8 then 3 else if e.list.length = 4 then 2 else 1

/-- The channel and local address of a DRAM-range address (R311). -/
def Expander.locate (e : Expander) (a : Nat) : Nat × Nat :=
  let lw := e.lw
  let u := a / 1024
  let i := (u ^^^ (u / 2 ^ lw) ^^^ (u / 2 ^ (2 * lw)) ^^^ (u / 2 ^ (3 * lw))) % 2 ^ lw
  (e.list.getD i 0, a / 2 ^ (10 + lw) * 1024 + a % 1024)

/-- Capacity C of a channel in bytes (R309). -/
def Expander.cap (e : Expander) : Nat := 2 ^ (31 + e.chCap.toNat)
/-- Local bytes below the tag area (R312). -/
def Expander.below (e : Expander) : Nat := e.cap - e.cap / 1024
/-- Mapped capacity in bytes (R312). -/
def Expander.bytes (e : Expander) : Nat := e.mapped.toNat * 2 ^ 20
/-- First address of the rig shadow (R258, R312). -/
def Expander.shadowBase (e : Expander) : Nat := e.bytes - 8 * 2 ^ 20

/-! ## Regions -/

/-- `EN`. -/
def Region.en (r : Region) : Bool := r.ctl.getLsbD 0
/-- `CLASS`. -/
def Region.cls (r : Region) : Nat := bitsOf r.ctl.toNat 1 2
/-- `ECC`. -/
def Region.ecc (r : Region) : Bool := r.ctl.getLsbD 3
/-- `SHARED`. -/
def Region.shared (r : Region) : Bool := r.ctl.getLsbD 4
/-- `FUNC`. -/
def Region.func (r : Region) : Nat := bitsOf r.ctl.toNat 5 6
/-- `TABLE`. -/
def Region.table (r : Region) : Nat := bitsOf r.ctl.toNat 16 8
/-- First byte. -/
def Region.lo (r : Region) : Nat := r.base.toNat * 65536
/-- Size in bytes. -/
def Region.len (r : Region) : Nat := r.size.toNat * 65536
/-- An enabled entry that contains address `a` (R315). -/
def Region.holds (r : Region) (a : Nat) : Bool := r.en && decide (r.lo ≤ a) && decide (a < r.lo + r.len)

/-- The region entries, entry 0 first. -/
def State.regions (s : State) : List Region := (List.range 64).map s.region

/-- The entry a DRAM-range address matches (R315). -/
def State.dramRegion (s : State) (a : Nat) : Option Region := s.regions.find? fun r => r.holds a
/-- The entry a host-range address of function `f` matches (R315). -/
def State.hostRegion (s : State) (f a : Nat) : Option Region := s.regions.find? fun r => r.holds a && r.func == f

/-- A request of function `f` for a DRAM-range address (R316, R258, R332): 0, or status 0x0C. `svc`: the service
controller, which may access every mapped address. -/
def State.dramPermit (s : State) (svc : Bool) (f a : Nat) (write : Bool) : Nat :=
  if s.exp.bytes ≤ a then 0x0C
  else if svc then 0
  else if s.exp.shadowBase ≤ a then 0x0C
  else
    match s.dramRegion a with
    | none => need (f == 0) 0x0C
    | some r =>
      if r.ecc && decide (r.lo + r.len - r.len / 8 ≤ a) then 0x0C
      else need (r.func == f || (!write && r.shared)) 0x0C

/-! ## Host windows -/

/-- The PCIe address of a host-range address in function `f`'s window (R334). -/
def State.hostAddr (s : State) (f a : Nat) : Option Nat :=
  let w := Tab.get {} s.exp.hostWin f
  let b := w.hi.toNat * 2 ^ 32 + w.lo.toNat / 4096 * 4096
  let t := b + a % 0x4000000000
  if w.lo.getLsbD 0 && decide (t < 2 ^ 64) then some t else none

/-- `RO_ATTR` of function `f`'s host window: its reads ask for Relaxed Ordering (R334). -/
def State.hostRo (s : State) (f : Nat) : Bool := (Tab.get ({} : HostWin) s.exp.hostWin f).lo.getLsbD 1

/-- A request of function `f` for a host-range address (R316, R334, R439). -/
def State.hostPermit (s : State) (f a : Nat) (write : Bool) : Nat :=
  if !(s.func f).bme || (s.hostAddr f a).isNone then 0x0C
  else
    match s.hostRegion f a with
    | some r => need (!write || r.cls == 0) 0x0C
    | none => 0

/-! ## Targets -/

/-- Where an access goes. -/
inductive Target
  | dram (addr func : Nat)
  | spad (tile off : Nat)
  | peer (node : Nat)
  | host
deriving DecidableEq, Repr

/-- Target of an offset in this node's own peer window (R339, R341). -/
def State.ownWindow (s : State) (o : Nat) (write : Bool) : Except Nat Target :=
  if o < 0x44000000 then
    if 0x400000 ≤ o % 0x1000000 then .error 0x0C else .ok (.spad (o / 0x1000000) (o % 0x1000000))
  else if o < 0x100000000 ∨ 0x200000000 ≤ o then .error 0x0C
  else
    let a := s.grm.aperLo.toNat / 4096 * 4096 + s.grm.aperHi.toNat % 256 * 2 ^ 32 + o % 0x100000000
    let f := bitsOf s.grm.aperHi.toNat 8 6
    if !s.grm.aperLo.getLsbD 0 ∨ 0x8000000000 ≤ a then .error 0x0C
    else
      match s.dramPermit false f a write with
      | 0 => .ok (.dram a f)
      | st => .error st

/-- Target of a task's access, or the status that refuses it (R36, R37, R195, R316, R340). -/
def State.taskTarget (s : State) (lay func : Nat) (a : Int) (write : Bool) : Except Nat Target :=
  if a < 0 ∨ 2 ^ 40 ≤ a then .error 0x0C
  else
    let a := a.toNat
    if a < 0x8000000000 then
      match s.dramPermit false func a write with
      | 0 => .ok (.dram a func)
      | st => .error st
    else if a < 0x8044000000 then
      let n := a % 0x8000000000 / 0x1000000
      let o := a % 0x1000000
      let mine := match Tab.get none s.rig.place n with
        | some (l, _) => l == lay
        | none => false
      if 0x400000 ≤ o ∨ (func ≠ 0 ∧ !mine) then .error 0x0C else .ok (.spad n o)
    else if a < 0xA000000000 then .error 0x0C
    else if a < 0xC000000000 then
      if !s.grm.allow.getLsbD func then .error 0x0C
      else if peerNode a = s.node then s.ownWindow (peerOff a) write
      else if !s.isMember (peerNode a) then .error 0x0D
      else .ok (.peer (peerNode a))
    else
      match s.hostPermit func a write with
      | 0 => .ok .host
      | st => .error st

/-- A weight-class read of the host range goes to this channel; the flag says that it may use the splice cache (R335). -/
def State.hostChan (s : State) (a : Nat) : Nat × Bool :=
  let c := a / 1024 % 8
  if s.exp.list.contains c && (s.chan c).train == .trained then (c, true)
  else (s.exp.list.getD (a / 1024 % 8 % s.exp.list.length) 0, false)

end Sys2Proof.Machine
end

