-- ==== Sys2Proof/Machine/Flags.lean ====
section
/-! DEFINITION. Status registers: how each flag is set and cleared, and what its capture registers keep. -/

namespace Sys2Proof.Machine

/-! ## Access types (R15, R452) -/

/-- RW1C: writing 1 clears a bit of `mask` (R15). -/
def rw1c (old v mask : Word) : Word := old &&& ~~~(v &&& mask)

/-- RW: the bits of `mask` take the written value. -/
def rwBits (old v mask : Word) : Word := (old &&& ~~~mask) ||| (v &&& mask)

/-- Field `[lo + n - 1 : lo]` of a register word replaced by `v`. -/
def setFld (w : Word) (lo n v : Nat) : Word :=
  let m : Word := BitVec.ofNat 32 ((2 ^ n - 1) * 2 ^ lo)
  (w &&& ~~~m) ||| (BitVec.ofNat 32 (v * 2 ^ lo) &&& m)

/-- Field `[lo + n - 1 : lo]` of a register word. -/
def getFld (w : Word) (lo n : Nat) : Nat := bitsOf w.toNat lo n

/-- A saturating count in field `[lo + n - 1 : lo]` (R452). -/
def satAdd (w : Word) (lo n k : Nat) : Word := setFld w lo n (min (2 ^ n - 1) (getFld w lo n + k))

/-! ## Tile status registers -/

/-- Set bits of `TILE_VEC_STATUS` for a strand (R190). -/
def Tile.vecFlag (t : Tile) (k : Nat) (f : BitVec 3) : Tile :=
  if f = 0 then t else { t with vecSt := setFld (t.vecSt ||| f.setWidth 32) 3 3 k }

/-- Set bits of `TILE_QUANT_STATUS` for a strand (R94, R120): bit 0 NONFINITE, 1 ZERO_RANGE, 2 RECORD_BAD. -/
def Tile.quantFlag (t : Tile) (k : Nat) (f : BitVec 3) : Tile :=
  if f = 0 then t else { t with quantSt := setFld (t.quantSt ||| f.setWidth 32) 3 3 k }

/-- Set bit `b` of `TILE_SAT_STATUS` for a strand; bits 0 and 1 also record the shift. -/
def Tile.satFlag (t : Tile) (k b shift : Nat) : Tile :=
  let w := setFld (t.satSt ||| BitVec.ofNat 32 (2 ^ b)) 4 3 k
  { t with satSt := if b < 2 then setFld w 8 2 shift else w }

/-- A saturation of an entry: the flag, and the capture of the first one (`TILE_SAT_INFO`). -/
def Tile.saturate (t : Tile) (k entry group shift : Nat) (guard combined : Bool) : Tile :=
  let info := if getFld t.satSt 0 2 = 0 then
      BitVec.ofNat 32 (entry % 8192 + group * 2 ^ 13 + k * 2 ^ 16 + shift * 2 ^ 19
        + (if guard then 2 ^ 21 else 0) + (if combined then 2 ^ 22 else 0) + 2 ^ 31)
    else t.satInfo
  { t.satFlag k (if guard then 0 else 1) shift with satInfo := info }

/-- A write to `TILE_SAT_STATUS`: the capture goes when both its flags are clear. -/
def Tile.clearSat (t : Tile) (v : Word) : Tile :=
  let w := rw1c t.satSt v 0xF
  { t with satSt := w, satInfo := if getFld w 0 2 = 0 then 0 else t.satInfo }

/-- Set bit `b` of `TILE_ARRAY_STATUS`. -/
def Tile.arrayFlag (t : Tile) (b : Nat) : Tile := { t with arraySt := t.arraySt ||| BitVec.ofNat 32 (2 ^ b) }

/-- An invalid T5 index: the flag, and the capture of the first one (R57). -/
def Tile.invalidIndex (t : Tile) (k value slot port row : Nat) : Tile :=
  let info := if getFld t.arraySt 0 1 = 0 then
      BitVec.ofNat 32 (value + slot * 2 ^ 8 + port * 2 ^ 12 + row * 2 ^ 16 + k * 2 ^ 21 + 2 ^ 31)
    else t.invalidInfo
  { t.arrayFlag 0 with invalidInfo := info }

/-- A write to `TILE_ARRAY_STATUS`: `TILE_INVALID_INFO.VALID` is cleared with `INVALID_INDEX`. -/
def Tile.clearArray (t : Tile) (v : Word) : Tile :=
  let w := rw1c t.arraySt v 0x7
  { t with arraySt := w, invalidInfo := if getFld w 0 1 = 0 then setFld t.invalidInfo 31 1 0 else t.invalidInfo }

/-- A dropped write into bight `b` (R219). -/
def Tile.slotDrop (t : Tile) (b : Nat) : Tile :=
  { t with bightSt := setFld (setFld (t.bightSt ||| 1) 8 8 b) 16 3 0 }

/-- A BREAD of strand `k` on bight `b` timed out (R217). -/
def Tile.bightTimedOut (t : Tile) (k b : Nat) : Tile :=
  { t with bightSt := setFld (setFld (t.bightSt ||| 2) 8 8 b) 16 3 k }

/-- The capture of the first failed window check (R165). -/
def Tile.boundFail (t : Tile) (k opcode off : Nat) (write : Bool) : Tile :=
  if getFld t.boundInfo 0 1 = 1 then t
  else { t with
    boundOff := BitVec.ofNat 32 off
    boundInfo := BitVec.ofNat 32 (1 + k * 2 + opcode * 16 + (if write then 2 ^ 10 else 0)) }

/-- The capture of the first stream that ends a task with a non-zero status (R457). -/
def Tile.streamFail (t : Tile) (k sid status : Nat) (local_ : Bool) (addr : Nat) : Tile :=
  if getFld t.streamErr 0 1 = 1 then t
  else { t with
    streamErr := BitVec.ofNat 32 (1 + k * 2 + sid * 16 + status * 2 ^ 7 + (if local_ then 2 ^ 15 else 0))
    streamErrAddr := if local_ then 0 else BitVec.ofNat 40 addr }

/-- Set bit `b` of `TILE_ECC_STATUS`. -/
def Tile.eccFlag (t : Tile) (b : Nat) : Tile := { t with eccSt := t.eccSt ||| BitVec.ofNat 32 (2 ^ b) }

end Sys2Proof.Machine
end

