-- ==== Sys2Proof/Machine/Latch.lean ====
section
/-! DEFINITION. The fault latch (R383 to R385), a channel taken out of service (R386), and which CSR accesses a function
may make (R14, R416, R438, R439). -/

namespace Sys2Proof.Machine

/-! ## Fault latch -/

/-- Fault kind `a` calls for more than kind `b`: TILE_LOST for more than PSTORE, PSTORE for more than TILE_STATE. -/
def kindAbove (a b : Nat) : Bool := (a == 1 && b != 1) || (a == 3 && b == 2)

/-- A fault merges into a latched fault of the same tile or channel (R384), whose recovery then covers both. -/
def FaultEnt.merge (f : FaultEnt) (kind : Nat) (own : Option (List Nat)) : FaultEnt :=
  { f with
    kind := if kindAbove kind f.kind.toNat then BitVec.ofNat 4 kind else f.kind
    acted := false
    own := match f.own, own with
      | some a, some b => some (a ++ b)
      | _, _ => none }

/-- A retrain ends when a fault is latched (R422): the channel resumes on its previous values and retrains at its next slot. -/
def State.endRetrains (s : State) : State :=
  { s with chans := s.chans.map fun e =>
      (e.1, if e.2.retrain then { e.2 with retrain := false, busy := false, due := true } else e.2) }

/-- A fault enters the latch (R383), or merges (R384); with both entries occupied the device halts (R385). -/
def State.latchFault (s : State) (src : BitVec 16) (kind : Nat) (own : Option (List Nat) := none) : State :=
  if s.svc.faults.any fun f => f.source == src then
    { s with svc := { s.svc with faults := s.svc.faults.map fun f => if f.source == src then f.merge kind own else f } }
  else if 2 ≤ s.svc.faults.length then (s.halt 1).irq 0
  else
    let n := s.svc.faults.length
    let s1 := s.endRetrains.logEv src .fault 0 (some (BitVec.ofNat 32 kind)) (some (BitVec.ofNat 32 n))
    { s1 with svc := { s1.svc with
      faults := s1.svc.faults ++ [{ source := src, kind := BitVec.ofNat 4 kind, at_ := s1.glb.time, own := own }] } }

/-- Tile `p` is lost (R377, R379 step 1): the fault is latched; as entry 0 it stops dispatch to the logical tile and fences it, and the
router of the tile stops delivering to it. -/
def State.loseTile (s : State) (p : Nat) : State :=
  let s1 := (s.modTile p fun t => { t with lost := true }).latchFault (srcTile p) 1
  let l := s1.logOf p
  match s1.svc.faults with
  | f :: _ =>
    if f.source = srcTile p then
      (s1.setMap l { s1.mapEnt l with fenced := (Tab.get none s1.rig.place l).isSome }).modTile p fun t => { t with deadRouter := true }
    else s1
  | [] => s1

/-- A TILE_STATE (2) or PSTORE (3) fault on tile `p`: the same kind within the previous 1 ms raises TILE_LOST instead
(R384), which makes the tile lost (R377). -/
def State.tileFault (s : State) (p kind : Nat) (own : Option (List Nat)) : State :=
  let t := s.tile p
  let last := if kind = 2 then t.lastState else t.lastPstore
  let again := match last with
    | some at_ => decide (s.glb.time - at_ ≤ usTicks 1000)
    | none => false
  let s1 := s.modTile p fun t =>
    if kind = 2 then { t with lastState := some s.glb.time } else { t with lastPstore := some s.glb.time }
  if again then s1.loseTile p else s1.latchFault (srcTile p) kind own

/-- Channel `c` is taken out of service (R386): CHANNEL_OUT is logged, the CHANNEL fault is latched and the device is
DEGRADED (R314, R5). -/
def State.channelOut (s : State) (c : Nat) : State :=
  if (s.chan c).train = .out then s
  else
    let s1 := s.modChan c fun x => { x with train := .out, busy := false, retrain := false }
    let s2 := s1.logEv (srcChan c) .channelOut 0 none none
    let s3 := { s2 with glb := { s2.glb with degChan := true } }
    (s3.latchFault (srcChan c) 4).settle

/-! ## CSR accesses -/

/-- The BARs of function `fn` answer (R439, R435). -/
def State.barOpen (s : State) (fn : Nat) : Bool :=
  decide (fn < 64) && s.glb.st != .off && (fn == 0 || s.glb.vfEn) && (s.func fn).mse && !(s.func fn).d3

/-- Start-up step from which a block of the PF's BAR0 is available (R416). -/
def blockStep (off : Nat) : Nat :=
  if off < 0x20000 then 1
  else if 0x900000 ≤ off then 1
  else if 0x700000 ≤ off ∧ off < 0x740000 then 4
  else if 0x600000 ≤ off ∧ off < 0x680000 ∨ 0x740000 ≤ off ∧ off < 0x750000 then 5
  else 7

/-- The block of the PF's BAR0 that holds offset `off` is available (R416); the scheduler's is so in HELD too, where queues accept
entries (R263). -/
def State.blockUp (s : State) (off : Nat) : Bool :=
  decide (blockStep off ≤ s.glb.avail) || (s.glb.st == .held && decide (0x800000 ≤ off) && decide (off < 0x900000))

/-- A write of the PF to a register of BAR0 acts (R416, R439): its BARs answer and the block is available. -/
def State.pfWrites (s : State) (fn off : Nat) : Bool := fn == 0 && s.barOpen 0 && s.blockUp off

end Sys2Proof.Machine
end

