-- ==== Sys2Proof/Machine/Bandwidth.lean ====
section
/-! DEFINITION. Memory bandwidth shares: a group's ceiling, as a token bucket on each tile where it holds the turn (R301). Its
precedence at the memory channels is in Memory.lean (R302). -/

namespace Sys2Proof.Machine

/-- `SCH_QG_BW_n.MIN`, in units of 100 MB/s; values above 6,144 act as 6,144. -/
def QGroup.bwMin (g : QGroup) : Nat := min 6144 (getFld g.bw 0 16)
/-- `SCH_QG_BW_n.MAX`, in units of 100 MB/s, which are one byte in a tick of the timebase; values above 6,144 act as 6,144. -/
def QGroup.bwMax (g : QGroup) : Nat := min 6144 (getFld g.bw 16 16)

/-! ## Ceiling -/

/-- Tiles on which group `g` holds the turn (R301). -/
def State.turnTiles (s : State) (g : Nat) : Nat := (s.tiles.filter fun e => e.2.turn == some g).length

/-- The bucket of a tile refilled up to the present at `rate` bytes a tick over `n` tiles (R301): at most 4 KiB. A tick that has brought
part of a byte only is counted with the next ones. -/
def Tile.refill (t : Tile) (rate n now : Nat) : Tile :=
  let got := rate * (now - t.tokMark) / n
  if 4096 ≤ t.tokens + got then { t with tokens := 4096, tokMark := now }
  else { t with tokens := t.tokens + got, tokMark := t.tokMark + (got * n + rate - 1) / rate }

/-- The bucket of tile `p` refilled for its turn group; none without a group, or without a ceiling. -/
def State.bucket (s : State) (p : Nat) : Option Tile :=
  let t := s.tile p
  match t.turn with
  | none => none
  | some g => if (s.qgroup g).bwMax = 0 then none else some (t.refill (s.qgroup g).bwMax (s.turnTiles g) s.glb.time)

/-- A stream of tile `p` takes `n` bytes of its group's bandwidth (R301); none while the bucket holds fewer. -/
def State.spend (s : State) (p n : Nat) : Option State :=
  match s.bucket p with
  | none => some s
  | some t => if t.tokens < n then none else some (s.setTile p { t with tokens := t.tokens - n })

/-- Every bucket is refilled at the rates so far, before the rates change (R301). -/
def State.refillAll (s : State) : State :=
  (s.tiles.map (·.1)).foldl (fun a p => match s.bucket p with
    | some t => a.setTile p t
    | none => a) s

/-- The turn of tile `p` opens for a group, with a full bucket, or ends (R296, R301). -/
def State.setTurn (s : State) (p : Nat) (g : Option Nat) : State :=
  if (s.tile p).turn = g then s
  else s.refillAll.modTile p fun t => { t with turn := g, closed := false, tokens := 4096, tokMark := s.glb.time }

end Sys2Proof.Machine
end

