-- ==== Sys2Proof/Machine/Scratch.lean ====
section
/-! DEFINITION. The scratchpad: its interleave (R157), reads with their error rules (R162, R363 to R367), full and
partial writes (R163, R368, R369), bight regions (R219), and the meanings of the mesh accesses to it. -/

namespace Sys2Proof.Machine

/-! ## Interleave -/

/-- Surviving banks, ascending (R157). -/
def Tile.banks (t : Tile) : List Nat := (List.range 64).filter fun b => !t.retire.getLsbD b
/-- Usable size U in bytes (R157). -/
def Tile.usable (t : Tile) : Nat := 65536 * t.banks.length
/-- Physical bank of a scratchpad offset (R157). -/
def Tile.bankOf (t : Tile) (off : Nat) : Nat := t.banks.getD (off / 32 % t.banks.length) 0
/-- Line of a scratchpad offset (R157). -/
def Tile.lineOf (t : Tile) (off : Nat) : Nat := off / 32 / t.banks.length
/-- Physical bank, line and word index of scratchpad word `w`, as one number (R157, R367). -/
def Tile.place (t : Tile) (w : Nat) : Nat := (t.bankOf (8 * w) * 2048 + t.lineOf (8 * w)) * 4 + w % 4
/-- Log location of scratchpad word `w` (R387). -/
def Tile.locOf (t : Tile) (w : Nat) : BitVec 64 := spadLoc (t.bankOf (8 * w)) (t.lineOf (8 * w)) (8 * w)

/-! ## Words -/

/-- The words that bytes `off .. off + n - 1` touch. -/
def wordsOf (off n : Nat) : List Nat := if n = 0 then [] else (List.range ((off + n - 1) / 8 + 1 - off / 8)).map (· + off / 8)

/-- How word `w` checks when it is read; a word whose valid bit is clear raises no error (R365). -/
def Tile.wordEcc (t : Tile) (w : Nat) : Ecc := if t.valid.has w then Tab.get .clean t.ecc w else .clean
/-- Set how word `w` checks. -/
def Tile.setEcc (t : Tile) (w : Nat) (e : Ecc) : Tile :=
  { t with ecc := if e = .clean then Tab.drop t.ecc w else Tab.put t.ecc w e }

/-- One byte of the scratchpad; a word whose valid bit is clear reads zero (R162). -/
def Tile.byte (t : Tile) (a : Nat) : Byte := if t.valid.has (a / 8) then Mem.get 0 t.mem a else 0
/-- Bytes `off .. off + n - 1` of the scratchpad. -/
def Tile.bytes (t : Tile) (off n : Nat) : List Byte := (List.range n).map fun i => t.byte (off + i)

/-- A word among those touched waits for its re-read (R363). -/
def Tile.blocked (t : Tile) (off n : Nat) : Bool := (wordsOf off n).any fun w => t.wordEcc w == .uncorrectable
/-- A word among those touched is poisoned (R364). -/
def Tile.poisonedIn (t : Tile) (off n : Nat) : Bool := (wordsOf off n).any fun w => t.wordEcc w == .poisoned

/-- Word `w` waits for its re-read (R363). -/
def Tile.rereading (t : Tile) (w : Nat) : Bool := t.rereads.any fun e => e.1 == w

/-- Put the uncorrectable words touched on the list of re-reads (R363). -/
def Tile.askReread (t : Tile) (off n : Nat) : Tile :=
  (wordsOf off n).foldl (fun a w =>
    if a.wordEcc w == .uncorrectable && !a.rereading w then { a with rereads := Tab.put a.rereads w false } else a) t

/-! ## Correctable errors -/

/-- The table of recent correctable words (R367): a second event at word `w` in the same lap makes the word a candidate for a heal
test. -/
def Tile.noteCeTable (t : Tile) (w : Nat) : Tile :=
  let lap := t.scrubLap.toNat
  let at_ := t.place w
  if t.ceTab.any (fun e => e.word == at_ && e.lap == lap) then
    { t with ceTab := t.ceTab.filter (fun e => !(e.word == at_ && e.lap == lap)), heals := t.heals.add at_ }
  else
    let keep := if 8 ≤ t.ceTab.length then t.ceTab.drop 1 else t.ceTab
    { t with ceTab := keep ++ [{ word := at_, lap := lap }] }

/-- A correctable event at word `w` of tile `p` (R366, R367): counted, flagged, logged, entered in the table. -/
def State.ceEvent (s : State) (p w : Nat) : State :=
  let t := s.tile p
  let s1 := s.modTile p fun t => ({ t with eccCnt := satAdd t.eccCnt 0 16 1 }.eccFlag 0).noteCeTable w
  s1.logEv (srcTile p) .ce (t.locOf w) none (some (BitVec.ofNat 32 t.scrubLap.toNat))

/-- The correctable words touched by a read are corrected on the way and noted (R366). -/
def State.noteCe (s : State) (p off n : Nat) : State :=
  (wordsOf off n).foldl (fun a w => if (s.tile p).wordEcc w == .correctable then a.ceEvent p w else a) s

/-- Word `w` of tile `p` is poisoned (R364): flagged and counted. -/
def State.poisonWord (s : State) (p w : Nat) : State :=
  s.modTile p fun t => ({ t.setEcc w .poisoned with eccCnt := satAdd t.eccCnt 24 8 1 }).eccFlag 2

/-! ## Writes -/

/-- Bytes grouped by aligned 8-byte word, in order. -/
def groupWords : List (Nat × Byte) → List (Nat × List (Nat × Byte))
  | [] => []
  | (a, b) :: t =>
    match groupWords t with
    | (w, l) :: r => if w = a / 8 then (w, (a, b) :: l) :: r else (a / 8, [(a, b)]) :: (w, l) :: r
    | [] => [(a / 8, [(a, b)])]

/-- The bytes cover their word (R163). -/
def fullWord (l : List (Nat × Byte)) : Bool := (List.range 8).all fun i => l.any fun e => e.1 % 8 == i

/-- Store bytes of word `w`: bytes of an invalid word that are not written become zero; the valid bit is set (R162,
R163); a stored word checks clean (R369, R368). -/
def Tile.storeWord (t : Tile) (w : Nat) (l : List (Nat × Byte)) : Tile :=
  let base := if t.valid.has w then t.mem else Mem.write 0 t.mem (8 * w) (List.replicate 8 0)
  { t with mem := Mem.writeAt 0 base l, valid := t.valid.add w, ecc := Tab.drop t.ecc w }

/-- Slot of a bight of this node consumed on physical tile `p` whose region holds offset `off` (R211, R219). -/
def State.regionAt (s : State) (p off : Nat) : Option (Nat × Nat) :=
  (s.rig.bights.findSome? fun e =>
    match e.2 with
    | some d =>
      if d.cnode = s.grm.node.toNat ∧ s.physOf d.ctile = p ∧ d.region ≤ off ∧ off < d.region + d.slots * d.slotsz * 64 then
        some (e.1, (off - d.region) / (d.slotsz * 64))
      else none
    | none => none)

/-- A write of `prod` (a node and logical tile; none for the host) to offset `off` of tile `p` is accepted by the bight
rule (R219): outside every region, or into a FILLING slot by its recorded producer, or into a DRAINING slot by the
consumer tile. -/
def State.slotRule (s : State) (p off : Nat) (prod : Option (Nat × Nat)) : Bool :=
  match s.regionAt p off with
  | none => true
  | some (b, j) =>
    let sl := Tab.get {} (s.bight b).slots j
    match sl.st with
    | .filling => prod.isSome && sl.prod == prod
    | .draining => prod == some (s.grm.node.toNat, s.logOf p)
    | _ => false

/-- The status that refuses a write to one word, or 0 (R37, R158, R219, R368). -/
def State.wordRefusal (s : State) (p : Nat) (prod : Option (Nat × Nat)) (g : Nat × List (Nat × Byte)) : Nat :=
  if (s.tile p).usable ≤ 8 * g.1 then 0x0C
  else if !s.slotRule p (8 * g.1) prod then 0x03
  else if !fullWord g.2 && (s.tile p).wordEcc g.1 == .poisoned then 0x01
  else 0

/-- Log a refused word of a write (R368, R389 WRITE_REFUSED) with the task's tag, or 0 for BAR4. -/
def State.logRefused (s : State) (p w : Nat) (tag : Word) : State :=
  s.logEv (srcTile p) .writeRefused ((s.tile p).locOf w) (some tag) none

/-- Write one word's bytes for a task of tag `tag` (R163, R368, R369). The result's number is 0, or the status of the refusal. -/
def State.writeWord (s : State) (p : Nat) (prod : Option (Nat × Nat)) (tag : Word) (g : Nat × List (Nat × Byte)) : State × Nat :=
  let w := g.1
  match s.wordRefusal p prod g with
  | 0 =>
    let s1 := if !fullWord g.2 && (s.tile p).wordEcc w == .correctable then s.ceEvent p w else s
    (s1.modTile p fun t => t.storeWord w g.2, 0)
  | 0x01 => ((s.modTile p fun t => t.eccFlag 4).logRefused p w tag, 0x01)
  | 0x03 => (s.modTile p fun t => t.slotDrop ((s.regionAt p (8 * w)).getD (0, 0)).1, 0x03)
  | st => (s, st)

/-- A write is accepted or refused word by word; its status is the lowest of the refusals (R368, R10). -/
def State.spadWrite (s : State) (p : Nat) (prod : Option (Nat × Nat)) (tag : Word) (data : List (Nat × Byte)) : State × Nat :=
  (groupWords data).foldl (fun a g =>
    let r := a.1.writeWord p prod tag g
    (r.1, worst [a.2, r.2])) (s, 0)

/-- A write must wait for a re-read (R368, R369): a partial write to an uncorrectable word, or any write to a word whose
re-read runs. -/
def Tile.writeBlocked (t : Tile) (data : List (Nat × Byte)) : Bool :=
  (groupWords data).any fun g =>
    (t.wordEcc g.1 == .uncorrectable && !fullWord g.2) || t.rereading g.1

/-- Ask for the re-reads that a blocked write waits for. -/
def Tile.askRereadWrite (t : Tile) (data : List (Nat × Byte)) : Tile :=
  (groupWords data).foldl (fun a g => a.askReread (8 * g.1) 8) t

end Sys2Proof.Machine
end

