-- ==== Sys2Proof/Machine/Bights.lean ====
section
/-! DEFINITION. Bights: slots, credits and slot messages (R211 to R221, R456). -/

namespace Sys2Proof.Machine

/-- The endpoint (node, logical tile) of physical tile `p`. -/
def State.me (s : State) (p : Nat) : Nat × Nat := (s.node, s.logOf p)
/-- Rank of an endpoint among a bight's producers (R212). -/
def BightDecl.rank (d : BightDecl) (e : Nat × Nat) : Option Nat :=
  if d.prod.contains e then some (d.prod.idxOf e) else none
/-- The bight is consumed by endpoint `e`. -/
def BightDecl.consumer (d : BightDecl) (e : Nat × Nat) : Bool := d.cnode == e.1 && d.ctile == e.2
/-- Depth D of a producer's sub-ring (R212). -/
def BightDecl.depth (d : BightDecl) : Nat := d.slots / d.nprod
/-- Scratchpad offset of slot `j` (R211). -/
def BightDecl.slotOff (d : BightDecl) (j : Nat) : Nat := d.region + j * d.slotsz * 64
/-- The slot of the same sub-ring that follows slot `j` (R212). -/
def BightDecl.after (d : BightDecl) (j : Nat) : Nat := if j + d.nprod < d.slots then j + d.nprod else j % d.nprod

/-- Credits of the producer of rank `r` (R213). -/
def State.credit (s : State) (b : Nat) (d : BightDecl) (r : Nat) : Nat := Tab.get d.depth (s.bight b).credit r
/-- Next slot of the producer of rank `r` (R212). -/
def State.nextWr (s : State) (b r : Nat) : Nat := Tab.get r (s.bight b).nextWr r
/-- Slot `j` of bight `b`. -/
def State.slotAt (s : State) (b j : Nat) : BSlot := Tab.get {} (s.bight b).slots j
/-- Write slot `j` of bight `b`. -/
def State.setSlot (s : State) (b j : Nat) (x : BSlot) : State := s.modBight b fun y => { y with slots := Tab.put y.slots j x }

/-! ## Messages -/

/-- Send a packet from endpoint `src` toward logical tile `n` of node `node`: across the mesh, or to the grommet port on the
route (R18, R36); nothing leaves for an unreachable node. -/
def State.sendTo (s : State) (src : Endpoint) (node n : Nat) (vc : VC) (body : Body) : State :=
  if node = s.node then s.send { src := src, dst := s.tileEnd n, vc := vc, body := body }
  else
    match s.routeTo node with
    | some q => s.send { src := src, dst := .port q, vc := vc, body := body }
    | none => s

/-- Send one packet from endpoint `src` to several logical tiles of this node; routers replicate it along the tree of their routes
(R27). -/
def State.sendMany (s : State) (src : Endpoint) (ns : List Nat) (vc : VC) (body : Body) : State :=
  match ns.map s.tileEnd with
  | d :: l => s.send { src := src, dst := d, vc := vc, body := body, more := l }
  | [] => s

/-- The status that a task of function `func` gets for peer traffic toward node `n` that its function may not originate (R340); 0 on
this node. -/
def State.peerRefusal (s : State) (func n : Nat) : Nat := need (n == s.node || s.grm.allow.getLsbD func) 0x0C

/-- Return one credit for slot `j` to its producer (R213), on the response channel toward another node (R346). -/
def State.returnCredit (s : State) (b j : Nat) : State :=
  match s.bightDecl b with
  | none => s
  | some d =>
    let r := j % d.nprod
    let e := d.prod.getD r (0, 0)
    s.sendTo (.tile (s.physOf d.ctile)) e.1 e.2 (if e.1 = s.node then .pst else .rsp) (.credit b r)

/-- A slot message reaches the consumer (R215). A message that the slot's state does not name changes nothing. -/
def State.slotApply (s : State) (m : SlotMsg) (b j : Nat) (prod : Nat × Nat) (uid : Nat) : State :=
  let sl := s.slotAt b j
  match m, sl.st with
  | .claim, .empty =>
    match s.bightDecl b with
    | some d => if d.prod[j % d.nprod]? = some prod then s.setSlot b j { st := .filling, prod := some prod, puid := some uid } else s
    | none => s
  | .full, .filling => if sl.prod = some prod then s.setSlot b j { sl with st := .full } else s
  | .abandon, .filling => if sl.prod = some prod then (s.setSlot b j {}).returnCredit b j else s
  | _, _ => s

/-- Device address of byte `off` of the scratchpad of a bight's consumer: in the scratchpad range, or in a peer window. -/
def State.consumerAddr (s : State) (d : BightDecl) (off : Nat) : Nat :=
  if d.cnode = s.node then spadAddr d.ctile off else peerSpad d.cnode d.ctile off

/-- A producer on tile `p` sends a slot message (R215), for its stream `sid` if any. A message to the tile's own bight takes effect at
once when `direct`. -/
def State.slotMsg (s : State) (p : Nat) (m : SlotMsg) (b : Nat) (d : BightDecl) (j uid : Nat) (direct : Bool) (sid : Option Nat) : State :=
  if direct && d.consumer (s.me p) then s.slotApply m b j (s.me p) uid
  else s.sendTo (.tile p) d.cnode d.ctile .pst
    (.slot m b j (s.me p) uid (.msg p uid (sid.map fun i => (i, s.consumerAddr d (d.slotOff j)))))

/-- The bight's lay is being replaced, so that the tasks of other lays wait as for credit (R261). -/
def State.layHeld (s : State) (d : BightDecl) (uid : Nat) : Bool :=
  match s.svc.drain with
  | some { kind := .lay m, .. } => d.lay == m && (match s.task uid with | some t => t.lay != m | none => false)
  | _ => false

/-- The producer on tile `p` takes a credit and claims the next slot of its sub-ring (R213, R218), for its stream `sid` if any; none without a
credit. -/
def State.claimSlot (s : State) (p b : Nat) (d : BightDecl) (r uid : Nat) (sid : Option Nat) : Option (State × Nat) :=
  let c := s.credit b d r
  if c = 0 ∨ s.layHeld d uid then none
  else
    let j := s.nextWr b r
    let s1 := s.modBight b fun y => { y with credit := Tab.put y.credit r (c - 1), nextWr := Tab.put y.nextWr r (d.after j) }
    some (s1.slotMsg p .claim b d j uid true sid, j)

/-! ## Consumer -/

/-- The slot a bight-aware read takes (R216): the first returned slot in read order, else the slot at the read pointer
if it is FULL. -/
def State.takeable (s : State) (b : Nat) (d : BightDecl) : Option Nat :=
  let y := s.bight b
  match ((List.range d.slots).map fun i => (y.rd + i) % d.slots).find? fun j =>
      (s.slotAt b j).st == .full && (s.slotAt b j).returned with
  | some j => some j
  | none => if (s.slotAt b y.rd).st = .full then some y.rd else none

/-- Strand `k` of tile `p` takes slot `j` (R215, R216). -/
def State.takeSlot (s : State) (p k b : Nat) (d : BightDecl) (j : Nat) : State :=
  let sl := s.slotAt b j
  let s1 := s.setSlot b j { sl with st := .draining, returned := false, holder := some (p, k) }
  let s2 := if sl.returned then s1 else s1.modBight b fun y => { y with rd := (j + 1) % d.slots }
  s2.modStrand p k fun x => { x with held := x.held ++ [{ bight := b, slot := j, rd := true }] }

/-- A DRAINING slot is freed and its credit returned (R215). -/
def State.freeSlot (s : State) (b j : Nat) : State := (s.setSlot b j {}).returnCredit b j

/-- The slots a task holds or was filling when it ends with status `st` (R215, R220). -/
def State.endSlots (s : State) (p k st : Nat) : State :=
  let x := s.strand p k
  let s1 := x.held.foldl (fun a h =>
    if h.rd then
      if st = 0 then a.freeSlot h.bight h.slot
      else a.setSlot h.bight h.slot { a.slotAt h.bight h.slot with st := .full, returned := true, holder := none }
    else
      match a.bightDecl h.bight with
      | some d => a.slotMsg p (if st = 0 then .full else .abandon) h.bight d h.slot x.uid true none
      | none => a) s
  let s2 := x.claims.foldl (fun a c =>
    match a.bightDecl c.bight with
    | some d => a.slotMsg p (if st = 0 then .full else .abandon) c.bight d c.slot x.uid false none
    | none => a) s1
  s2.modStrand p k fun x => { x with held := [], claims := [], again := none, kept := [] }

/-! ## Verdicts -/

/-- A combining task on tile `p` sends a verdict to the scheduler of each part (R142): on CTL, or on the reduction channel
for a part on another node. -/
def State.sendVerdict (s : State) (p red tok : Nat) (v : VerdictKind) : State :=
  match Tab.get none s.rig.reduce red with
  | none => s
  | some g => g.parts.foldl (fun a part =>
      if part.1 = a.node then a.send { src := .tile p, dst := coreSide p, vc := .ctl, body := .verdict red tok v part }
      else
        match a.routeTo part.1 with
        | some q => a.send { src := .tile p, dst := .port q, vc := .pst, body := .verdict red tok v part }
        | none => a) s

/-! ## Data of a slot -/

/-- The bytes cut at multiples of `blk` of their address. -/
def cutBlocks (blk a : Nat) : Nat → List Byte → List (Nat × List Byte)
  | 0, _ => []
  | n + 1, l =>
    if l.isEmpty then []
    else
      let m := min l.length (blk - a % blk)
      (a, l.take m) :: cutBlocks blk (a + m) n (l.drop m)

/-- The number of pieces of `len` bytes at address `a` cut at multiples of `blk`. -/
def piecesOf (blk a len : Nat) : Nat := if len = 0 then 0 else (a % blk + len + blk - 1) / blk

/-- The strand's count of unacknowledged writes has room for `n` more (R205). -/
def Strand.ackRoom (x : Strand) (n : Nat) : Bool := decide (x.unacked + n ≤ 65535)

/-- A producer on tile `p` writes bytes at scratchpad offset `off` of a bight's consumer, as posted writes of at most
`blk` bytes (R22, R202, R218); the answer counts them. -/
def State.slotWrite (s : State) (p : Nat) (d : BightDecl) (off blk : Nat) (l : List Byte) (who : Requester) : State × Nat :=
  let pieces := cutBlocks blk off (l.length + 1) l
  let s' := pieces.foldl (fun a e =>
    if d.cnode = s.node then
      a.sendTo (.tile p) d.cnode d.ctile .pst (.spadWrite (bytesAt e.1 e.2) (some (s.me p)) who)
    else
      a.sendTo (.tile p) d.cnode d.ctile .pst
        (.write (peerSpad d.cnode d.ctile e.1) (bytesAt (peerSpad d.cnode d.ctile e.1) e.2) 0 (some (s.me p)) true who)) s
  (s', pieces.length)

end Sys2Proof.Machine
end

