-- ==== Sys2Proof/Machine/Steps.lean ====
section
/-! DEFINITION. The sequencer: issue of kernel steps (R170 to R172, R176), checks and data of their operands (R165, R363,
R364), and the end of a task (R173). -/

namespace Sys2Proof.Machine

/-! ## Units -/

/-- The steps on unit `u`: the one that runs and the one queued behind it (R169). -/
def Tile.unit (t : Tile) (u : Nat) : List UStep := Tab.get [] t.units u
/-- Write the steps of unit `u`. -/
def Tile.setUnit (t : Tile) (u : Nat) (l : List UStep) : Tile := { t with units := Tab.put t.units u l }
/-- Unit `u` has a free queue place (R170). -/
def Tile.room (t : Tile) (u : Nat) : Bool := decide ((t.unit u).length < 2)
/-- A step of strand `k` has not completed on unit `u`. -/
def Tile.unitBusy (t : Tile) (u k : Nat) : Bool := (t.unit u).any fun x => x.strand == k
/-- A unit named in `WAITU` holds an earlier step of the strand (R170). -/
def Tile.waituBlocked (t : Tile) (k mask : Nat) : Bool := (List.range 6).any fun u => mask.testBit u && t.unitBusy u k
/-- Put a step on unit `u`. -/
def State.pushUnit (s : State) (p u : Nat) (x : UStep) : State := s.modTile p fun t => t.setUnit u (t.unit u ++ [x])
/-- Steps of strand `k` with no unit left to complete. -/
def Tile.quiet (t : Tile) (k : Nat) : Bool := (List.range 6).all fun u => !t.unitBusy u k

/-! ## Arrivals and shares -/

/-- The table-share set of logical tile `n` (R67): its number, and its members ascending. -/
def State.shareSet (s : State) (n : Nat) : Option (Nat × List Nat) :=
  s.rig.mcast.findSome? fun e =>
    match e.2 with
    | some g => if g.share && g.src == n then some (g.shareset, (NSet.add (g.dest.foldl NSet.add []) n)) else none
    | none => none

/-- The hitches that strand `k` has arrived on, or has issued a step for that is to arrive (R225). -/
def Tile.arriving (t : Tile) (k : Nat) : NSet :=
  let pend := (t.unit 5 ++ t.unit 0).filterMap fun u => if u.strand = k then u.arrive.map (·.1) else none
  ((t.strand k).arrived.map (·.1) ++ pend).foldl NSet.add []

/-- Strand `k` may arrive on hitch `h` (R225): a task arrives on at most 4 distinct ones. -/
def Tile.canArrive (t : Tile) (k h : Nat) : Bool := (t.arriving k).has h || decide ((t.arriving k).length < 4)

/-- Count an arrival of the strand that awaits its release (R226). -/
def Strand.noteArrive (x : Strand) (h : Nat) : Strand := { x with arrived := Tab.put x.arrived h (Tab.get 0 x.arrived h + 1) }

/-- Send an arrival to the scheduler (R225): on CTL, from the tile to the always-on core. -/
def State.sendArrive (s : State) (p k h n : Nat) (tm : Bool) : State :=
  (s.modStrand p k fun x => x.noteArrive h).send
    { src := .tile p, dst := coreSide p, vc := .ctl, body := .arrive h n (s.strand p k).uid p k tm }

/-- HARRIVE steps at the head of the synchronisation unit whose strands are owed nothing send their arrivals (R225). -/
def State.pumpSyn (s : State) (p : Nat) : State :=
  match (s.tile p).unit 5 with
  | u :: rest =>
    match u.arrive with
    | some (h, n) =>
      if (s.strand p u.strand).unacked = 0 then
        (s.modTile p fun t => t.setUnit 5 ({ u with arrive := none } :: rest)).sendArrive p u.strand h n false
      else s
    | none => s
  | [] => s

/-- A member sends its share on its multicast group (R68 step 5, R69, R27): one packet for each of its slots, which every other member
acknowledges (R204). -/
def State.sendShare (s : State) (p : Nat) (u : UStep) (others : List Nat) : State :=
  (u.out.foldl (fun a e => a.sendMany (.tile p) others .pst (.tableSlot u.set.1 u.set.2 e.1 e.2 (.step p u.strand u.uid))) s).modStrand p u.strand
    fun x => { x with unacked := x.unacked + u.out.length * others.length }

/-- The TMCAST at the head of the builder goes on (R68, R170): it arrives on its share hitch; once that is released, it sends its share
when the strand's count of unacknowledged writes has room (R205). -/
def State.pumpBld (s : State) (p : Nat) : State :=
  match (s.tile p).unit 0 with
  | u :: rest =>
    match u.arrive with
    | some (h, n) =>
      let left := Tab.get 0 (s.strand p u.strand).arrived h + 1
      (s.modTile p fun t => t.setUnit 0 ({ u with arrive := none, since := s.glb.time, left := left } :: rest)).sendArrive p u.strand h n true
    | none =>
      let others := (((s.shareSet (s.logOf p)).map (·.2)).getD []).filter (· != s.logOf p)
      if u.wait || u.out.isEmpty || !(s.strand p u.strand).ackRoom (u.out.length * others.length) then s
      else (s.modTile p fun t => t.setUnit 0 ({ u with out := [] } :: rest)).sendShare p u others
  | [] => s

/-! ## End of a task -/

/-- Release the table banks of strand `k` (R75). The manual does not say what the mode and the presence mask of a bank that has become
FREE read; the model sets both to 0 (notes/assumptions/48.md). -/
def TableBank.release (b : TableBank) (k : Nat) : TableBank :=
  if b.owner = some k then
    match b.st with
    | .active => { b with owner := none }
    | .building | .ready => {}
    | _ => b
  else b

/-- Release the accumulator bank of strand `k` (R129). -/
def AccBank.release (b : AccBank) (k : Nat) : AccBank := if b.owner = some k then {} else b

/-- Every bank a strand owns is released (R75, R129). -/
def Tile.releaseBanks (t : Tile) (k : Nat) : Tile :=
  { t with tb0 := t.tb0.release k, tb1 := t.tb1.release k, acc0 := t.acc0.release k, acc1 := t.acc1.release k }

/-- Contents a stopped codebook load leaves: free bytes (R59). -/
def State.stopLoad (s : State) (c : Codebook) : Codebook × State :=
  if c.loading then
    ({ c with loading := false, valid := false, data := (List.range c.data.length).map fun i => Config.freeByte (s.fresh + i) },
     { s with fresh := s.fresh + c.data.length })
  else (c, s)

/-- Codebook entry 0 or 1. -/
def Tile.codebook (t : Tile) (c : Bool) : Codebook := if c then t.cb1 else t.cb0
/-- Write a codebook entry. -/
def Tile.setCodebook (t : Tile) (c : Bool) (x : Codebook) : Tile := if c then { t with cb1 := x } else { t with cb0 := x }

/-- The codebook loads into entry `c` on the builder, in order: the first of them runs (R59, R169). -/
def Tile.loadsInto (t : Tile) (c : Bool) : List UStep :=
  (t.unit 0).filter fun x => opcodeOf x.ent.word == 3 && flag x.ent.word 12 == c

/-- The codebook load of step `x` starts (R59, R103, R180): the entry is loading, with the ID and the dimension of the step. -/
def Tile.startLoad (t : Tile) (x : UStep) : Tile :=
  let w := x.ent.word
  t.setCodebook (flag w 12)
    { id := BitVec.ofNat 16 (fld w 13 16), valid := false, dim8 := flag w 29, loading := true
      data := match x.ent.o1 with
        | .spad off => t.bytes ((t.strand x.strand).base + off) (if flag w 29 then 2048 else 1024)
        | .pstore off => t.psRead off (if flag w 29 then 2048 else 1024)
        | .none_ => [] }

/-- The codebook load of strand `k` into entry `c` stops if it is the one that runs, and the next one of another strand starts (R59,
R170). -/
def State.stopLoadInto (s : State) (p k : Nat) (c : Bool) : State :=
  match (s.tile p).loadsInto c with
  | x :: rest =>
    if x.strand = k then
      let r := s.stopLoad ((s.tile p).codebook c)
      r.2.modTile p fun t => match rest.find? fun y => y.strand != k with
        | some y => (t.setCodebook c r.1).startLoad y
        | none => t.setCodebook c r.1
    else s
  | [] => s

/-- Codebook loads of strand `k` stop (R59). -/
def State.stopLoads (s : State) (p k : Nat) : State := (s.stopLoadInto p k false).stopLoadInto p k true

/-- The stream contexts of strand `k` issue nothing further; those with nothing outstanding are freed (R173, R198). -/
def Tile.stopStreams (t : Tile) (k : Nat) : Tile :=
  { t with ctxs := t.ctxs.map fun e =>
      match e.2 with
      | some c => if c.strand = k then
          (e.1, if c.out = 0 ∧ c.unacked = 0 then none else some { c with stopped := true }) else e
      | none => e }

/-- Whether a status is logged when a task ends with it (R389 TASK_STATUS). -/
def statusLogged (st : Nat) : Bool := st == 0x01 || st == 0x05 || st == 0x0F

/-- Tag of the task on a strand. -/
def State.tagOf (s : State) (x : Strand) : Word := match s.task x.uid with
  | some t => t.tag
  | none => 0

/-- Log the end of a task with a status of a bus error or a damaged block (R389 TASK_STATUS). -/
def State.logStatus (s : State) (p k st : Nat) : State :=
  if statusLogged st then s.logEv (srcTile p) .taskStatus 0 (some (s.tagOf (s.strand p k))) (some (BitVec.ofNat 32 st)) else s

/-- The step is a COMBINE (R182). -/
def isCombine (w : BitVec 128) : Bool := opcodeOf w == 5 && fld w 12 2 == 2

/-- The first step that strand `x` may still reach (R176, R185): its next one, or the target of a LOOP from there on whose counter is
not 0. -/
def Tile.reachFrom (t : Tile) (x : Strand) : Nat :=
  let d := t.dir x
  ((List.range (d.entry + d.count - x.next)).map (· + x.next)).foldl (fun a i =>
    let w := t.step i
    if opcodeOf w = 0x0E ∧ x.cnt (fld w 12 2) ≠ 0 then min a (fld w 14 12) else a) x.next

/-- The tokens whose verdicts strand `x` has still to decide (R142): the reduction group and the token of every COMBINE step that it may
still reach; 64 stands for every token of the group where a loop counter gives it (notes/assumptions/58.md). -/
def Tile.undecided (t : Tile) (x : Strand) : List (Nat × Nat) :=
  let d := t.dir x
  let lo := t.reachFrom x
  ((List.range (d.entry + d.count - lo)).filterMap fun i =>
    let w := t.step (lo + i)
    if isCombine w then some (fld w 86 6, if fld w 18 7 < 64 then fld w 18 7 else 64) else none).foldl
    (fun a e => if a.contains e then a else a ++ [e]) []

/-- A combining task that ends before it has decided sends ABORT for what it has not decided (R142). -/
def State.sendAborts (s : State) (p k : Nat) : State :=
  ((s.tile p).undecided (s.strand p k)).foldl (fun a e =>
    match Tab.get none s.rig.reduce e.1 with
    | some g => if g.comb = s.me p then a.sendVerdict p e.1 e.2 .abort else a
    | none => a) s

/-- The task of strand `k` of tile `p` ends with status `st` (R173): its steps stop, its streams issue no more, its banks
and slots are released, and the strand is ENDING. `abort`: undecided verdicts of a task that will not run again become ABORT (R142). -/
def State.endTaskWith (s : State) (p k st : Nat) (abort : Bool) : State :=
  let x := s.strand p k
  match x.st with
  | .free | .ending => s
  | _ =>
    let s1 := s.stopLoads p k
    let s2 := s1.modTile p fun t =>
      (Tile.stopStreams { t with units := t.units.map fun (e : Nat × List UStep) => (e.1, e.2.filter fun y => y.strand != k) } k).releaseBanks k
    let s3 := s2.endSlots p k st
    let sv := if st ≠ 0 ∧ abort then s3.sendAborts p k else s3
    let s4 := sv.modStrand p k fun x =>
      { x with st := .ending, reason := .none_, status := st, rg := none, log := [], logOver := false }
    ((s4.logStatus p k st).pumpSyn p).pumpBld p

@[inherit_doc State.endTaskWith]
def State.endTask (s : State) (p k st : Nat) : State := s.endTaskWith p k st true

/-- A write of the task is refused with status `st` (R204): the task ends with it. A task that stands ENDING with status 0x00 and still
waits for acknowledgements takes it as its status (R173, R205); one that has a status keeps it (R10). -/
def State.refused (s : State) (p k st : Nat) : State :=
  let x := s.strand p k
  if x.st = .ending then
    if x.status = 0 then (s.modStrand p k fun x => { x with status := st }).logStatus p k st else s
  else s.endTask p k st

/-! ## Issue -/

/-- The step a strand issues next. -/
inductive StepSrc
  | nothing                          -- the strand issues nothing
  | outside                          -- past the kernel's last step (R176)
  | step (e : LogEnt) (redo : Bool)  -- from the program store, or from the replay log (R134)
deriving DecidableEq, Repr

/-- Fetch the next step of strand `k` of tile `p` (R170, R174, R176). -/
def State.fetch (s : State) (p k : Nat) : StepSrc :=
  let t := s.tile p
  let x := t.strand k
  if !s.tileRuns p || 8 ≤ k then .nothing
  else
    match x.st with
    | .issuing | .waiting =>
      match x.rg.bind fun g => g.redo.bind fun i => x.log[i]? with
      | some e => .step e true
      | none => if t.inKernel x x.next then .step { word := t.step x.next, tok := 0 } false else .outside
    | _ => .nothing

/-- What became of an attempt to issue a step. -/
inductive Issued
  | wait (r : Reason) (s : State)        -- the step waits; nothing else has happened but in `s`
  | stop (st : Nat) (s : State)          -- the step ends the task with status `st`
  | go (s : State)                       -- the step has issued
  | jump (s : State) (n : Nat)           -- the step has issued and issue continues at step `n`

/-- Strand `k` waits for reason `r` (R168, R169). -/
def State.setWait (s : State) (p k : Nat) (r : Reason) : State :=
  s.modStrand p k fun x =>
    if r = .none_ then { x with st := .issuing, reason := .none_ }
    else { x with st := .waiting, reason := r, waitFrom := if x.st = .waiting ∧ x.reason = r then x.waitFrom else s.glb.time }

/-- The strand moves past the step it has issued. -/
def State.advance (s : State) (p k : Nat) (redo : Bool) (n : Option Nat) : State :=
  s.modStrand p k fun x =>
    let y := { x with st := .issuing, reason := .none_ }
    if redo then
      { y with rg := y.rg.map fun g =>
          { g with redo := g.redo.bind fun i => if i + 1 < y.log.length then some (i + 1) else none } }
    else { y with next := n.getD (x.next + 1) }

/-- Issue the next step of a strand when it is one of the row's (`isRow`), by its meaning `body`: `WAITU` and the unit's
queue place come first (R170). A step of another row leaves everything as it is. -/
def State.issue (s : State) (p k : Nat) (isRow : BitVec 128 → Bool) (body : LogEnt → Bool → State → Issued) : State :=
  match s.fetch p k with
  | .nothing => s
  | .outside => s.endTask p k 0x0F
  | .step e redo =>
    if !isRow e.word then s
    else
      let t := s.tile p
      if t.waituBlocked k (waituOf e.word) then s.setWait p k .waitu
      else if (match unitOf (opcodeOf e.word) with | some u => !t.room u | none => false) then s.setWait p k .unit
      else
        match body e redo s with
        | .wait r s' => s'.setWait p k r
        | .stop st s' => s'.endTask p k st
        | .go s' => s'.advance p k redo none
        | .jump s' n => s'.advance p k redo (some n)

/-! ## Operand data -/

/-- Scratchpad offset of an operand of a window that starts at `base`. -/
def Opnd.abs (base : Nat) : Opnd → Option Nat
  | .spad off => some (base + off)
  | _ => none

/-- The bytes of an operand. -/
def Tile.opBytes (t : Tile) (base : Nat) (o : Opnd) (n : Nat) : List Byte :=
  match o with
  | .spad off => t.bytes (base + off) n
  | .pstore off => t.psRead off n
  | .none_ => []

/-- The words an access touches but does not cover. -/
def edgeWords (off n : Nat) : List Nat := (wordsOf off n).filter fun w => !(decide (off ≤ 8 * w) && decide (8 * w + 8 ≤ off + n))

/-- The access waits for a re-read (R363, R368, R369): a read of an uncorrectable word, a partial write to one, or any write to a word
whose re-read runs. -/
def Tile.accBlocked (t : Tile) (base : Nat) (a : Access) : Bool :=
  match a.o.abs base with
  | none => false
  | some off =>
    if a.write then (edgeWords off a.len).any (fun w => t.wordEcc w == .uncorrectable) || (wordsOf off a.len).any t.rereading
    else a.parts.any fun r => t.blocked (off + r.1) r.2

/-- Ask for the re-reads that an access waits for. -/
def Tile.accAsk (t : Tile) (base : Nat) (a : Access) : Tile :=
  match a.o.abs base with
  | none => t
  | some off =>
    if a.write then (edgeWords off a.len).foldl (fun t w => t.askReread (8 * w) 8) t
    else a.parts.foldl (fun t r => t.askReread (off + r.1) r.2) t

/-- What the checks of a step's operands answer. -/
inductive Prep
  | bad (st : Nat) (s : State)
  | hold (s : State)
  | ok (s : State)

/-- Check a step's accesses (R165, R166, R177), wait for re-reads (R363), refuse poisoned words (R364) and note corrected
ones (R366). `more` are the step's other checks at issue (R10 takes the lowest status). When several operands of the step fail the
window check, the capture holds the first of them in the order of the list `accs`: the manual does not say which
(notes/assumptions/49.md). -/
def State.prep (s : State) (p k : Nat) (e : LogEnt) (accs : List Access) (more : List Nat) : Prep :=
  let x := s.strand p k
  let st := worst (accs.map (Access.status x.size) ++ more)
  if st ≠ 0 then
    match accs.find? fun a => (a.outside x.size).isSome with
    | some a => .bad st (s.modTile p fun t => t.boundFail k (opcodeOf e.word) ((a.outside x.size).getD 0) a.write)
    | none => .bad st s
  else
    let t := s.tile p
    if accs.any (t.accBlocked x.base) then
      .hold (s.modTile p fun t => accs.foldl (fun t c => t.accAsk x.base c) t)
    else
      let reads := accs.flatMap fun a => if a.write then [] else
        match a.o.abs x.base with
        | some off => a.parts.map fun r => (off + r.1, r.2)
        | none => []
      match (reads.flatMap fun r => wordsOf r.1 r.2).find? fun w => t.wordEcc w == .poisoned with
      | some w => .bad 0x01 (s.logEv (srcTile p) .poison (t.locOf w) (some (s.tagOf x)) (some 1))
      | none => .ok (reads.foldl (fun a r => a.noteCe p r.1 r.2) s)

/-- The step waits in state `s0` for the re-reads that state `s` asks for (R363). -/
def State.holdAt (s0 s : State) (p : Nat) : Issued := .wait .none_ (s0.modTile p fun t => { t with rereads := (s.tile p).rereads })

/-- A step that ends its task at issue with a status of `more`, or a lower one that its accesses raise (R10). -/
def State.stopAt (s : State) (p k : Nat) (e : LogEnt) (accs : List Access) (more : List Nat) : Issued :=
  match s.prep p k e accs more with
  | .bad st s' => .stop st s'
  | .hold s' => .wait .none_ s'
  | .ok s' => .stop (worst more) s'

/-- A step writes bytes to an operand; the number is 0 or the status of the refusal (R219, R368). -/
def State.opWrite (s : State) (p k : Nat) (o : Opnd) (l : List Byte) : State × Nat :=
  let x := s.strand p k
  match o.abs x.base with
  | none => (s, 0)
  | some off =>
    s.spadWrite p (some (s.me p)) (s.tagOf x) (bytesAt off l)

/-- Write a list of operand writes in order. -/
def State.opWrites (s : State) (p k : Nat) (ws : List (Opnd × List Byte)) : State × Nat :=
  ws.foldl (fun a w => if a.2 = 0 then a.1.opWrite p k w.1 w.2 else a) (s, 0)

/-- The lookup pass under way ends when a step other than LPASS issues (R181). -/
def State.endPass (s : State) (p k : Nat) : State := s.modStrand p k fun x => { x with pass := none }

end Sys2Proof.Machine
end

