-- ==== Sys2Proof/Machine/Control.lean ====
section
/-! DEFINITION. Control steps (R172, R176, R185): END, LOOP and SETR. -/

namespace Sys2Proof.Machine

/-- The step has opcode `op`. -/
def isOp (op : Nat) (w : BitVec 128) : Bool := opcodeOf w == op

/-- END (R172): issues once every earlier step of the strand has completed, and ends the task with status 0x00. Every bit
above `WAITU` is reserved. -/
def endBody (p k : Nat) (e : LogEnt) (_ : Bool) (s : State) : Issued :=
  if !(s.tile p).quiet k then .wait .end_ s
  else .stop (if fld e.word 12 116 ≠ 0 then 0x0B else 0) s

/-- A register increased by a signed 12-bit increment shifted left, modulo 2^32; 15 names none (R185). -/
def bumpReg (x : Strand) (r inc sh : Nat) : Strand :=
  if r = 15 then x else x.setReg r (x.reg r + BitVec.ofInt 32 (signedOf 12 inc * 2 ^ sh))

/-- LOOP (R176, R185). -/
def loopBody (p k : Nat) (e : LogEnt) (_ : Bool) (s : State) : Issued :=
  let w := e.word
  let t := s.tile p
  let x := t.strand k
  let c := fld w 12 2
  let target := fld w 14 12
  if fld w 66 62 ≠ 0 then .stop 0x0B s
  else if !t.inKernel x target then .stop 0x0F s
  else if x.cnt c = 0 then .go (s.endPass p k)
  else
    .jump ((s.endPass p k).modStrand p k fun x =>
      let y := x.setCnt c (x.cnt c - 1)
      bumpReg (bumpReg y (fld w 26 4) (fld w 30 12) (fld w 42 4)) (fld w 46 4) (fld w 50 12) (fld w 62 4)) target

/-- SETR (R185): `IMM` + A[`SRC`] into an address register, or `IMM`[15:0] into a loop counter. Destination 15 is
reserved. -/
def setrBody (p k : Nat) (e : LogEnt) (_ : Bool) (s : State) : Issued :=
  let w := e.word
  let dst := fld w 13 4
  let src := fld w 17 4
  let imm := fld w 21 32
  if fld w 53 75 ≠ 0 then .stop 0x0B s
  else if flag w 12 then
    .go ((s.endPass p k).modStrand p k fun x => x.setCnt (dst % 4) (BitVec.ofNat 16 imm))
  else if dst = 15 then .stop 0x0B s
  else
    .go ((s.endPass p k).modStrand p k fun x =>
      x.setReg dst (BitVec.ofNat 32 imm + (if src = 15 then 0 else x.reg src)))

end Sys2Proof.Machine
end

