-- ==== Sys2Proof/Machine/Float.lean ====
section
/-! DEFINITION. FP32 and BF16 arithmetic (R84 to R86, R118): every result is rounded once from the exact value of its
operands, subnormals are read and written as zero, NaN results are the canonical quiet NaN. -/

namespace Sys2Proof.Machine

/-- A floating-point operand after R85's reading: `fin neg m e` is the value ± m × 2^e with m > 0. -/
inductive Fp
  | nan
  | inf (neg : Bool)
  | zero (neg : Bool)
  | fin (neg : Bool) (m : Nat) (e : Int)
deriving DecidableEq, Repr

/-- The canonical quiet NaN of R85. -/
def qnan : Word := 0x7FC00000

/-- Plus infinity and minus infinity. -/
def infW (neg : Bool) : Word := if neg then 0xFF800000 else 0x7F800000

/-- A zero of either sign. -/
def zeroW (neg : Bool) : Word := if neg then 0x80000000 else 0

/-- Read an FP32 operand: a subnormal reads as the zero of its sign (R85). -/
def fpOf (w : Word) : Fp :=
  let neg := w.getLsbD 31
  let e := (w.extractLsb' 23 8).toNat
  let f := (w.extractLsb' 0 23).toNat
  if e = 255 then (if f = 0 then .inf neg else .nan)
  else if e = 0 then .zero neg
  else .fin neg (2 ^ 23 + f) ((e : Int) - 150)

/-- 2^e for a possibly negative e, as a numerator and a denominator. -/
def pow2 (e : Int) : Nat × Nat := (2 ^ e.toNat, 2 ^ (-e).toNat)

/-- Round the non-negative quotient num / den to an integer: to nearest, ties to even (R118, RNE). -/
def rneDiv (num den : Nat) : Nat :=
  let q := num / den
  let r := num % den
  if 2 * r < den then q
  else if den < 2 * r then q + 1
  else q + q % 2

/-- Round the non-negative quotient num / den to an integer: to nearest, ties away from zero (R118, RNA). -/
def rnaDiv (num den : Nat) : Nat :=
  if den ≤ 2 * (num % den) then num / den + 1 else num / den

/-- Round a signed quotient to an integer, ties to even. -/
def rneInt (num : Int) (den : Nat) : Int :=
  if num < 0 then - (rneDiv num.natAbs den : Int) else (rneDiv num.natAbs den : Int)

/-- Round a signed quotient to an integer, ties away from zero. -/
def rnaInt (num : Int) (den : Nat) : Int :=
  if num < 0 then - (rnaDiv num.natAbs den : Int) else (rnaDiv num.natAbs den : Int)

/-- The significand of `p` bits and the exponent of its last bit nearest num / den (num, den > 0), the exponent range
unbounded (R85). `away` selects RNA. -/
def roundSig (away : Bool) (p num den : Nat) : Nat × Int :=
  let k0 : Int := (num.log2 : Int) - (den.log2 : Int) - (p : Int)
  let at_ (k : Int) : Nat × Nat := (num * (pow2 (-k)).1, den * (pow2 (-k)).2)
  let q0 := (at_ k0).1 / (at_ k0).2
  let k : Int := if 2 ^ (p + 1) ≤ q0 then k0 + 2 else if 2 ^ p ≤ q0 then k0 + 1 else k0
  let nd := at_ k
  (if away then rnaDiv nd.1 nd.2 else rneDiv nd.1 nd.2, k)

/-- Pack a 24-bit significand (2^23 ≤ q ≤ 2^24) with last-bit exponent k as FP32: overflow to infinity, below the
smallest normal value to zero of the same sign (R85). -/
def pack32 (neg : Bool) (q : Nat) (k : Int) : Word :=
  let (q, k) := if q = 2 ^ 24 then (2 ^ 23, k + 1) else (q, k)
  let e := k + 150
  if 255 ≤ e then infW neg
  else if e ≤ 0 then zeroW neg
  else BitVec.ofNat 32 ((if neg then 2 ^ 31 else 0) + e.toNat * 2 ^ 23 + q % 2 ^ 23)

/-- The FP32 value nearest ± num / den (den > 0). -/
def roundRat (away neg : Bool) (num den : Nat) : Word :=
  if num = 0 then zeroW neg
  else
    let (q, k) := roundSig away 24 num den
    pack32 neg q k

/-- The FP32 value nearest the signed quotient, ties to even; zero is +0. -/
def rneRat (num : Int) (den : Nat) : Word := roundRat false (decide (num < 0)) num.natAbs den

/-- The FP32 value nearest m × 2^e, ties to even. -/
def roundDyad (neg : Bool) (m : Nat) (e : Int) : Word :=
  roundRat false neg (m * (pow2 e).1) (pow2 e).2

/-- The exact value of a finite operand as an integer numerator and a denominator. -/
def ratOf (w : Word) : Int × Nat :=
  match fpOf w with
  | .fin neg m e =>
    let n := m * (pow2 e).1
    (if neg then -(n : Int) else n, (pow2 e).2)
  | _ => (0, 1)

/-- Signed exact integer of an operand scaled by 2^-e0. -/
def scaled (neg : Bool) (m : Nat) (e e0 : Int) : Int :=
  let n := m * 2 ^ (e - e0).toNat
  if neg then -(n : Int) else n

/-- x + y for exact addends, rounded once. -/
def addFp (x y : Fp) : Word :=
  match x, y with
  | .nan, _ => qnan
  | _, .nan => qnan
  | .inf a, .inf b => if a = b then infW a else qnan
  | .inf a, _ => infW a
  | _, .inf b => infW b
  | .zero a, .zero b => zeroW (a && b)
  | .zero _, .fin n m e => roundDyad n m e
  | .fin n m e, .zero _ => roundDyad n m e
  | .fin n m e, .fin n' m' e' =>
    let e0 := if e ≤ e' then e else e'
    let s := scaled n m e e0 + scaled n' m' e' e0
    if s = 0 then 0 else roundDyad (decide (s < 0)) s.natAbs e0

/-- The exact product. -/
def mulExact (x y : Fp) : Fp :=
  match x, y with
  | .nan, _ => .nan
  | _, .nan => .nan
  | .inf a, .inf b => .inf (a != b)
  | .inf _, .zero _ => .nan
  | .zero _, .inf _ => .nan
  | .inf a, .fin n _ _ => .inf (a != n)
  | .fin n _ _, .inf b => .inf (n != b)
  | .zero a, .zero b => .zero (a != b)
  | .zero a, .fin n _ _ => .zero (a != n)
  | .fin n _ _, .zero b => .zero (n != b)
  | .fin n m e, .fin n' m' e' => .fin (n != n') (m * m') (e + e')

/-- Round an exact value once. -/
def fpRound : Fp → Word
  | .nan => qnan
  | .inf n => infW n
  | .zero n => zeroW n
  | .fin n m e => roundDyad n m e

/-- FP32 addition. -/
def fadd (a b : Word) : Word := addFp (fpOf a) (fpOf b)

/-- The operand with its sign changed. -/
def fneg (a : Word) : Word := a ^^^ 0x80000000

/-- FP32 subtraction. -/
def fsub (a b : Word) : Word := fadd a (fneg b)

/-- FP32 multiplication. -/
def fmul (a b : Word) : Word := fpRound (mulExact (fpOf a) (fpOf b))

/-- a × b + c with one rounding. -/
def ffma (a b c : Word) : Word := addFp (mulExact (fpOf a) (fpOf b)) (fpOf c)

/-- FP32 division, rounded once. -/
def fdiv (a b : Word) : Word :=
  match fpOf a, fpOf b with
  | .nan, _ => qnan
  | _, .nan => qnan
  | .inf _, .inf _ => qnan
  | .zero _, .zero _ => qnan
  | .inf n, .zero n' => infW (n != n')
  | .inf n, .fin n' _ _ => infW (n != n')
  | .zero n, .inf n' => zeroW (n != n')
  | .zero n, .fin n' _ _ => zeroW (n != n')
  | .fin n _ _, .inf n' => zeroW (n != n')
  | .fin n _ _, .zero n' => infW (n != n')
  | .fin n m e, .fin n' m' e' =>
    let d := e - e'
    roundRat false (n != n') (m * (pow2 d).1) (m' * (pow2 d).2)

/-- Newton steps for the integer square root, from above. -/
def isqrtStep : Nat → Nat → Nat → Nat
  | 0, _, x => x
  | fuel + 1, n, x =>
    let y := (x + n / x) / 2
    if y < x then isqrtStep fuel n y else x

/-- ⌊√n⌋. -/
def isqrt (n : Nat) : Nat :=
  if n = 0 then 0 else isqrtStep 64 n (2 ^ (n.log2 / 2 + 1))

/-- The FP32 value nearest √(num / den): the root to 2^-80 of its size with a sticky bit. -/
def sqrtRat (num den : Nat) : Word :=
  if num = 0 then 0
  else
    let s := 200 + den.log2
    let t := num * 2 ^ (2 * s) / den
    let r := isqrt t
    let exact := decide (r * r = t) && decide (num * 2 ^ (2 * s) % den = 0)
    roundRat false false (2 * r + (if exact then 0 else 1)) (2 ^ (s + 1))

/-- FP32 square root (R191). -/
def fsqrt (a : Word) : Word :=
  match fpOf a with
  | .nan => qnan
  | .inf n => if n then qnan else infW false
  | .zero n => zeroW n
  | .fin true _ _ => qnan
  | .fin false m e => sqrtRat (m * (pow2 e).1) (pow2 e).2

/-- Is the operand a NaN? -/
def isNan (a : Word) : Bool := fpOf a == .nan

/-- Is the operand infinite? -/
def isInf (a : Word) : Bool := match fpOf a with | .inf _ => true | _ => false

/-- Is the operand NaN or infinite (R94)? -/
def nonfinite (a : Word) : Bool := isNan a || isInf a

/-- Is the operand a zero, as R85 reads it? -/
def isZero (a : Word) : Bool := match fpOf a with | .zero _ => true | _ => false

/-- A key that orders the numbers; −0 lies below +0 (R188, MAX). -/
def fkey (a : Word) : Int :=
  let a := if isZero a then zeroW (a.getLsbD 31) else a
  let mag : Int := (a.extractLsb' 0 31).toNat
  if a.getLsbD 31 then -mag - 1 else mag

/-- The operand as R85 reads it, for operations that deliver an operand. -/
def fclean (a : Word) : Word := fpRound (fpOf a)

/-- R188 MAX. -/
def fmax (a b : Word) : Word :=
  if isNan a || isNan b then qnan else if fkey a < fkey b then fclean b else fclean a

/-- R188 MIN. -/
def fmin (a b : Word) : Word :=
  if isNan a || isNan b then qnan else if fkey b < fkey a then fclean b else fclean a

/-- a < b as numbers (neither NaN); the zeros are equal. -/
def flt (a b : Word) : Bool :=
  let (n, d) := ratOf a
  let (n', d') := ratOf b
  match fpOf a, fpOf b with
  | .nan, _ => false
  | _, .nan => false
  | .inf x, .inf y => x && !y
  | .inf x, _ => x
  | _, .inf y => !y
  | _, _ => decide (n * d' < n' * d)

/-- FP32 to BF16: nearest, ties to even, on the 16 discarded bits (R86); subnormals and NaN as R85 says. -/
def toBf16 (w : Word) : BitVec 16 :=
  match fpOf w with
  | .nan => 0x7FC0
  | .inf n => if n then 0xFF80 else 0x7F80
  | .zero n => if n then 0x8000 else 0
  | .fin _ _ _ =>
    let hi := w.toNat / 2 ^ 16
    let lo := w.toNat % 2 ^ 16
    let up := decide (0x8000 < lo) || (decide (lo = 0x8000) && decide (hi % 2 = 1))
    BitVec.ofNat 16 (if up then hi + 1 else hi)

/-- BF16 to FP32, exact (R86). -/
def ofBf16 (b : BitVec 16) : Word := BitVec.ofNat 32 (b.toNat * 2 ^ 16)

/-- An integer as FP32, rounded once. -/
def fofInt (n : Int) : Word := rneRat n 1

/-- Positive, finite and normal: the condition on a record's SCALE (R89, R99). -/
def scaleOk (w : Word) : Bool :=
  match fpOf w with
  | .fin false _ _ => true
  | _ => false

/-- Status bits that one operation sets (R190): bit 0 OVERFLOW, bit 1 INVALID. -/
def fflags (ops : List Word) (r : Word) : BitVec 3 :=
  let ov := isInf r && ops.all (fun x => !nonfinite x)
  let iv := isNan r && ops.all (fun x => !isNan x)
  (if ov then 1 else 0) ||| (if iv then 2 else 0)

/-- A result with the status bits it sets. -/
abbrev FR := Word × BitVec 3

/-- Operations that also report their status bits. -/
def addR (a b : Word) : FR := (fadd a b, fflags [a, b] (fadd a b))

/-- Subtraction with status bits. -/
def subR (a b : Word) : FR := (fsub a b, fflags [a, b] (fsub a b))

/-- Multiplication with status bits. -/
def mulR (a b : Word) : FR := (fmul a b, fflags [a, b] (fmul a b))

/-- Fused multiply-add with status bits. -/
def fmaR (a b c : Word) : FR := (ffma a b c, fflags [a, b, c] (ffma a b c))

/-- Division with status bits; a finite number divided by zero is DIVZERO's business of RECIP only. -/
def divR (a b : Word) : FR := (fdiv a b, fflags [a, b] (fdiv a b))

/-- Square root with status bits. -/
def sqrtR (a : Word) : FR := (fsqrt a, fflags [a] (fsqrt a))

/-- Sequence two operations, joining their status bits. -/
def FR.andThen (x : FR) (f : Word → FR) : FR := ((f x.1).1, x.2 ||| (f x.1).2)

/-- One level of a balanced pairwise tree (R147). -/
def treeLevel : List Word → List FR
  | a :: b :: t => addR a b :: treeLevel t
  | [a] => [(a, 0)]
  | [] => []

/-- Sum a list of 2^m values in a balanced pairwise tree; `fuel` is at least m. -/
def treeSum : Nat → List Word → FR
  | _, [] => (0, 0)
  | _, [a] => (a, 0)
  | 0, a :: _ => (a, 0)
  | fuel + 1, l =>
    let lv := treeLevel l
    let r := treeSum fuel (lv.map (·.1))
    (r.1, lv.foldl (fun acc x => acc ||| x.2) r.2)

/-- The least power of two at or above n, as an exponent. -/
def log2Up (n : Nat) : Nat := if n ≤ 1 then 0 else (n - 1).log2 + 1

/-- Sum of eighth j of the values (R147): its own values fill leaves 0 upward, +0 the rest. -/
def eighth (v : List Word) (L j : Nat) : FR :=
  let e := (L + 7) / 8
  let own := ((v.take L).drop (j * e)).take e
  let m := log2Up e
  treeSum m (own ++ List.replicate (2 ^ m - own.length) 0)

/-- Join the status bits of several results. -/
def orFlags (l : List FR) : BitVec 3 := l.foldl (fun acc x => acc ||| x.2) 0

/-- The canonical sum of R147 over eighths lo to lo + n - 1 (n = 8: the unsplit sum; n = 8 / parts: a part's sum). -/
def canonPart (v : List Word) (L lo n : Nat) : FR :=
  let es := (List.range n).map (fun j => eighth v L (lo + j))
  let r := treeSum 3 (es.map (·.1))
  (r.1, r.2 ||| orFlags es)

/-- The canonical FP32 sum (R147). -/
def canonSum (v : List Word) : FR := canonPart v v.length 0 8

/-- Combine part sums by the top levels of the canonical tree (R148). -/
def combineParts (v : List Word) : FR := treeSum 3 v

/-- The outlier sum of R108: 64 products and the tree of 64 leaves. -/
def outlierSum (xo wo : List Word) : FR :=
  let ps := (List.range 64).map (fun i => mulR (xo.getD i 0) (wo.getD i 0))
  let r := treeSum 6 (ps.map (·.1))
  (r.1, r.2 ||| orFlags ps)

end Sys2Proof.Machine
end

