-- ==== Sys2Proof/Machine/Tables.lean ====
section
/-! DEFINITION. Table builds: TBUILD, TMCAST and CBLOAD, the shifted activations, the stored tables, table multicast, and
the swap of table banks (R48 to R77, R88 to R91, R104, R105, R135, R136, R179, R180). -/

namespace Sys2Proof.Machine

/-! ## Banks -/

/-- Table bank 0 or 1. -/
def Tile.tbank (t : Tile) (b : Bool) : TableBank := if b then t.tb1 else t.tb0
/-- Write a table bank. -/
def Tile.setTbank (t : Tile) (b : Bool) (x : TableBank) : Tile := if b then { t with tb1 := x } else { t with tb0 := x }
/-- The active bank, which row 0 selects. -/
def Tile.active (t : Tile) : TableBank := t.tbank t.row0
/-- The shadow bank. -/
def Tile.shadow (t : Tile) : TableBank := t.tbank (!t.row0)

/-- A build step of strand `k` can claim the shadow bank (R73). -/
def Tile.canClaim (t : Tile) (k : Nat) : Bool :=
  t.shadow.st == .free &&
    ((t.active.st == .active && (t.active.owner == some k || t.active.owner == none)) || t.active.st == .free)

/-! ## Modes -/

/-- Group width g of a mode (R48, R62). -/
def groupWidth (mode : Nat) : Nat := if mode = 0 ∨ mode = 3 then 4 else if mode = 2 then 5 else 8
/-- V4 or V8. -/
def isV (mode : Nat) : Bool := mode == 3 || mode == 4
/-- ⌈a ÷ b⌉. -/
def ceilDiv (a b : Nat) : Nat := (a + b - 1) / b

/-! ## Table entries -/

/-- Entry `idx` of a signed-plane table (R52). -/
def bpEntry (a : List Int) (idx : Nat) : Int :=
  ((List.range a.length).map fun i => if idx.testBit i then a.getD i 0 else - a.getD i 0).foldl (· + ·) 0

/-- Entry `idx` of a ternary table (R55). -/
def t5Entry (a : List Int) (idx : Nat) : Int :=
  ((List.range 5).map fun i => ((idx / 3 ^ i % 3 : Nat) - 1 : Int) * a.getD i 0).foldl (· + ·) 0

/-- Entry `c` of a codebook table (R61): codeword `c` of a codebook of `g` elements. -/
def vEntry (g : Nat) (cb : List Byte) (a : List Int) (c : Nat) : Int :=
  ((List.range g).map fun j => (cb.getD (g * c + j) 0).toInt * a.getD j 0).foldl (· + ·) 0

/-- The stored entries of a slot (R53, R56, R61, R62). -/
def slotTable (mode : Nat) (cb : List Byte) (a : List Int) : List Int :=
  let g := groupWidth mode
  if mode = 2 then (List.range 122).map (t5Entry a)
  else if isV mode then (List.range 256).map (vEntry g cb a)
  else (List.range (2 ^ (g - 1))).map (bpEntry a)

/-- A stored element to its shifted activation (R90), at replay shift `sh` (R135). -/
def shiftedAct (s8 : Bool) (raw zero : Byte) (sh : Nat) : Int :=
  let a : Int := if s8 then raw.toInt else (raw.toNat : Int) - (zero.toNat : Int)
  rneInt a (2 ^ sh)

/-- The shifted activations of channels `c0 .. c0 + g - 1`: outlier channels and channels at or beyond `kk` are 0 (R49). -/
def groupActs (byteAt : Nat → Byte) (s8 : Bool) (zero : Byte) (sh kk : Nat) (outliers : List Nat) (c0 g : Nat) : List Int :=
  (List.range g).map fun i =>
    let c := c0 + i
    if kk ≤ c ∨ outliers.contains c then 0 else shiftedAct s8 (byteAt c) zero sh

/-! ## Outlier maps and token records -/

/-- An outlier map's channels and ID, or none when the map breaks R104 for inner dimension `kk`. -/
def outlierMap (b : List Byte) (kk : Nat) : Option (List Nat × Nat) :=
  let n := fieldAt b 0 2
  let ch := (List.range 64).map fun i => fieldAt b (64 + 2 * i) 2
  let used := ch.take n
  if n ≤ 64 ∧ allZero (slice b 4 60) ∧ allZero (slice b 192 64) ∧ used.all (· < kk) ∧ (ch.drop n).all (· == 0xFFFF)
      ∧ (used.zip (used.drop 1)).all (fun e => e.1 < e.2) then some (used, fieldAt b 2 2)
  else none

/-- A token record, or none when it fails the check of R89 for format bit `s8`. -/
def tokenRecord (b : List Byte) (s8 : Bool) : Option TokRec :=
  let scale := BitVec.ofNat 32 (fieldAt b 0 4)
  let zero := BitVec.ofNat 8 (fieldAt b 4 1)
  let hi := fieldAt b 5 3
  if scaleOk scale ∧ hi = (if s8 then 1 else 0) ∧ (s8 → zero = 0) then some { scale := scale, zero := zero, fmt := s8 }
  else none

/-! ## Row groups and the replay log -/

/-- A step of the array or the builder joins its token's row group (R174), recording itself in the replay log. A step that
would open another row group waits while array steps of the strand have not retired (notes/assumptions/15.md). A row group that a part
dispatched again opens is one more replay (R143, `TILE_REPLAY_CNT`). -/
def State.joinGroup (s : State) (p k : Nat) (e : LogEnt) (rgo redo : Bool) : Option State :=
  let x := s.strand p k
  let busy := (s.tile p).unitBusy 1 k
  let open_ := fun (r : Bool) => (s.modTile p fun t => if x.only.isSome then { t with replayCnt := t.replayCnt + 1 } else t).modStrand p k
    fun x => { x with rg := some { tok := e.tok, rgo := r }, log := if r then [e] else [], logOver := false }
  if redo then some s
  else
    match x.rg with
    | none => some (open_ rgo)
    | some g =>
      if rgo ∨ g.tok ≠ e.tok then (if busy then none else some (open_ rgo))
      else if !g.rgo || x.logOver then some s
      else if x.log.length < 256 then some (s.modStrand p k fun x => { x with log := x.log ++ [e] })
      else some (s.modStrand p k fun x => { x with logOver := true })

/-- The remaining array steps of the token's row group are skipped (R132). -/
def Strand.skipping (x : Strand) (tok : Nat) : Bool :=
  match x.rg with
  | some g => g.skip && g.tok == tok
  | none => false

/-- A part dispatched again runs only the row groups of the tokens it names (R143). -/
def Strand.suppressed (x : Strand) (tok : Nat) : Bool :=
  match x.only with
  | some l => !l.contains tok
  | none => false

/-! ## TBUILD and TMCAST -/

/-- The replay log's entry of a build step: its token, set index and operands (R174, R179). -/
def buildEnt (x : Strand) (e : LogEnt) (redo : Bool) : LogEnt :=
  if redo then e
  else
    let w := e.word
    let qs := fld w 43 4
    { e with
      tok := tokOpnd x (fld w 15 7)
      q := ((if qs = 15 then 0 else (x.reg qs).toNat) + fld w 47 10) % 2 ^ 32
      o1 := spadOpnd x (fld w 58 20)
      o2 := spadOpndOpt x (fld w 78 20) }

/-- The accesses of a build step (R96, R104, R165): the base's alignment, the token's channels of the set, its record when
it has not been read yet, and the map. -/
def buildAccs (x : Strand) (e : LogEnt) : List Access :=
  let w := e.word
  let g := groupWidth (fld w 12 3)
  let kk := fld w 28 15
  let tt := fld w 22 6 + 1
  let wd := ceilDiv kk 64 * 64
  let lo := 16 * e.q * g
  let hi := min kk (lo + 16 * g)
  [{ o := e.o1, len := 0, align := 64 }, e.o1.piece (e.tok * wd + lo) (hi - lo) false]
    ++ (if (Tab.get none (x.recs.map fun r => (r.1, some r.2)) e.tok).isSome then []
        else [e.o1.piece (tt * wd + 8 * e.tok) 8 false])
    ++ (if e.o2 = .none_ then [] else [{ o := e.o2, len := 256, align := 64 }])

/-- The checks of a build step at issue (R14, R60, R62, R96, R179). -/
def buildChecks (t : Tile) (e : LogEnt) (mcast : Bool) : List Nat :=
  let w := e.word
  let mode := fld w 12 3
  let kk := fld w 28 15
  let cb := t.codebook (flag w 98)
  [ need (mcast || fld w 116 12 == 0) 0x0B,
    need (decide (mode < 5)) 0x0B,
    need (decide (0 < kk)) 0x0B,
    need (decide (e.q < ceilDiv (ceilDiv kk (groupWidth mode)) 16)) 0x0B,
    need (decide (e.tok < fld w 22 6 + 1)) 0x0B,
    need (!isV mode || (cb.valid && cb.id.toNat == fld w 99 16 && cb.dim8 == (mode == 4))) 0x0F ]

/-- The token's record as the strand holds it, read now if it has not been (R89, R91). -/
def State.getRecord (s : State) (p k : Nat) (e : LogEnt) : Option TokRec :=
  let x := s.strand p k
  let w := e.word
  match Tab.get none (x.recs.map fun r => (r.1, some r.2)) e.tok with
  | some r => some r
  | none =>
    let wd := ceilDiv (fld w 28 15) 64 * 64
    let b := (s.tile p).opBytes x.base (e.o1.plus ((fld w 22 6 + 1) * wd + 8 * e.tok)) 8
    (tokenRecord b (flag w 57)).map fun r => { r with shift := Tab.get 0 x.shifts e.tok }

/-- The tables, group sums and map ID of the slots in `slots` (R48 to R61, R66, R105). -/
def buildSet (t : Tile) (base : Nat) (e : LogEnt) (r : TokRec) (outliers : List Nat) (slots : List Nat) :
    List (List Int) × List Int :=
  let w := e.word
  let mode := fld w 12 3
  let g := groupWidth mode
  let kk := fld w 28 15
  let wd := ceilDiv kk 64 * 64
  let lo := 16 * e.q * g
  let bytes := t.opBytes base (e.o1.plus (e.tok * wd + lo)) (16 * g)
  let cb := (t.codebook (flag w 98)).data
  let acts := fun sl => groupActs (fun c => bytes.getD (c - lo) 0) r.fmt r.zero r.shift kk outliers (lo + sl * g) g
  ((List.range 16).map fun sl => if slots.contains sl then slotTable mode cb (acts sl) else [],
   (List.range 16).map fun sl => (acts sl).foldl (· + ·) 0)

/-- The slots that a member builds (R67). -/
def shareSlots (members : List Nat) (n : Nat) : List Nat :=
  let m := members.length
  let r := members.idxOf n
  let c := 16 / m
  (List.range c).map fun i => r * c + i

/-- A set of slot numbers as a mask. -/
def slotMask (l : List Nat) : BitVec 16 := BitVec.ofNat 16 ((l.map fun i => 2 ^ i).foldl (· + ·) 0)

/-- Issue of TBUILD and TMCAST (R68, R73, R136, R143, R179). A replayed TMCAST, or one of a part dispatched again, builds
every slot locally. The outlier map is judged before the token record, so that a step with both bad sets no RECORD_BAD: the manual
gives no order (notes/assumptions/50.md). -/
def buildBody (p k : Nat) (mcast : Bool) (e0 : LogEnt) (redo : Bool) (s0 : State) : Issued :=
  let x := s0.strand p k
  let e := buildEnt x e0 redo
  let w := e.word
  let mode := fld w 12 3
  let s := s0.endPass p k
  if x.suppressed e.tok then .go s
  else
    match s.joinGroup p k e (flag w 115) redo with
    | none => .wait .none_ s0
    | some s1 =>
      if (s1.strand p k).skipping e.tok then .go s1
      else
        let t := s.tile p
        let me := s.logOf p
        let solo := !mcast || redo || x.only.isSome
        let share := s.shareSet me
        let h := fld w 120 8
        if isV mode && (t.codebook (flag w 98)).loading then .wait .codebook s0
        else if !t.canClaim k then .wait .tbank s0
        else
          let res := if solo then [] else
            [need share.isSome 0x06, need (s.hitch h).alloc 0x06, need (t.canArrive k h) 0x0B]
          match s1.prep p k e (buildAccs x e) (buildChecks t e mcast ++ res) with
          | .bad st s' => .stop st s'
          | .hold s' => .wait .none_ (s0.modTile p fun t => { t with rereads := (s'.tile p).rereads })
          | .ok s2 =>
            match (if e.o2 = .none_ then some ([], 0) else outlierMap (t.opBytes x.base e.o2 256) (fld w 28 15)) with
            | none => .stop 0x0B s2
            | some (outl, mapId) =>
              match s2.getRecord p k e with
              | none => .stop 0x0B (s2.modTile p fun t => t.quantFlag k 4)
              | some r =>
                let slots := if solo then List.range 16 else shareSlots (share.getD (0, [])).2 me
                let b := buildSet t x.base e r outl slots
                let set := ((share.getD (0, [])).1, fld w 116 4)
                let bank : TableBank :=
                  { st := .building, owner := some k, mode := mode, mapId := BitVec.ofNat 16 mapId
                    present := if solo then 0 else slotMask slots
                    share := if solo then none else some (set.1, set.2)
                    slots := b.1, sums := b.2 }
                let s3 := (s2.modTile p fun t => t.setTbank (!t.row0) bank).modStrand p k fun x =>
                  { x with recs := Tab.put x.recs e.tok r }
                .go ((s3.pushUnit p 0 (if solo then { strand := k, uid := x.uid, ent := e } else
                  { strand := k, uid := x.uid, ent := e, wait := true, arrive := some (h, 1), set := set
                    out := slots.map fun sl => (sl, b.1.getD sl []) })).pumpBld p)

/-! ## Codebook load -/

/-- CBLOAD (R59, R103, R180). A load into an entry that an earlier CBLOAD on the builder loads starts when that one has completed
(R169). -/
def cbloadBody (p k : Nat) (e : LogEnt) (_ : Bool) (s0 : State) : Issued :=
  let s := s0.endPass p k
  let w := e.word
  let c := flag w 12
  let n := if flag w 29 then 2048 else 1024
  let x := s.strand p k
  let t := s.tile p
  let src := spadOpnd x (fld w 30 20)
  let reading := (t.unit 0).any fun y =>
    (opcodeOf y.ent.word == 1 || opcodeOf y.ent.word == 2) && isV (fld y.ent.word 12 3) && flag y.ent.word 98 == c
  let step : UStep := { strand := k, uid := x.uid, ent := { e with o1 := src } }
  if reading then .wait .codebook s0
  else
    match s.prep p k e [{ o := src, len := n, align := 64 }] [need (fld w 50 78 == 0) 0x0B] with
    | .bad st s' => .stop st s'
    | .hold s' => .wait .none_ s'
    | .ok s' => .go ((s'.modTile p fun t => if (t.loadsInto c).isEmpty then t.startLoad step else t).pushUnit p 0 step)

/-! ## Multicast, swap, timeouts -/

/-- A bank whose 16 slots are present becomes READY (R68). -/
def TableBank.settle (b : TableBank) : TableBank :=
  if b.st = .building ∧ b.present = 0xFFFF then { b with st := .ready } else b

/-- A table multicast packet, or a copy of it, reaches a tile (R70): taken into the shadow bank that is BUILDING for the same share set
and tag, else discarded with `MCAST_DROP`; it is acknowledged. A lost tile's router discards it (R379), a tile whose domain is not ON
refuses it (R29), and one marked bad is refused as a bus error (R362). -/
def execTableMulticastPacket (i : Nat) (s : State) : Ans :=
  .next <| match s.deliverable i with
  | some { dst := .tile p, body := .tableSlot share tag slot entries who, bad := bad, .. } =>
    let s1 := s.unsend i
    if (s.tile p).deadRouter then s1
    else if !s.spadOpen p then s1.ackTo (.tile p) who 0x0C
    else if bad then s1.ackTo (.tile p) who 0x01
    else
      let t := s1.tile p
      let b := t.shadow
      let s2 := if b.st = .building ∧ b.share = some (share, tag) then
          s1.setTile p (t.setTbank (!t.row0)
            { b with slots := b.slots.set slot entries, present := b.present ||| BitVec.ofNat 16 (2 ^ slot) }.settle)
        else s1.setTile p (t.arrayFlag 1)
      s2.ackTo (.tile p) who 0
  | _ => s

/-- Microseconds of `TILE_SET_TIMEOUT` (R71): 0 acts as 1. -/
def Tile.setLimitUs (t : Tile) : Nat := max 1 t.setLimit.toNat

/-- A wait of strand `k` that the limit of R71 bounds has lasted that long: of an LPASS for a multicast set that is still not complete,
or of a TMCAST for its share hitch since its arrival. -/
def State.setExpired (s : State) (p k : Nat) : Bool :=
  let t := s.tile p
  let x := t.strand k
  let late := fun (from_ : Nat) => decide (from_ + usTicks t.setLimitUs ≤ s.glb.time)
  (x.st == .waiting && x.reason == .mset && late x.waitFrom && t.shadow.owner == some k && t.shadow.st == .building)
    || (t.unit 0).any fun y => y.strand == k && y.wait && y.arrive.isNone && late y.since

/-- The limit of a wait for a multicast set, or for a share hitch, expires (R71). -/
def execSetTimeout (tile strand : Nat) (s : State) : Ans :=
  .next (if s.setExpired tile strand then (s.modTile tile fun t => t.arrayFlag 2).endTask tile strand 0x0F else s)

/-- Row 0 switches banks (R76): every index of the old pass has left, the shadow set is READY and the segment that carries
`SWAP` heads the array's queue. The old bank enters RIPPLE without an owner; the strand owns the new active bank. -/
def execTableSwap (tile : Nat) (s : State) : Ans :=
  .next (
    let t := s.tile tile
    match t.unit 1 with
    | u :: rest =>
      if !u.run && !u.skipped && t.shadow.st == .ready && t.shadow.owner == some u.strand
          && !(t.strand u.strand).skipping u.ent.tok && s.tileRuns tile then
        let t1 := t.setTbank t.row0 { t.active with st := .ripple, owner := none }
        let t2 := t1.setTbank (!t.row0) { t.shadow with st := .active }
        s.setTile tile ({ t2 with row0 := !t.row0, swapBusy := true }.setUnit 1 ({ u with run := true } :: rest))
      else s
    | [] => s)

/-- Row 31 has switched (R77): the old bank passes from RIPPLE to FREE, with mode and presence mask 0 (notes/assumptions/48.md). -/
def execRippleEnd (tile : Nat) (s : State) : Ans :=
  .next (
    let t := s.tile tile
    if t.swapBusy && s.tileRuns tile then
      let t1 := t.setTbank (!t.row0) {}
      s.setTile tile { t1 with swapBusy := false, row31 := t.row0 }
    else s)

end Sys2Proof.Machine
end

