-- ==== Sys2Proof/Machine/Streams.lean ====
section
/-! DEFINITION. Streams: descriptors (R192 to R194), SSTART and SWAIT (R197, R198), requests (R195, R196, R199 to R203),
and the responses and acknowledgements that come back (R173, R198, R204, R205, R457). -/

namespace Sys2Proof.Machine

/-! ## Descriptors -/

/-- A descriptor as it lies in memory (R192), with whether its reserved fields are zero (R14). -/
def descOf (b : List Byte) : Desc × Bool :=
  let w := fieldAt b 0 8
  ({ gaddr := bitsOf w 0 40, esize := bitsOf w 40 4, ndim := bitsOf w 44 3, dir := w.testBit 47, cls := bitsOf w 48 2,
     dbight := w.testBit 50, mcast := w.testBit 51, bight := bitsOf w 52 8, loc := fieldAt b 8 4,
     mgroup := fieldAt b 12 1 % 64
     count := (List.range 5).map fun i => fieldAt b (16 + 2 * i) 2
     stride := (List.range 5).map fun i => signedOf 32 (fieldAt b (32 + 4 * i) 4) },
   bitsOf w 60 4 == 0 && fieldAt b 12 1 / 64 == 0 && allZero (slice b 13 3) && allZero (slice b 26 6) && allZero (slice b 52 12))

/-- Element size. -/
def Desc.es (d : Desc) : Nat := 2 ^ d.esize
/-- Count of dimension `i`. -/
def Desc.cnt (d : Desc) (i : Nat) : Nat := d.count.getD i 0
/-- Stride of dimension `i`. -/
def Desc.st (d : Desc) (i : Nat) : Int := d.stride.getD i 0
/-- Total byte count (R194). -/
def Desc.total (d : Desc) : Nat := d.es * ((List.range (d.ndim + 1)).map d.cnt).foldl (· * ·) 1

/-- Offset of element `e` in the pattern, from dimension `i` upward (R193). -/
def Desc.walk (d : Desc) : Nat → Nat → Nat → Int
  | 0, _, _ => 0
  | fuel + 1, i, e => (e % d.cnt i : Nat) * d.st i + d.walk fuel (i + 1) (e / d.cnt i)

/-- Pattern offset of dense byte `m` (R193). -/
def Desc.pat (d : Desc) (m : Nat) : Int := d.walk (d.ndim + 1) 0 (m / d.es) + (m % d.es : Nat)

/-- Lowest offset, and end of the offsets, that the pattern reaches (R194). -/
def Desc.span (d : Desc) : Int × Int :=
  let l := (List.range (d.ndim + 1)).map fun i => (d.cnt i - 1 : Int) * d.st i
  (l.foldl (fun a v => a + min v 0) 0, l.foldl (fun a v => a + max v 0) 0 + d.es)

/-- The local side is the patterned one (R193). -/
def Desc.localPat (d : Desc) : Bool := (d.dbight && d.dir) || d.mcast

/-- The fields obey R192 and R193, the alignment rule of R194 and the multicast rules of R203, for a tile that is
(`src`) the source of the multicast group. -/
def Desc.ok (d : Desc) (src : Bool) : Bool :=
  let al := min d.es 64
  let used := List.range (d.ndim + 1)
  decide (d.esize ≤ 12) && decide (d.ndim ≤ 4) && decide (d.cls ≤ 1) && (!d.dir || d.cls == 0)
    && used.all (fun i => decide (1 ≤ d.cnt i))
    && (List.range 5).all (fun i => decide (i ≤ d.ndim) || (d.cnt i == 0 && d.st i == 0))
    && (d.dbight || d.bight == 0) && (!(d.dbight && !d.dir) || d.loc == 0) && (!(d.dbight && d.dir) || d.gaddr == 0)
    && (if d.mcast then src && d.dir && !d.dbight && decide (d.gaddr < 2 ^ 22) && d.gaddr % 64 == 0 else d.mgroup == 0)
    && d.gaddr % al == 0 && d.loc % al == 0 && used.all (fun i => d.st i % (al : Int) == 0)
    && decide (d.total ≤ 2 ^ 32 - 1)

/-- The local extent lies in a window of `size` bytes (R194, R165). -/
def Desc.fits (d : Desc) (size : Nat) : Bool :=
  if d.localPat then decide (0 ≤ (d.loc : Int) + d.span.1) && decide ((d.loc : Int) + d.span.2 ≤ size)
  else if d.dbight then true
  else decide (d.loc + d.total ≤ size)

/-- The 64-byte block of dense byte `m`: of the global side, or of the destination of a bight or multicast store (R196). -/
def Desc.block (d : Desc) (m : Nat) : Int :=
  if d.localPat then (((if d.mcast then d.gaddr else 0) + m) / 64 : Nat) else ((d.gaddr : Int) + d.pat m) / 64

/-- Bytes of the request that starts at dense byte `m`, at most to the end of a slot of `slot` bytes (0: none). -/
def Desc.run (d : Desc) (slot m : Nat) : Nat → Nat → Nat
  | 0, n => n
  | fuel + 1, n =>
    if m + n < d.total ∧ d.block (m + n) = d.block m ∧ (slot = 0 ∨ (m + n) / slot = m / slot) then d.run slot m fuel (n + 1)
    else n

/-! ## Contexts -/

/-- Context `c` of a tile. -/
def Tile.ctx (t : Tile) (c : Nat) : Option StreamCtx := Tab.get none t.ctxs c
/-- Write context `c`. -/
def Tile.setCtx (t : Tile) (c : Nat) (x : Option StreamCtx) : Tile := { t with ctxs := Tab.put t.ctxs c x }
/-- The contexts in use. -/
def Tile.ctxList (t : Tile) : List StreamCtx := (List.range 16).filterMap t.ctx

/-- Everything the context will request has been requested. -/
def StreamCtx.spent (c : StreamCtx) : Bool := c.stopped || decide (c.desc.total ≤ c.pos)

/-- Free context `c` once its stream is complete, or stopped with nothing outstanding (R198, R173). -/
def Tile.settleCtx (t : Tile) (c : Nat) : Tile :=
  match t.ctx c with
  | some x => if x.spent ∧ x.out = 0 ∧ x.unacked = 0 then t.setCtx c none else t
  | none => t

/-- A stream of the strand with ID `sid` is running. -/
def Tile.streaming (t : Tile) (k sid : Nat) : Bool := t.ctxList.any fun c => c.strand == k && c.sid == sid && !c.stopped

/-- Slot size in bytes of the bight a stream uses; 0 without one. -/
def State.slotBytes (s : State) (d : Desc) : Nat :=
  if d.dbight then (match s.bightDecl d.bight with | some b => b.slotsz * 64 | none => 0) else 0

/-- The address that a failing request of the stream captures (R457), for dense byte `m`. -/
def State.streamAddr (s : State) (c : StreamCtx) (m : Nat) : Nat :=
  let d := c.desc
  if d.mcast then (d.gaddr + m) % 2 ^ 22
  else if d.dbight && d.dir then
    match s.bightDecl d.bight with
    | none => 0
    | some b =>
      let sz := b.slotsz * 64
      s.consumerAddr b (b.slotOff (((c.fills[m / sz]?).map (·.slot)).getD 0) + m % sz)
  else
    let a := (d.gaddr : Int) + d.pat m
    ((if d.dir then a else a / 64 * 64) % 2 ^ 40).toNat

/-! ## SSTART and SWAIT -/

/-- The statuses of a descriptor at SSTART (R194, R197, R203, R221, R455), its local extent apart. -/
def State.descChecks (s : State) (p k sid : Nat) (d : Desc) (clean : Bool) : List Nat :=
  let src := match Tab.get none s.rig.mcast d.mgroup with
    | some g => g.src == s.logOf p
    | none => false
  let me := s.me p
  let bight := if !d.dbight then [] else
    match s.bightDecl d.bight with
    | none => [0x06]
    | some b => [need ((b.rank me).isSome && (d.dir || b.consumer me)) 0x0B, need (s.isMember b.cnode) 0x0D]
  [need (clean && d.ok src) 0x0B, need (!(s.tile p).streaming k sid) 0x0B] ++ bight

/-- SSTART (R194, R197). A descriptor that is refused ends the task as its stream does, with a capture (R455, R457); the manual names no
address for one refused before its first request, and the model captures that request's (notes/assumptions/57.md). -/
def sstartBody (p k : Nat) (e : LogEnt) (_ : Bool) (s0 : State) : Issued :=
  let w := e.word
  let x := s0.strand p k
  let o := spadOpnd x (fld w 12 20)
  let sid := fld w 32 3
  match s0.prep p k e [{ o := o, len := 64, align := 64 }] [need (fld w 35 93 == 0) 0x0B] with
  | .bad st s => .stop st (s.endPass p k)
  | .hold s => .wait .none_ s
  | .ok s =>
    let dc := descOf ((s.tile p).opBytes x.base o 64)
    let d := dc.1
    let chk := worst (s.descChecks p k sid d dc.2)
    let fit := d.fits x.size
    let st := worst [chk, need fit 0x02]
    if st ≠ 0 then
      let at_ := s.streamAddr { strand := k, uid := x.uid, sid := sid, desc := d } 0
      let s1 := s.modTile p fun t => t.streamFail k sid st (st == 0x02) at_
      .stop st ((if fit then s1 else s1.modTile p fun t => t.boundFail k (opcodeOf w) d.loc (!d.dir)).endPass p k)
    else
      match (List.range 16).find? fun c => ((s.tile p).ctx c).isNone with
      | none => .wait .sctx s0
      | some c => .go ((s.endPass p k).modTile p fun t => t.setCtx c (some { strand := k, uid := x.uid, sid := sid, desc := d }))

/-- SWAIT (R198). -/
def swaitBody (p k : Nat) (e : LogEnt) (_ : Bool) (s : State) : Issued :=
  let w := e.word
  if fld w 20 108 ≠ 0 then .stop 0x0B s
  else if (List.range 8).any fun i => (fld w 12 8).testBit i && (s.tile p).streaming k i then .wait .stream s
  else .go (s.endPass p k)

/-! ## Failures -/

/-- The stream of context `c` ends its task with a status (R195, R204, R205, R457). -/
def State.streamStop (s : State) (p c st : Nat) (local_ : Bool) (m : Nat) : State :=
  match (s.tile p).ctx c with
  | none => s
  | some x =>
    let s1 := s.modTile p fun t =>
      (t.streamFail x.strand x.sid st local_ (s.streamAddr x m)).setCtx c (some { x with stopped := true })
    s1.refused p x.strand st

/-! ## Requests -/

/-- Claim the slot of ordinal `o` of a bight stream, if it has not been claimed (R201): none without a credit. -/
def State.streamSlot (s : State) (p c : Nat) (x : StreamCtx) (b : BightDecl) (o : Nat) : Option (State × StreamCtx) :=
  if o < x.fills.length then some (s, x)
  else
    let sz := b.slotsz * 64
    match s.claimSlot p x.desc.bight b ((b.rank (s.me p)).getD 0) x.uid (some x.sid) with
    | none => none
    | some (s1, j) =>
      let y := { x with fills := x.fills ++ [{ slot := j, pending := min sz (x.desc.total - o * sz) }] }
      some ((s1.modStrand p x.strand fun z => { z with claims := z.claims ++ [{ bight := x.desc.bight, slot := j, epi := false }] }).modTile p
        (fun t => t.setCtx c (some y)), y)

/-- `n` bytes of the slot of ordinal `o` have landed, or left; with the last of them the slot is FULL (R201, R202). -/
def State.slotProgress (s : State) (p c o n : Nat) (direct : Bool) : State :=
  match (s.tile p).ctx c with
  | none => s
  | some x =>
    match x.fills[o]?, s.bightDecl x.desc.bight with
    | some f, some b =>
      let f' := { f with pending := f.pending - n }
      let s1 := s.modTile p fun t => t.setCtx c (some { x with fills := x.fills.set o f' })
      if f'.pending = 0 then
        (s1.slotMsg p .full x.desc.bight b f.slot x.uid direct (some x.sid)).modStrand p x.strand fun z =>
          { z with claims := z.claims.filter fun y => !(y.bight == x.desc.bight && y.slot == f.slot && !y.epi) }
      else s1
    | _, _ => s

/-- The stream engine moves context `c` on by `n` dense bytes with `reads` reads and `writes` writes outstanding. -/
def State.streamAdvance (s : State) (p c n reads writes : Nat) : State :=
  match (s.tile p).ctx c with
  | none => s
  | some x =>
    (s.modTile p fun t =>
      { t.setCtx c (some { x with pos := x.pos + n, out := x.out + reads, unacked := x.unacked + writes }) with
        rr := c, outReads := t.outReads + reads }).modStrand p x.strand fun z =>
        { z with outRd := z.outRd + reads, unacked := z.unacked + writes }

/-- A load request of one 64-byte block (R196, R200). -/
def State.streamLoad (s : State) (p c : Nat) (x : StreamCtx) (n : Nat) : State :=
  let d := x.desc
  let z := s.strand p x.strand
  let a := ((d.gaddr : Int) + d.pat x.pos) / 64 * 64
  match s.taskTarget z.lay z.func a false with
  | .error st => s.streamStop p c st false x.pos
  | .ok tg =>
    let who := Requester.stream p x.strand x.uid c x.pos n
    let s1 := s.streamAdvance p c n 1 0
    let rd := fun (addr f : Nat) => Body.read addr 64 f (d.cls == 1) who
    match tg with
    | .dram addr f => s1.send { src := .tile p, dst := .chan (s.exp.locate addr).1, vc := .req, body := rd addr f }
    | .spad t off => s1.send { src := .tile p, dst := s.tileEnd t, vc := .req, body := .spadRead off 64 who }
    | .peer q => match s.routeTo q with
      | some port => s1.send { src := .tile p, dst := .port port, vc := .req, body := rd a.toNat z.func }
      | none => s1
    | .host =>
      let dst := if d.cls = 1 then Endpoint.chan (s.hostChan a.toNat).1 else hostSide a.toNat
      s1.send { src := .tile p, dst := dst, vc := .req, body := rd a.toNat z.func }

/-- The bytes of a store request with their global addresses or destination offsets. -/
def Tile.storeBytes (t : Tile) (base : Nat) (x : StreamCtx) (dst : Nat → Nat) (n : Nat) : List (Nat × Byte) :=
  (List.range n).map fun i =>
    let m := x.pos + i
    let off : Int := if x.desc.localPat then (x.desc.loc : Int) + x.desc.pat m else x.desc.loc + m
    (dst m, t.byte (base + off.toNat))

/-- The local words of a store request. -/
def Desc.localWords (d : Desc) (base m n : Nat) : List Nat :=
  ((List.range n).map fun i =>
    let off : Int := if d.localPat then (d.loc : Int) + d.pat (m + i) else d.loc + (m + i)
    (base + off.toNat) / 8).foldl NSet.add []

/-- A store request (R195, R196, R202, R203): its packets, or the status that refuses it. -/
def State.streamStore (s : State) (p c : Nat) (x : StreamCtx) (n : Nat) : State :=
  let d := x.desc
  let z := s.strand p x.strand
  let t := s.tile p
  let who := Requester.stream p x.strand x.uid c x.pos n
  let me := some (s.me p)
  if d.mcast then
    let data := t.storeBytes z.base x (fun m => d.gaddr + m) n
    let dests := match Tab.get none s.rig.mcast d.mgroup with | some g => g.dest | none => []
    let mine := fun n => z.func == 0 || (match Tab.get none s.rig.place n with | some (l, _) => l == z.lay | none => false)
    let good := dests.filter mine
    let s1 := (s.streamAdvance p c n 0 good.length).sendMany (.tile p) good .pst (.spadWrite data me who)
    if good.length = dests.length then s1 else s1.streamStop p c 0x0C false x.pos
  else if d.dbight then
    match s.bightDecl d.bight with
    | none => s.streamStop p c 0x06 false x.pos
    | some b =>
      let sz := b.slotsz * 64
      let j := ((x.fills[x.pos / sz]?).map (·.slot)).getD 0
      let data := (t.storeBytes z.base x (fun _ => 0) n).map (·.2)
      let r := s.slotWrite p b (b.slotOff j + x.pos % sz) 64 data who
      (r.1.streamAdvance p c n 0 r.2).slotProgress p c (x.pos / sz) n false
  else
    let a0 := (d.gaddr : Int) + d.pat x.pos
    match s.taskTarget z.lay z.func a0 true with
    | .error st => s.streamStop p c st false x.pos
    | .ok tg =>
      let shift := fun (toA : Nat) => t.storeBytes z.base x (fun m => (((d.gaddr : Int) + d.pat m - a0) + toA).toNat) n
      let s1 := s.streamAdvance p c n 0 1
      let wr := fun (dst : Endpoint) (toA f : Nat) =>
        s1.send { src := .tile p, dst := dst, vc := .pst, body := .write toA (shift toA) f me false who }
      match tg with
      | .dram addr f => wr (.chan (s.exp.locate addr).1) addr f
      | .spad n off => s1.send { src := .tile p, dst := s.tileEnd n, vc := .pst, body := .spadWrite (shift off) me who }
      | .peer q => match s.routeTo q with
        | some port => wr (.port port) a0.toNat z.func
        | none => s1
      | .host => wr (hostSide a0.toNat) a0.toNat z.func

/-- What context `c` needs of its bight before a request (R201, R202, R455): none when it waits; a status when the function may not send
to the consumer's node (R340) or the node is out of reach (R221); else the state with the slot claimed. -/
def State.ctxSlot (s : State) (p c : Nat) (x : StreamCtx) : Option (Except Nat (State × StreamCtx)) :=
  if !x.desc.dbight then some (.ok (s, x))
  else
    match s.bightDecl x.desc.bight with
    | none => none
    | some b =>
      match worst [s.peerRefusal (s.strand p x.strand).func b.cnode, need (s.isMember b.cnode) 0x0D] with
      | 0 => (s.streamSlot p c x b (x.pos / s.slotBytes x.desc)).map .ok
      | st => some (.error st)

/-- The bytes of external memory, the host tier included, that a stream's next request of `n` bytes moves (R301): a load fetches its
whole block (R196); a bight store, a multicast store and a request to a scratchpad or a peer move none. -/
def State.extBytes (s : State) (z : Strand) (x : StreamCtx) (n : Nat) : Nat :=
  if x.desc.localPat then 0
  else
    match s.taskTarget z.lay z.func ((x.desc.gaddr : Int) + x.desc.pat x.pos) x.desc.dir with
    | .ok (.dram _ _) => if x.desc.dir then n else 64
    | .ok .host => if x.desc.dir then n else 64
    | _ => 0

/-- Context `c` issues its next request; none when it is passed over (R199): nothing left, no credit, no read place, no bandwidth of its
group (R301), or no room in the strand's count of acknowledgements. -/
def State.ctxRequest (s : State) (p c : Nat) : Option State :=
  match (s.tile p).ctx c with
  | none => none
  | some x =>
    let d := x.desc
    let z := s.strand p x.strand
    if x.spent then none
    else if !d.dir && decide (64 ≤ (s.tile p).outReads) then none
    else if d.dir && !z.ackRoom (if d.mcast then (match Tab.get none s.rig.mcast d.mgroup with | some g => g.dest.length | none => 0) else 1) then none
    else
      let sz := s.slotBytes d
      let n := d.run sz x.pos (d.total - x.pos) 0
      match s.ctxSlot p c x with
      | none => none
      | some (.error st) => some (s.streamStop p c st false x.pos)
      | some (.ok (s1, y)) =>
        match s1.spend p (s.extBytes z x n) with
        | none => none
        | some s2 =>
          if !d.dir then some (s2.streamLoad p c y n)
          else
            let t := s2.tile p
            let ws := d.localWords z.base x.pos n
            if ws.any fun w => t.wordEcc w == .uncorrectable then
              some (ws.foldl (fun a w => a.modTile p fun t => t.askReread (8 * w) 8) s1)
            else
              match ws.find? fun w => t.wordEcc w == .poisoned with
              | some w =>
                some ((s1.logEv (srcTile p) .poison (t.locOf w) (some (s.tagOf z)) (some 1)).streamStop p c 0x01 true x.pos)
              | none => some ((ws.foldl (fun a w => a.noteCe p (8 * w) 8) s2).streamStore p c y n)

/-- The stream engine of a tile issues one request, serving the contexts round-robin after the one served last (R199). -/
def execStreamRequest (tile : Nat) (s : State) : Ans :=
  .next (
    if !s.tileRuns tile then s
    else
      let order := (List.range 16).map fun i => ((s.tile tile).rr + 1 + i) % 16
      match order.findSome? fun c => (s.ctxRequest tile c).map fun s' => (c, s') with
      | some (c, s') => s'.modTile tile fun t => { t with rr := c }.settleCtx c
      | none => s)

/-! ## Responses and acknowledgements -/

/-- The bytes a load's response delivers: scratchpad offsets and the block's bytes (R196, R201). -/
def State.landing (s : State) (p : Nat) (x : StreamCtx) (pos n : Nat) (data : List Byte) : List (Nat × Byte) :=
  let d := x.desc
  let base := (s.strand p x.strand).base
  (List.range n).map fun i =>
    let m := pos + i
    let b := data.getD (((d.gaddr : Int) + d.pat m) % 64).toNat 0
    if d.dbight then
      match s.bightDecl d.bight with
      | some bd =>
        let sz := bd.slotsz * 64
        (bd.slotOff (((x.fills[m / sz]?).map (·.slot)).getD 0) + m % sz, b)
      | none => (0, b)
    else (base + d.loc + m, b)

/-- A read response reaches the tile that asked (R173, R200, R201). Responses of a stopped stream are discarded; one whose payload is
marked bad is a bus error (R362). -/
def execReadResponse (i : Nat) (s : State) : Ans :=
  .next <| match s.deliverable i with
  | some { dst := .tile p, body := .response data st0 (.stream tl k uid c pos n), bad := bad, .. } =>
    let st := if st0 = 0 ∧ bad then 1 else st0
    if p ≠ tl then s.unsend i
    else
      match (s.tile p).ctx c with
      | none => s.unsend i
      | some x =>
        if x.uid ≠ uid then s.unsend i
        else
          let land := s.landing p x pos n data
          if !x.stopped && st == 0 && (s.tile p).writeBlocked land then s.modTile p fun t => t.askRereadWrite land
          else
            let s1 := (((s.unsend i).modTile p fun t =>
                { t.setCtx c (some { x with out := x.out - 1 }) with outReads := t.outReads - 1 }).modStrand p k fun z =>
                { z with outRd := z.outRd - 1 })
            let s2 := if x.stopped then s1
              else if st ≠ 0 then s1.streamStop p c st false pos
              else
                let r := s1.spadWrite p (some (s.me p)) (s.tagOf (s.strand p k)) land
                if r.2 ≠ 0 then r.1.streamStop p c r.2 true pos
                else if x.desc.dbight then r.1.slotProgress p c (pos / (s.slotBytes x.desc)) n true
                else r.1
            s2.modTile p fun t => t.settleCtx c
  | _ => s

/-- The task number a packet's requester names, with its tile and strand. -/
def State.ackStrand (s : State) (who : Requester) : Option (Nat × Nat × Nat) :=
  match who with
  | .stream t k uid _ _ _ => some (t, k, uid)
  | .step t k uid => some (t, k, uid)
  | .msg t uid _ => ((List.range 8).find? fun k => (s.strand t k).uid == uid && (s.strand t k).st != .free).map fun k => (t, k, uid)
  | _ => none

/-- A slot message of strand `k` of tile `p` is refused (R204): one of a stream is captured as its failure (R455, R457). -/
def State.msgRefused (s : State) (p k st : Nat) (stream : Option (Nat × Nat)) : State :=
  let x := s.strand p k
  (match stream with
   | some (sid, a) => if x.st = StrandSt.ending ∧ x.status ≠ 0 then s else s.modTile p fun t => t.streamFail k sid st false a
   | none => s).refused p k st

/-- An acknowledgement reaches the writer (R204, R205): the strand and the stream are owed one less, and a refusal ends the
writer's task. -/
def State.takeAck (s : State) (st : Nat) (who : Requester) : State :=
  match s.ackStrand who with
  | none => s
  | some (p, k, uid) =>
    let x := s.strand p k
    if x.uid ≠ uid ∨ x.st = .free then s
    else
      let s1 := match who with
        | .msg _ _ _ => s
        | _ => s.modStrand p k fun z => { z with unacked := z.unacked - 1 }
      let s2 := match who with
        | .stream _ _ _ c pos _ =>
          match (s1.tile p).ctx c with
          | some y =>
            if y.uid = uid then
              let a := s1.modTile p fun t => t.setCtx c (some { y with unacked := y.unacked - 1 })
              let b := if st ≠ 0 ∧ (x.st ≠ StrandSt.ending ∨ x.status = 0) then a.streamStop p c st false pos else a
              b.modTile p fun t => t.settleCtx c
            else s1
          | none => s1
        | .msg _ _ stream => if st ≠ 0 then s1.msgRefused p k st stream else s1
        | _ => if st ≠ 0 then s1.refused p k st else s1
      (s2.pumpSyn p).pumpBld p

/-- A write acknowledgement reaches the tile. -/
def execWriteAck (i : Nat) (s : State) : Ans :=
  .next <| match s.deliverable i with
  | some { dst := .tile _, body := .ack st who, .. } => (s.unsend i).takeAck st who
  | _ => s

end Sys2Proof.Machine
end

