-- ==== Sys2Proof/Machine/Deliver.lean ====
section
/-! DEFINITION. Packets that reach a tile: scratchpad writes and reads (R26, R29, R158, R204, R219, R363 to R369), slot
messages and credits (R213, R215). -/

namespace Sys2Proof.Machine

/-- The tag of the task a requester works for; 0 for none. -/
def State.tagWho (s : State) (who : Requester) : Word :=
  match s.ackStrand who with
  | some (p, k, _) => s.tagOf (s.strand p k)
  | none => 0

/-- A write reaches the scratchpad of tile `p` (R26, R29, R368, R369). -/
def State.arriveWrite (s : State) (p : Nat) (data : List (Nat × Byte)) (prod : Option (Nat × Nat)) (who : Requester) : State :=
  let r := s.spadWrite p prod (s.tagWho who) data
  r.1.ackTo (.tile p) who r.2

/-- A scratchpad write packet, or a multicast packet's copy, reaches a tile: discarded by the router of a lost tile (R379), refused by a tile whose
domain is not ON (R29), refused with status 0x01 when its payload is marked bad (R362), held while a word is read again (R363) as the
routers deliver its other copies (R27), else stored or refused word by word. -/
def execScratchpadWrite (i : Nat) (s : State) : Ans :=
  .next <| match s.deliverable i with
  | some { dst := .tile p, body := .spadWrite data prod who, bad := bad, .. } =>
    if (s.tile p).deadRouter then s.unsend i
    else if !s.spadOpen p then (s.unsend i).ackTo (.tile p) who 0x0C
    else if bad then (s.unsend i).ackTo (.tile p) who 0x01
    else if (s.tile p).writeBlocked data then (s.modTile p fun t => t.askRereadWrite data).passBy i
    else (s.unsend i).arriveWrite p data prod who
  | _ => s

/-- A read packet reaches the scratchpad of its tile (R29, R158, R364, R366). -/
def execScratchpadRead (i : Nat) (s : State) : Ans :=
  .next <| match s.deliverable i with
  | some { dst := .tile p, body := .spadRead off len who, .. } =>
    let t := s.tile p
    if t.deadRouter then s.unsend i
    else if !s.spadOpen p ∨ t.usable < off + len then (s.unsend i).respond (.tile p) who [] 0x0C
    else if t.blocked off len then s.modTile p fun t => t.askReread off len
    else
      match (wordsOf off len).find? fun w => t.wordEcc w == .poisoned with
      | some w =>
        ((s.unsend i).logEv (srcTile p) .poison (t.locOf w) (some (s.tagWho who)) (some 1)).respond (.tile p) who [] 0x01
      | none => ((s.unsend i).noteCe p off len).respond (.tile p) who (t.bytes off len) 0
  | _ => s

/-- A slot message reaches the consumer tile (R215) and is acknowledged where its sender waits for it (R353). -/
def State.takeSlotMsg (s : State) (i : Nat) (want : SlotMsg) : State :=
  match s.deliverable i with
  | some { dst := .tile p, body := .slot m b j prod uid who, .. } =>
    if m ≠ want then s
    else if (s.tile p).deadRouter then s.unsend i
    else if !s.spadOpen p then (s.unsend i).ackTo (.tile p) who 0x0C
    else ((s.unsend i).slotApply m b j prod uid).ackTo (.tile p) who 0
  | _ => s

/-- CLAIM: an EMPTY slot becomes FILLING. -/
def execClaim (i : Nat) (s : State) : Ans := .next (s.takeSlotMsg i .claim)
/-- FULL: a FILLING slot becomes FULL. -/
def execFullUpdate (i : Nat) (s : State) : Ans := .next (s.takeSlotMsg i .full)
/-- ABANDON: a FILLING slot becomes EMPTY and its credit returns (R220). -/
def execAbandon (i : Nat) (s : State) : Ans := .next (s.takeSlotMsg i .abandon)

/-- A credit comes back to a producer (R213). -/
def execCreditReturn (i : Nat) (s : State) : Ans :=
  .next <| match s.deliverable i with
  | some { dst := .tile p, body := .credit b r, .. } =>
    if (s.tile p).deadRouter then s.unsend i
    else
      match s.bightDecl b with
      | some d => (s.unsend i).modBight b fun y => { y with credit := Tab.put y.credit r (min d.depth (s.credit b d r + 1)) }
      | none => s.unsend i
  | _ => s

end Sys2Proof.Machine
end

