-- ==== Sys2Proof/Machine/Codec.lean ====
section
/-! DEFINITION. Code tables and coded data: canonical codes (R324), streams (R325), BF16X and U8E (R326, R327, R348), and
the damage checks (R333). -/

namespace Sys2Proof.Machine

/-! ## Tables -/

/-- Code length of symbol `s` (R324). -/
def codeLen (tbl : List Byte) (s : Nat) : Nat :=
  let b := (tbl.getD (s / 2) 0).toNat
  if s % 2 = 0 then b % 16 else b / 16

/-- A table is valid (R324): some length is not zero, and the Kraft sum is at most 1. -/
def tableValid (tbl : List Byte) : Bool :=
  let ls := ((List.range 256).map (codeLen tbl)).filter (· != 0)
  !ls.isEmpty && decide ((ls.map fun l => 2 ^ (15 - l)).foldl (· + ·) 0 ≤ 2 ^ 15)

/-- A symbol's code. -/
structure Code where
  sym  : Nat
  len  : Nat
  bits : Nat
deriving DecidableEq, Repr

/-- The canonical codes of a table, by length and then symbol (R324). -/
def canonCodes (tbl : List Byte) : List Code :=
  ((List.range 15).foldl (fun (a : Nat × List Code) i =>
    let l := i + 1
    let syms := (List.range 256).filter fun s => codeLen tbl s == l
    (2 * (a.1 + syms.length), a.2 ++ syms.zipIdx.map fun e => { sym := e.1, len := l, bits := a.1 + e.2 })) (0, [])).2

/-! ## Streams -/

/-- The bits of a code, most significant first (R325). -/
def Code.emit (c : Code) : List Bool := (List.range c.len).map fun i => c.bits.testBit (c.len - 1 - i)

/-- The stream of a list of symbols; none when a symbol has no code (R323). -/
def encodeSyms (codes : List Code) : List Nat → Option (List Bool)
  | [] => some []
  | s :: t =>
    match codes.find? fun c => c.sym == s, encodeSyms codes t with
    | some c, some r => some (c.emit ++ r)
    | _, _ => none

/-- Stream bits of bytes (R325): bit k is bit k mod 8 of byte k ÷ 8. -/
def streamBits (l : List Byte) : List Bool := l.flatMap fun b => (List.range 8).map fun i => b.getLsbD i

/-- The bytes of stream bits, zero bits filling the last. -/
def streamBytes (l : List Bool) : List Byte :=
  (List.range ((l.length + 7) / 8)).map fun i =>
    BitVec.ofNat 8 (((List.range 8).map fun j => if l.getD (8 * i + j) false then 2 ^ j else 0).foldl (· + ·) 0)

/-- Read one symbol (R325): the first prefix that is a code. Failures are the kinds of R333: 3 fifteen bits match no code,
4 the code runs beyond the space, 5 the space has ended. -/
def readSym (codes : List Code) : Nat → Nat → Nat → List Bool → Except Nat (Nat × List Bool)
  | 0, _, _, _ => .error 3
  | _ + 1, l, _, [] => .error (if l = 0 then 5 else 4)
  | n + 1, l, acc, b :: t =>
    let acc' := 2 * acc + (if b then 1 else 0)
    match codes.find? fun c => c.len == l + 1 && c.bits == acc' with
    | some c => .ok (c.sym, t)
    | none => readSym codes n (l + 1) acc' t

/-- Read `n` symbols; the rest of the space is zero (6, R333). -/
def readSyms (codes : List Code) : Nat → List Bool → Except Nat (List Nat)
  | 0, l => if l.any id then .error 6 else .ok []
  | n + 1, l =>
    match readSym codes 15 0 0 l with
    | .error k => .error k
    | .ok (s, t) =>
      match readSyms codes n t with
      | .error k => .error k
      | .ok r => .ok (s :: r)

/-- Symbols as bytes. -/
def symBytes (l : List Nat) : List Byte := l.map (BitVec.ofNat 8)

/-! ## Values -/

/-- Sign and fraction bytes of BF16 values in little-endian pairs (R326). -/
def bfRaw (l : List Byte) : List Byte :=
  (List.range (l.length / 2)).map fun v => (l.getD (2 * v + 1) 0 &&& 0x80#8) ||| (l.getD (2 * v) 0 &&& 0x7F#8)

/-- Exponents of BF16 values. -/
def bfExp (l : List Byte) : List Nat :=
  (List.range (l.length / 2)).map fun v => (l.getD (2 * v + 1) 0).toNat % 128 * 2 + (l.getD (2 * v) 0).toNat / 128

/-- BF16 values of sign and fraction bytes and exponents (R326). -/
def bfJoin (raw : List Byte) (exps : List Nat) : List Byte :=
  (raw.zip exps).flatMap fun e =>
    let v := e.1.toNat / 128 * 2 ^ 15 + e.2 * 2 ^ 7 + e.1.toNat % 128
    leBytes 2 v

/-- A coded BF16X space of `n` values. -/
def bfEncode (tbl : List Byte) (l : List Byte) : Option (List Byte) :=
  (encodeSyms (canonCodes tbl) (bfExp l)).map fun b => bfRaw l ++ streamBytes b

/-- Decode a BF16X space of `n` values. -/
def bfDecode (tbl : List Byte) (n : Nat) (l : List Byte) : Except Nat (List Byte) :=
  match readSyms (canonCodes tbl) n (streamBits (l.drop n)) with
  | .ok e => .ok (bfJoin (l.take n) e)
  | .error k => .error k

/-- Every second byte from place `i`. -/
def everyOther (i : Nat) (l : List Byte) : List Byte := (List.range (l.length / 2)).map fun v => l.getD (2 * v + i) 0

/-! ## Blocks of 512 bytes -/

/-- The sectors of a coded block, filled with zeros (R326, R327). -/
def padSectors (l : List Byte) : List Byte := l ++ List.replicate ((32 - l.length % 32) % 32) 0

/-- A block coded under its class (R323): none when a symbol has no code or it does not fit 14 sectors. -/
def blockEncode (cls : Nat) (tbl l : List Byte) : Option (List Byte) :=
  let c := if cls = 1 then bfEncode tbl l
    else if cls = 2 then
      let codes := canonCodes tbl
      let nums := fun (x : List Byte) => x.map (·.toNat)
      match encodeSyms codes (nums (everyOther 0 l)), encodeSyms codes (nums (everyOther 1 l)) with
      | some b0, some b1 =>
        let s0 := streamBytes b0
        some (leBytes 2 s0.length ++ s0 ++ streamBytes b1)
      | _, _ => none
    else none
  match c with
  | some x => if x.length ≤ 448 then some (padSectors x) else none
  | none => none

/-- A CODED block of `t` sectors decoded under the checks of R333; a failure carries its kind, the first in the order of
the checks over the block's streams. -/
def blockDecode (cls : Nat) (tbl : List Byte) (t : Nat) (l : List Byte) : Except Nat (List Byte) :=
  if cls = 1 then (if t < 9 then .error 1 else bfDecode tbl 256 l)
  else if cls = 2 then
    if t < 3 then .error 1
    else
      let l0 := fieldAt l 0 2
      if l0 < 32 ∨ 32 * t < 2 + l0 + 32 then .error 2
      else
        let codes := canonCodes tbl
        match readSyms codes 256 (streamBits (slice l 2 l0)), readSyms codes 256 (streamBits (l.drop (2 + l0))) with
        | .ok a, .ok b => .ok ((a.zip b).flatMap fun e => [BitVec.ofNat 8 e.1, BitVec.ofNat 8 e.2])
        | .error k, .ok _ => .error k
        | .ok _, .error k => .error k
        | .error k, .error j => .error (min k j)
  else .error 1

/-! ## Frame payloads of 256 bytes (R348) -/

/-- A payload coded under its class, if shorter than 256 bytes. -/
def payloadEncode (cls : Nat) (tbl l : List Byte) : Option (List Byte) :=
  let c := if cls = 1 then bfEncode tbl l
    else if cls = 2 then (encodeSyms (canonCodes tbl) (l.map (·.toNat))).map streamBytes
    else none
  match c with
  | some x => if x.length < 256 then some x else none
  | none => none

/-- A coded payload decoded, its length being the space; TAGCLASS for a class that codes nothing, LENGTH for a BF16X
payload with no room for its first 128 bytes. -/
def payloadDecode (cls : Nat) (tbl l : List Byte) : Except Nat (List Byte) :=
  if cls = 1 then (if l.length < 128 then .error 4 else bfDecode tbl 128 l)
  else if cls = 2 then
    match readSyms (canonCodes tbl) 256 (streamBits l) with
    | .ok a => .ok (symBytes a)
    | .error k => .error k
  else .error 1

end Sys2Proof.Machine
end

