-- ==== Sys2Proof/Machine/ExtMem.lean ====
section
/-! DEFINITION. External memory: blocks as they are stored (R318 to R323, R330), the checks of a read (R332, R333), partial
writes and gather buffers (R329), and the reads and writes of the scheduler, the service controller and the host (R316,
R437). -/

namespace Sys2Proof.Machine

/-! ## Blocks -/

/-- The block of a device address. -/
def blockOf (a : Nat) : Nat := a / 512 * 512

/-- Code table `i`; a table that has not been loaded has no codes. -/
def Expander.tbl (e : Expander) (i : Nat) : List Byte := Tab.get (List.replicate 128 0) e.tables i

/-- Class of the blocks at a DRAM-range address (R323). -/
def State.classAt (s : State) (a : Nat) : Nat := match s.dramRegion a with
  | some r => r.cls
  | none => 0
/-- Code table of the blocks at a DRAM-range address. -/
def State.tableAt (s : State) (a : Nat) : Nat := match s.dramRegion a with
  | some r => r.table
  | none => 0
/-- The address lies in an inline-ECC region (R332). -/
def State.eccAt (s : State) (a : Nat) : Bool := match s.dramRegion a with
  | some r => r.ecc
  | none => false
/-- The function whose key encrypts the block at `a` (R330). -/
def State.keyFuncAt (s : State) (a : Nat) : Nat := match s.dramRegion a with
  | some r => r.func
  | none => 0

/-- Encrypt or decrypt the stored bytes of the block at device address `a` (R330): plaintext without an enabled key. -/
def State.crypt (s : State) (decrypt : Bool) (a : Nat) (l : List Byte) : List Byte :=
  let f := s.keyFuncAt a
  if s.exp.keyEn.getLsbD f then
    let k := leBytes 32 (Tab.get (0 : BitVec 256) s.exp.keys f).toNat
    xts decrypt (k.take 16) (k.drop 16) (a / 512) l
  else l

/-- The tag of local block `b` of a channel (R321). -/
def Chan.tag (c : Chan) (b : Nat) : Nat := Tab.get 0 c.tags b

/-- Where the tag of local block `b` lies (R321): the local offset of its byte in the tag area, and the nibble of that byte. -/
def Expander.tagPlace (e : Expander) (b : Nat) : Nat × Nat := (e.below + b / 2, b % 2)

/-- The byte at local offset `o` of a channel as its controller reads it: of the tag area at and above `e.below` (R312, R321), where
`Chan.tags` holds the tags themselves, else of the blocks. -/
def Chan.localByte (e : Expander) (c : Chan) (o : Nat) : Byte :=
  if e.below ≤ o then
    BitVec.ofNat 8 ((if (e.tagPlace (2 * (o - e.below))).1 = o then c.tag (2 * (o - e.below)) else 0) + 16 * c.tag (2 * (o - e.below) + 1))
  else Mem.get 0 c.dram o

/-- The line that holds the tags of the 128 blocks of local page `pg` is in the tag cache (R322). -/
def Chan.hasTagLine (c : Chan) (pg : Nat) : Bool := c.tagLines.any fun l => l.host == none && l.key == pg

/-- Put a line first in the tag cache, as the most recently used; of 1,025 lines the last leaves, and is written back (R322). -/
def Chan.touchTagLine (c : Chan) (l : TagLine) : Chan :=
  { c with tagLines := (l :: c.tagLines.filter fun m => !(m.host == l.host && m.key == l.key)).take 1024 }

/-- Use the tag line of local page `pg`: read it into the tag cache, or write to it there, which leaves it dirty (R322). -/
def Chan.useTagLine (c : Chan) (pg : Nat) (write : Bool) : Chan :=
  c.touchTagLine { key := pg, dirty := write || c.tagLines.any fun l => l.host == none && l.key == pg && l.dirty }

/-- Write a block's tag; a tag line that is written is no longer lost for that block (R362). -/
def Chan.setTag (c : Chan) (b t : Nat) : Chan :=
  { c.useTagLine (b / 128) true with tags := if t = 0 then Tab.drop c.tags b else Tab.put c.tags b t, lostTags := c.lostTags.del b }

/-- Take up the block at device address `a` (R318, R321, R322, R330, R333, R362). -/
def State.takeBlock (s : State) (a : Nat) : BlockRes :=
  let cl := s.exp.locate a
  let ch := s.chan cl.1
  let pg := cl.2 / 65536
  let b := cl.2 / 512
  let zeros := List.replicate 512 (0 : Byte)
  if ch.lostWpm.has pg then { st := 1 }
  else if !ch.written.has pg then { data := zeros }
  else if ch.lostTags.has b then { st := 5 }
  else
    let t := ch.tag b
    let miss := !ch.hasTagLine pg
    if t = 0 then { data := zeros, tagMiss := miss }
    else if t = 15 then { data := s.crypt true a (Mem.read 0 ch.dram cl.2 512), tag := t, touched := true, tagMiss := miss }
    else
      let tb := s.tableAt a
      match blockDecode (s.classAt a) (s.exp.tbl tb) t (s.crypt true a (Mem.read 0 ch.dram cl.2 (32 * t))) with
      | .ok d => { data := d, table := tb, tag := t, touched := true, tagMiss := miss }
      | .error k => { st := 5, kind := k, table := tb, tag := t, touched := true, tagMiss := miss }

/-- The block at device address `a` has been taken up: its tag line is in the tag cache (R322), if its page is written. -/
def State.tookBlock (s : State) (a : Nat) : State :=
  let cl := s.exp.locate a
  let pg := cl.2 / 65536
  let ch := s.chan cl.1
  if ch.lostWpm.has pg || !ch.written.has pg || ch.lostTags.has (cl.2 / 512) then s
  else s.modChan cl.1 fun c => c.useTagLine pg false

/-- The open gather buffer of block `a` of a channel, with its number. -/
def Chan.bufOf (c : Chan) (a : Nat) : Option (Nat × GatherBuf) := c.bufs.find? fun e => e.2.addr == a

/-- Bytes of a block overlaid with a buffer's. -/
def overlay (d : List Byte) (l : List (Nat × Byte)) : List Byte :=
  (List.range 512).map fun i => ((l.reverse.find? fun e => e.1 == i).map (·.2)).getD (d.getD i 0)

/-- The block as a read sees it: with the bytes of an open buffer (R329). -/
def State.readBlock (s : State) (a : Nat) : BlockRes :=
  let r := s.takeBlock a
  match (s.chan (s.exp.locate a).1).bufOf a with
  | some (_, g) => if r.st = 0 then { r with data := overlay r.data g.bytes } else r
  | none => r

/-! ## Checks -/

/-- Count in a field of `MEM_ECC_CNT`. -/
def State.memCount (s : State) (c lo : Nat) : State := s.modChan c fun x => { x with eccCnt := satAdd x.eccCnt lo 8 1 }

/-- A damage check fails (R333): counted, logged, and captured if no capture is held. -/
def State.damage (s : State) (c f a : Nat) (r : BlockRes) : State :=
  let s1 := (s.memCount c 24).logEv srcExp .damage (BitVec.ofNat 64 a) (some (BitVec.ofNat 32 r.kind)) none
  if s1.exp.dmgInfo.getLsbD 0 then s1
  else { s1 with exp := { s1.exp with
    dmgInfo := BitVec.ofNat 32 (1 + c * 2 + r.kind * 2 ^ 4 + f * 2 ^ 8 + r.table * 2 ^ 14 + r.tag * 2 ^ 22)
    dmgAddr := BitVec.ofNat 40 a } }

/-- The local numbers of the 8-byte words that hold the stored bytes of the block at device address `a` under tag `t`. -/
def State.storedWords (s : State) (a t : Nat) : List Nat :=
  (List.range (if t = 15 then 64 else 4 * t)).map (· + (s.exp.locate a).2 / 8)

/-- A stored word of the block at `a` is known to hold a lasting uncorrectable error (R332). -/
def State.badStored (s : State) (a t : Nat) : Bool :=
  s.eccAt a && (s.storedWords a t).any fun w => (s.chan (s.exp.locate a).1).badWords.has w

/-- A lasting inline-ECC error in the block at `a` (R332): logged, and counted as a bus error with status 0x01. -/
def State.inlineBad (s : State) (a : Nat) (tag : Word) : State × Nat :=
  let c := (s.exp.locate a).1
  ((s.logEv (srcChan c) .poison (BitVec.ofNat 64 a) (some tag) (some 1)).memCount c 16, 1)

/-- The checks of a block a request of function `f` reads (R322, R330, R332, R333, R386), given what link ECC and inline ECC
report; the number is the status. Inline ECC protects the blocks of ECC regions, and the tag area always. -/
def State.checkBlock (s : State) (f a : Nat) (tag : Word) (r : BlockRes) (chk : DramCheck) : State × Nat :=
  let c := (s.exp.locate a).1
  let prot := (r.touched && s.eccAt a) || r.tagMiss
  let after := fun (x : State) =>
    if r.st = 5 ∧ r.kind ≠ 0 then (x.damage c f a r, 5)
    else if r.st = 1 then (x.memCount c 16, 1)
    else (x, r.st)
  if !r.touched && !r.tagMiss then after s
  else
    match chk with
    | .linkFails helps => ((if helps then s else s.channelOut c).memCount c 16, 1)
    | .inlineFails w =>
      if prot then
        (s.modChan c fun x => if r.touched && s.eccAt a then { x with badWords := x.badWords.add ((s.storedWords a r.tag).getD w 0) } else x).inlineBad a tag
      else after s
    | .clean => if r.touched && s.badStored a r.tag then s.inlineBad a tag else after s
    | .linkCorrected => if r.touched && s.badStored a r.tag then (s.memCount c 0).inlineBad a tag else after (s.memCount c 0)
    | .inlineCorrected => if r.touched && s.badStored a r.tag then s.inlineBad a tag else after (if prot then s.memCount c 8 else s)
    | .inlineTransient =>
      if r.touched && s.badStored a r.tag then s.inlineBad a tag
      else after (if prot then s.logEv (srcChan c) .ueTransient (BitVec.ofNat 64 a) none none else s)

/-! ## Stores -/

/-- The first write to a page writes its tag line, in the tag cache, with every tag ZERO, and sets its bit (R319). -/
def Chan.initPage (c : Chan) (pg : Nat) : Chan :=
  if c.written.has pg then c
  else
    { c.useTagLine pg true with
      tags := c.tags.filter fun e => !(decide (128 * pg ≤ e.1) && decide (e.1 < 128 * pg + 128))
      lostTags := c.lostTags.filter fun b => !(decide (128 * pg ≤ b) && decide (b < 128 * pg + 128))
      written := c.written.add pg }

/-- Local offset of the check byte of the stored word at local offset `o`, in the ECC region of the block at device address `a` (R332):
the region's top eighth holds them, in the order of the words. -/
def State.checkPlace (s : State) (a o : Nat) : Option Nat :=
  match s.dramRegion a with
  | some r =>
    let w := s.exp.list.length
    if r.ecc then some ((r.lo + r.len / 8 * 7) / w + (o - r.lo / w) / 8) else none
  | none => none

/-- The check bytes of the stored bytes `l` at local offset `o` (R332). -/
def State.checkBytes (s : State) (a : Nat) : Nat → Nat → List Byte → List (Nat × Byte)
  | 0, _, _ => []
  | n + 1, o, l =>
    match s.checkPlace a o with
    | some k => (k, Config.checkByte (BitVec.ofNat 64 (leNat (l.take 8)))) :: s.checkBytes a n (o + 8) (l.drop 8)
    | none => []

/-- Write the stored bytes of the block at device address `a`, with their check bytes in an ECC region; the words in `heal`, counted from
the block's first, are written whole, which heals them (R332). -/
def State.putDram (s : State) (a : Nat) (l : List Byte) (heal : List Nat) : State :=
  let cl := s.exp.locate a
  let checks := s.checkBytes a (l.length / 8) cl.2 l
  s.modChan cl.1 fun c => { c with
    dram := Mem.writeAt 0 (Mem.write 0 c.dram cl.2 l) checks
    badWords := c.badWords.filter fun w => !(heal.any fun i => w == cl.2 / 8 + i) }

/-- Store a whole block (R323, R330). -/
def State.storeBlock (s : State) (a : Nat) (d : List Byte) : State :=
  let cl := s.exp.locate a
  let b := cl.2 / 512
  let all := List.range 64
  if allZero d then s.modChan cl.1 fun c =>
    { c with badWords := c.badWords.filter fun w => !(all.any fun i => w == cl.2 / 8 + i) }.setTag b 0
  else
    match blockEncode (s.classAt a) (s.exp.tbl (s.tableAt a)) d with
    | some x => (s.putDram a (s.crypt false a x) all).modChan cl.1 fun c => c.setTag b (x.length / 32)
    | none => (s.putDram a (s.crypt false a d) all).modChan cl.1 fun c => c.setTag b 15

/-- The lines and fills of a block are invalidated by a write that reaches the channel (R208). -/
def Chan.invalidate (c : Chan) (a : Nat) : Chan :=
  { c with
    sets := c.sets.map fun e => (e.1, e.2.filter fun l => l.addr != a)
    fills := c.fills.map fun e => (e.1, if e.2.addr = a then { e.2 with install := false } else e.2) }

/-! ## Availability -/

/-- A channel that cannot serve (R314, R29, R410): status 0x01 when it is out of service or its training failed, 0x0C when
its domain is not ON. -/
def State.chanStatus (s : State) (c : Nat) : Nat :=
  if (s.chan c).train = .out ∨ (s.chan c).train = .failed then 1 else if s.pd (68 + c) ≠ 2 then 0x0C else 0

/-- The channel holds requests (R420, R421). -/
def State.chanHolds (s : State) (c : Nat) : Bool := (s.chan c).busy || (s.chan c).retrain

/-! ## Writes -/

/-- Gather buffer `k` of channel `c` closes (R329): covered, it is stored without a read; else its block is read, merged and
stored, or left as it is when the read fails. Every write it holds is acknowledged. A channel that can no longer serve stores nothing and
refuses each of them (R314, R29). -/
def State.closeBuf (s : State) (c k : Nat) (chk : DramCheck) : State :=
  match Tab.get none ((s.chan c).bufs.map fun e => (e.1, some e.2)) k with
  | none => s
  | some g =>
    let s1 := s.modChan c fun x => { x with bufs := Tab.drop x.bufs k }
    let full := (List.range 512).all fun i => g.bytes.any fun e => e.1 == i
    let zeros := List.replicate 512 (0 : Byte)
    let r := if s.chanStatus c ≠ 0 then (s1, s.chanStatus c)
      else if full then (s1.storeBlock g.addr (overlay zeros g.bytes), 0) else
      let b := s1.takeBlock g.addr
      let q := (s1.tookBlock g.addr).checkBlock (s1.keyFuncAt g.addr) g.addr 0 b chk
      if q.2 = 0 then (q.1.storeBlock g.addr (overlay b.data g.bytes), 0) else q
    g.acks.foldl (fun a w => a.ackTo (.chan c) w r.2) r.1

/-- What becomes of a write at a block. -/
inductive Stored
  | now (st : Nat)     -- acknowledged at once with this status
  | held               -- acknowledged when the gather buffer closes

/-- The words of a block, counted from its first, that listed bytes of it cover whole. -/
def coveredWords (l : List (Nat × Byte)) : List Nat :=
  (List.range 64).filter fun w => (List.range 8).all fun i => l.any fun e => e.1 == 8 * w + i

/-- Listed bytes of a block cover some unit of `n` bytes in part. -/
def partUnit (n : Nat) (l : List (Nat × Byte)) : Bool :=
  (List.range (512 / n)).any fun w =>
    let k := ((List.range n).filter fun i => l.any fun e => e.1 == n * w + i).length
    k ≠ 0 && k ≠ n

/-- What a write of part of a RAW block in a RAW region must read first: the other bytes of its words in an ECC region (R332), and of its
16-byte units under an enabled key (R330). -/
def State.readsFirst (s : State) (a : Nat) (l : List (Nat × Byte)) : Bool :=
  (s.eccAt a && partUnit 8 l) || (s.exp.keyEn.getLsbD (s.keyFuncAt a) && partUnit 16 l)

/-- A word that the bytes cover in part holds a lasting uncorrectable error (R332). -/
def State.partOnBad (s : State) (a : Nat) (l : List (Nat × Byte)) : Bool :=
  let cl := s.exp.locate a
  s.eccAt a && (List.range 64).any fun w =>
    (s.chan cl.1).badWords.has (cl.2 / 8 + w) && (l.any fun e => e.1 / 8 == w) && !(coveredWords l).contains w

/-- Write bytes (offsets in the block) to the block at device address `a` (R319, R323, R329, R332). -/
def State.writeBlock (s : State) (a : Nat) (l : List (Nat × Byte)) (who : Requester) (chk : DramCheck) : State × Stored :=
  let cl := s.exp.locate a
  let c := cl.1
  let b := cl.2 / 512
  let s1 := s.modChan c fun x => (x.initPage (cl.2 / 65536)).invalidate a
  let ch := s1.chan c
  let full := (List.range 512).all fun i => l.any fun e => e.1 == i
  let zeros := List.replicate 512 (0 : Byte)
  match ch.bufOf a with
  | some (k, g) =>
    let g' := { g with bytes := g.bytes ++ l, acks := g.acks ++ [who] }
    let s2 := s1.modChan c fun x => { x with bufs := Tab.put x.bufs k g' }
    ((if (List.range 512).all fun i => g'.bytes.any fun e => e.1 == i then s2.closeBuf c k chk else s2), .held)
  | none =>
    if full then (s1.storeBlock a (overlay zeros l), .now 0)
    else
      let t := ch.tag b
      let coded := s1.classAt a == 1 || s1.classAt a == 2
      if coded then
        let s2 := if 16 ≤ ch.bufs.length then (match ch.bufs with | (k, _) :: _ => s1.closeBuf c k chk | [] => s1) else s1
        (s2.modChan c fun x =>
          { x with bufs := Tab.put x.bufs x.nextBuf { addr := a, bytes := l, acks := [who] }, nextBuf := x.nextBuf + 1 }, .held)
      else if ch.lostTags.has b then (s1, .now 5)
      else if t = 0 then
        ((s1.putDram a (s1.crypt false a (overlay zeros l)) (List.range 64)).modChan c fun x => x.setTag b 15, .now 0)
      else if t = 15 then
        let miss := !ch.hasTagLine (cl.2 / 65536)
        let s2 := s1.tookBlock a
        if s1.partOnBad a l then ((s2.inlineBad a 0).1, .now 1)
        else
          let r := if s1.readsFirst a l || miss then
              s2.checkBlock (s1.keyFuncAt a) a 0 { tag := 15, touched := s1.readsFirst a l, tagMiss := miss } chk
            else (s2, 0)
          if r.2 ≠ 0 then (r.1, .now r.2)
          else
            let old := r.1.crypt true a (Mem.read 0 ch.dram cl.2 512)
            (r.1.putDram a (r.1.crypt false a (overlay old l)) (coveredWords l), .now 0)
      else (s1.tookBlock a, .now 5)

/-! ## Reads and writes of the always-on core and the host -/

/-- Group listed bytes by block. -/
def groupBlocks : List (Nat × Byte) → List (Nat × List (Nat × Byte))
  | [] => []
  | (a, b) :: t =>
    match groupBlocks t with
    | (w, l) :: r => if w = blockOf a then (w, (a % 512, b) :: l) :: r else (blockOf a, [(a % 512, b)]) :: (w, l) :: r
    | [] => [(blockOf a, [(a % 512, b)])]

/-- Read bytes of the DRAM range block by block; the number is the first status. Rights are the caller's concern. -/
def State.dramRead (s : State) (f : Nat) (tag : Word) (chk : DramCheck) : Nat → Nat → Nat → State × Nat × List Byte
  | 0, _, _ => (s, 0, [])
  | fuel + 1, a, n =>
    if n = 0 then (s, 0, [])
    else
      let m := min n (512 - a % 512)
      match s.chanStatus (s.exp.locate a).1 with
      | 0 =>
        let r := s.readBlock (blockOf a)
        let q := (s.tookBlock (blockOf a)).checkBlock f (blockOf a) tag r chk
        if q.2 ≠ 0 then (q.1, q.2, [])
        else
          let t := q.1.dramRead f tag chk fuel (a + m) (n - m)
          (t.1, t.2.1, slice r.data (a % 512) m ++ t.2.2)
      | st => (s, st, [])

/-- Write listed bytes to the DRAM range for a requester; the number is the lowest status of the blocks that are not gathered, whose
requester hears of them when their buffers close (R329). -/
def State.dramWrite (s : State) (l : List (Nat × Byte)) (who : Requester) (chk : DramCheck) : State × Nat :=
  (groupBlocks l).foldl (fun (a : State × Nat) g =>
    match a.1.chanStatus (a.1.exp.locate g.1).1 with
    | 0 =>
      let r := a.1.writeBlock g.1 g.2 who chk
      (r.1, worst [a.2, match r.2 with | .now st => st | .held => 0])
    | st => (a.1, worst [a.2, st])) (s, 0)

/-- The rights of function `f` over every block of a DRAM range (R316). -/
def State.rangePermit (s : State) (svc : Bool) (f a n : Nat) (write : Bool) : Nat :=
  if n = 0 then 0
  else worst ((List.range ((a + n - 1) / 512 + 1 - a / 512)).map fun i => s.dramPermit svc f (max a ((a / 512 + i) * 512)) write)

/-! ## PCIe reads -/

/-- A free tag of the host interface: 10 bits, at most 768 outstanding (R434). -/
def State.freeTag (s : State) : Option Nat :=
  if s.hreads.length < 768 then (List.range 1024).find? fun t => !(s.hreads.any fun e => e.1 == t) else none

/-- Issue a PCIe read of `n` bytes at device address `a` in function `f`'s window (R334); none without a free tag or a window. -/
def State.hostIssue (s : State) (f a n : Nat) (who : Requester) : Option State :=
  match s.freeTag, s.hostAddr f a with
  | some t, some h =>
    some ({ s with hreads := Tab.put s.hreads t { fn := f, addr := a, len := n, who := who, dst := hostSide a } }.emit
      (.hostRead f h n t (s.hostRo f)))
  | _, _ => none

/-- A PCIe read that completes in the step that issues it. -/
def State.hostRead (s : State) (f a n : Nat) : State :=
  match s.hostAddr f a with
  | some h => s.emit (.hostRead f h n (s.freeTag.getD 0) (s.hostRo f))
  | none => s

/-- Not a status of R9: a read must wait, for the re-read of a scratchpad word (R363) or for a tag of the host interface (R434). -/
def heldStatus : Nat := 0x100

/-- A read of the scheduler or the service controller for function `f` at a device address: DRAM; the scratchpads, where the function is
the PF (R316); or the host range, whose bytes the command carries (R268, R256, R328, R334). The number is the status. -/
def State.devRead (s : State) (svc : Bool) (f a n : Nat) (host : List Byte) (hostOk : Bool) (chk : DramCheck) : State × Nat × List Byte :=
  if a < 0x8000000000 then
    match s.rangePermit svc f a n false with
    | 0 => s.dramRead f 0 chk (n / 512 + 2) a n
    | st => (s, st, [])
  else if a < 0x8044000000 then
    let p := s.physOf (a % 0x8000000000 / 0x1000000)
    let o := a % 0x1000000
    let t := s.tile p
    if f ≠ 0 ∨ 0x400000 < o + n ∨ !s.spadOpen p ∨ t.usable < o + n then (s, 0x0C, [])
    else if t.blocked o n then (s.modTile p fun t => t.askReread o n, heldStatus, [])
    else
      match (wordsOf o n).find? fun w => t.wordEcc w == .poisoned with
      | some w => (s.logEv (srcTile p) .poison (t.locOf w) (some 0) (some 1), 1, [])
      | none => (s.noteCe p o n, 0, t.bytes o n)
  else if 0xC000000000 ≤ a ∧ a + n ≤ 2 ^ 40 then
    match s.hostPermit f a false with
    | 0 => if s.freeTag.isNone then (s, heldStatus, []) else if hostOk then (s.hostRead f a n, 0, slice host 0 n) else (s.hostRead f a n, 1, [])
    | st => (s, st, [])
  else (s, 0x0C, [])

end Sys2Proof.Machine
end

