-- ==== Sys2Proof/Machine/Tasks.lean ====
section
/-! DEFINITION. Accepted tasks: readiness, dependences and waits (R286 to R289), retirement and records (R287, R303), queue
states (R267, R306), turns and claims (R291 to R298), and the choice of a tile and a strand (R292, R295). -/

namespace Sys2Proof.Machine

/-! ## Fields of the scheduler's registers -/

/-- `ENABLE`. -/
def Queue.enable (q : Queue) : Bool := q.cfg.getLsbD 0
/-- `RETRY`. -/
def Queue.retry (q : Queue) : Bool := q.cfg.getLsbD 1
/-- `PRIO`. -/
def Queue.prio (q : Queue) : Nat := getFld q.cfg 2 3
/-- `GROUP`. -/
def Queue.group (q : Queue) : Nat := getFld q.cfg 8 8
/-- `MOD_COUNT`. -/
def Queue.modCount (q : Queue) : Nat := getFld q.cfg 16 8
/-- `MOD_US`. -/
def Queue.modUs (q : Queue) : Nat := getFld q.cfg 24 8
/-- Entries of a ring (R268): exponents outside 4 to 16 act as 4. -/
def ringSize (log : BitVec 5) : Nat := if 4 ≤ log.toNat ∧ log.toNat ≤ 16 then 2 ^ log.toNat else 16
/-- Owning function of a group (R264). -/
def QGroup.func (g : QGroup) : Nat := getFld g.cfg 0 6
/-- `SCH_QG_CFG.ENABLE`. -/
def QGroup.enable (g : QGroup) : Bool := g.cfg.getLsbD 6
/-- `PRIO_MAX`. -/
def QGroup.prioMax (g : QGroup) : Nat := getFld g.cfg 8 3
/-- `TASK_MAX`. -/
def QGroup.taskMax (g : QGroup) : Nat := getFld g.cfg 16 15
/-- `STRAND_MIN`. -/
def QGroup.strandMin (g : QGroup) : Nat := getFld g.strand 0 10
/-- `STRAND_MAX`. -/
def QGroup.strandMax (g : QGroup) : Nat := getFld g.strand 16 10

/-- Function that owns queue `q` (R264). -/
def State.qFunc (s : State) (q : Nat) : Nat := (s.qgroup (s.queue q).group).func
/-- Effective priority of queue `q` (R291). -/
def State.effPrio (s : State) (q : Nat) : Nat := min (s.queue q).prio (s.qgroup (s.queue q).group).prioMax
/-- Group of a task. -/
def State.groupOf (s : State) (t : Task) : Nat := (s.queue t.queue).group

/-- The queue group whose task a request works for. -/
def State.groupWho (s : State) : Requester → Option Nat
  | .stream _ _ uid _ _ _ => (s.task uid).map s.groupOf
  | .step _ _ uid => (s.task uid).map s.groupOf
  | _ => none

/-! ## Waits -/

/-- The hitch's generation satisfies a wait for `w` (R224). -/
def genReached (gen w : BitVec 16) : Bool := decide ((gen - w).toNat < 2 ^ 15)

/-- The function has no accepted task with the tag (R289). -/
def State.tagFree (s : State) (f : Nat) (tag : Word) : Bool := !(s.taskList.any fun e => e.2.func == f && e.2.tag == tag)

/-- A wait entry is satisfied now (R224, R289). -/
def State.waitMet (s : State) (f : Nat) : WaitEnt → Bool
  | .tag t => s.tagFree f t
  | .hitch h g => genReached (s.hitch h).gen g

/-- Update every accepted task. -/
def State.mapTasks (s : State) (g : Task → Task) : State :=
  { s with sched := { s.sched with tasks := s.sched.tasks.map fun e => (e.1, e.2.map g) } }

/-- TAG waits of a function's tasks are checked (R289). -/
def State.recheckTags (s : State) (f : Nat) : State :=
  s.mapTasks fun t => if t.func = f then
    { t with waits := t.waits.filter fun w => match w with
        | .tag g => !s.tagFree f g
        | _ => true } else t

/-- HITCH waits on hitch `h` are checked (R224, R288). -/
def State.recheckHitch (s : State) (h : Nat) : State :=
  s.mapTasks fun t => { t with waits := t.waits.filter fun w => match w with
    | .hitch k g => !(k == h && genReached (s.hitch h).gen g)
    | _ => true }

/-- The device dispatches and posts (R4, R287, R304, R396). -/
def State.dispatching (s : State) : Bool := s.glb.st.serving && !s.outputHold

/-- A task is ready (R287); a flush stops dispatch from its queue (R306). -/
def State.ready (s : State) (t : Task) : Bool :=
  t.st == .waiting && t.preds.all (fun p => p.done.isSome) && t.waits.isEmpty && s.dispatching && (s.queue t.queue).st != .flushing

/-! ## Queue states -/

/-- Tasks of queue `q` still accepted. -/
def State.queueTasks (s : State) (q : Nat) : List (Nat × Task) := s.taskList.filter fun e => e.2.queue == q

/-- The state of queue `q` once its flush has ended, or its last task has posted. A flush ends when every record of the queue has been
formed, those of its markers too: the queue is ACTIVE, or DISABLED where `ENABLE` is 0 (R306 step 5); one that was in error is in ERROR
again, since only a write of 0 to `ENABLE` leaves it (R267). A queue whose `ENABLE` is 0 is DISABLED once its last accepted task has
posted (R267). -/
def State.settleQueue (s : State) (q : Nat) : State :=
  let x := s.queue q
  let ts := s.queueTasks q
  let st :=
    if x.st = .flushing then
      if ts.all (fun e => e.2.st == .retired) && x.markers.isEmpty then
        (if !x.enable then .disabled else if x.err = 0 then .active else .error)
      else x.st
    else if !x.enable && ts.isEmpty then .disabled
    else x.st
  if st = x.st then s else s.modQueue q fun x => { x with st := st }

/-- Markers whose earlier tasks have all posted form their records (R276). -/
def State.promoteMarkers (s : State) (q : Nat) : State :=
  let x := s.queue q
  let due := fun (m : Nat × CRec) => !((s.queueTasks q).any fun e => decide (e.1 < m.1))
  let now := x.markers.takeWhile due
  if now.isEmpty then s
  else s.modQueue q fun x => { x with
    recs := x.recs ++ now.map fun m => { m.2 with fin := s.glb.time % 2 ^ 32 }
    markers := x.markers.drop now.length }

/-! ## Retirement -/

/-- The record of a retired task (R303). -/
def Task.record (t : Task) (u : Nat) : CRec :=
  { tag := t.tag, status := t.status, replay := min 255 t.replays
    flags := BitVec.ofNat 8 ((if t.propagated then 8 else 0) + (if t.retried then 16 else 0) + (if t.reexec then 32 else 0)
      + (if t.irq then 64 else 0))
    tile := t.ltile, start := t.start, fin := t.fin, uid := some u }

/-- The recovery window of fault entry 0 closes when it has been acted on and the tasks it ended have retired (R379 step 7, R383). -/
def State.closeFirst (s : State) : State :=
  match s.svc.faults with
  | f :: rest =>
    let gone := fun u => match s.task u with
      | some t => t.st == .retired
      | none => true
    if f.acted && f.uids.all gone then
      let s1 := s.logEv f.source .recovered 0 (some (f.kind.setWidth 32)) (some (BitVec.ofNat 32 ((s.glb.time - f.at_) / 100)))
      { s1 with svc := { s1.svc with faults := rest } }
    else s
  | [] => s

/-- The recovery windows that can close do so: entry 1 moves up when entry 0 has closed. -/
def State.closeWindow (s : State) : State := s.closeFirst.closeFirst

/-- Task `u` retires with status `st` (R286, R287): its record is formed, and its dependents see it. -/
def State.retireOne (s : State) (u st : Nat) (propagated : Bool) : State :=
  match s.task u with
  | none => s
  | some t =>
    if t.st = .retired then s
    else
      let t1 := { t with st := .retired, status := st, propagated := propagated, fin := s.glb.time % 2 ^ 32, waits := [] }
      let s0 := match t.st with
        | .launch p => s.modTile p fun x => { x with launch := none }
        | _ => s
      let s1 := (s0.setTask u t1).modQueue t.queue fun q => { q with recs := q.recs ++ [t1.record u] }
      let s2 := s1.mapTasks fun x => { x with preds := x.preds.map fun p => if p.uid = u then { p with done := some st } else p }
      ((s2.recheckTags t.func).closeWindow).settleQueue t.queue

/-- The status that a failed predecessor gives a task (R287); none when none has failed. -/
def Task.failing (t : Task) : Option Nat :=
  match worst (t.preds.map fun p => if p.order then 0 else p.done.getD 0) with
  | 0 => none
  | st => some st

/-- Tasks with a failed predecessor retire in turn (R287). -/
def State.propagate : Nat → State → State
  | 0, s => s
  | n + 1, s =>
    match s.taskList.find? fun e => e.2.st == .waiting && e.2.failing.isSome with
    | some (u, t) => State.propagate n (s.retireOne u (t.failing.getD 0) true)
    | none => s

/-- Task `u` retires with status `st`, and so do the tasks its failure reaches. -/
def State.retire (s : State) (u st : Nat) : State := (s.retireOne u st false).propagate s.taskList.length

/-! ## Claims -/

/-- Strands a group uses (R294). -/
def State.groupUse (s : State) (g : Nat) : Nat :=
  (s.taskList.filter fun e => s.groupOf e.2 == g && match e.2.st with
    | .launch _ => true
    | .running _ _ => true
    | _ => false).length

/-- Claim of a ready task (R294): its group is below its strand minimum, then the effective priority. -/
def State.claim (s : State) (t : Task) : Nat :=
  let g := s.groupOf t
  (if s.groupUse g < (s.qgroup g).strandMin then 8 else 0) + s.effPrio t.queue

/-- Task `a` is chosen before task `b` (R293): by claim, then effective priority, then age. -/
def State.before (s : State) (a b : Nat × Task) : Bool :=
  let ca := s.claim a.2
  let cb := s.claim b.2
  decide (cb < ca) || (ca == cb && decide (a.1 < b.1))

/-! ## Tiles -/

/-- Logical tiles of a stage, ascending (R39). -/
def State.stageTiles (s : State) (lay stage : Nat) : List Nat :=
  (List.range 68).filter fun n => Tab.get none s.rig.place n == some (lay, stage)

/-- Logical tile `n` takes tasks: not fenced (R21), not retired, its domain ON, not lost. -/
def State.tileUp (s : State) (n : Nat) : Bool :=
  let e := s.mapEnt n
  !e.fenced && e.role == 0 && s.pd e.phys == 2 && !(s.tile e.phys).lost

/-- A rig command has stopped dispatch to logical tile `n` (R259, R261, R262). -/
def State.draining (s : State) (n : Nat) : Bool :=
  match s.svc.drain with
  | none => false
  | some d =>
    match d.kind with
    | .whole _ => true
    | .lay m => (Tab.get none s.rig.place n).map (·.1) == some m
    | .tile l => n == l

/-- The logical tile that a task must go to, or 0xFF: the one it names (R278); the one it ran on, when a fault ended it there (R382). -/
def Task.goal (t : Task) : Nat := if t.reexec then t.ltile else t.tile

/-- A rig command holds task `t` in its queue (R259, R261, R262): dispatch to every tile it may go to has stopped, and no check against
the rig that is about to go touches it. -/
def State.held (s : State) (t : Task) : Bool :=
  match s.svc.drain with
  | none => false
  | some d =>
    match d.kind with
    | .whole _ => true
    | .lay m => t.lay == m
    | .tile l => t.goal == l

/-- A task may be dispatched to logical tile `n` now. -/
def State.tileOpen (s : State) (n : Nat) : Bool := s.tileUp n && !s.draining n

/-- Strands that kernel `m` may use on a tile (R244). -/
def Tile.permitted (t : Tile) (m : Nat) : List Nat :=
  let mask := Tab.get 0 t.masks m
  (List.range 8).filter fun k => mask == 0 || mask.testBit k

/-- The lowest free strand that kernel `m` may use (R167, R244). -/
def Tile.freeStrand (t : Tile) (m : Nat) : Option Nat := (t.permitted m).find? fun k => (t.strand k).st == .free

/-- A group may dispatch to physical tile `p` (R294, R296, R297). -/
def State.groupMay (s : State) (p g : Nat) : Bool :=
  let t := s.tile p
  let mx := (s.qgroup g).strandMax
  (match t.turn with
   | none => true
   | some x => x == g && !t.closed) && (mx == 0 || decide (s.groupUse g < mx))

/-- The logical tile a ready task goes to (R292, R382): the one it must go to; else the lowest of its stage with a free permitted strand on
which its group may dispatch. -/
def State.pickTile (s : State) (t : Task) : Option Nat :=
  if t.goal ≠ 0xFF then some t.goal
  else (s.stageTiles t.lay t.stage).find? fun n =>
    s.tileOpen n && ((s.tile (s.physOf n)).freeStrand t.kernel).isSome && s.groupMay (s.physOf n) (s.groupOf t)

/-- Where a ready task would be placed now (R293, R295): a physical tile, and the strand, or none for its launch slot. -/
def State.placeOf (s : State) (t : Task) : Option (Nat × Option Nat) :=
  match s.pickTile t with
  | none => none
  | some n =>
    let p := s.physOf n
    if !s.tileOpen n || !s.groupMay p (s.groupOf t) then none
    else
      match (s.tile p).freeStrand t.kernel with
      | some k => some (p, some k)
      | none => if (s.tile p).launch.isNone then some (p, none) else none

/-- The checks against the rig before dispatch (R40, R292, R381): the status that retires the task, if any. -/
def State.rigCheck (s : State) (t : Task) : Option Nat :=
  match Tab.get none s.rig.lays t.lay with
  | none => some 0x06
  | some l =>
    if t.layVer ≠ 0 ∧ t.layVer ≠ l.ver then some 0x06
    else
      let ns := if t.goal = 0xFF then s.stageTiles t.lay t.stage else (s.stageTiles t.lay t.stage).filter (· == t.goal)
      if ns.isEmpty then some 0x06
      else if ns.all fun n => (s.mapEnt n).role == 2 then some 0x09
      else none

/-- The window of a task is valid on physical tile `p` (R164). -/
def State.windowOk (s : State) (p : Nat) (t : Task) : Bool :=
  let x := s.tile p
  let d := kernelDir x.psRead t.kernel
  t.base % 64 == 0 && t.size % 64 == 0 && t.size != 0 && decide (t.base + t.size ≤ x.usable)
    && (!d.valid || decide (d.minsize * 64 ≤ t.size))

/-! ## Turns -/

/-- Tasks in flight on physical tile `p`, or in its launch slot. -/
def State.onTile (s : State) (p : Nat) : List (Nat × Task) :=
  s.taskList.filter fun e => match e.2.st with
    | .launch q => q == p
    | .running q _ => q == p
    | _ => false

/-- A ready task contends for physical tile `p` (R297): the tile is the one that R292 chooses for it; or it may go to any tile of its
stage, none of which can take it now, and the tile is one of them. -/
def State.wants (s : State) (p : Nat) (t : Task) : Bool :=
  s.ready t && (s.rigCheck t).isNone &&
    (match s.pickTile t with
     | some n => s.physOf n == p
     | none => (s.stageTiles t.lay t.stage).any fun n => s.physOf n == p)

/-- The best claim of a list of tasks. -/
def State.bestClaim (s : State) (l : List (Nat × Task)) : Nat := (l.map fun e => s.claim e.2).foldl max 0

/-- The task in a closed tile's launch slot is recalled (R298). -/
def State.recall (s : State) (p : Nat) : State :=
  match (s.tile p).launch with
  | none => s
  | some u =>
    match s.task u with
    | none => s.modTile p fun t => { t with launch := none }
    | some t =>
      if (s.queue t.queue).retry then
        (s.setTask u { t with st := .waiting, retried := true }).modTile p fun t => { t with launch := none }
      else s.retire u 0x07

/-- The turn of physical tile `p` closes when another group's ready task has the claim (R297); a tile with nothing in flight has
no turn group (R296). -/
def State.settleTurn (s : State) (p : Nat) : State :=
  match (s.tile p).turn with
  | none => s
  | some g =>
    if (s.onTile p).isEmpty then s.setTurn p none
    else if (s.tile p).closed then s
    else
      let l := s.taskList.filter fun e => s.wants p e.2
      let mine := l.filter fun e => s.groupOf e.2 == g
      let others := l.filter fun e => s.groupOf e.2 != g
      if !others.isEmpty && (mine.isEmpty || decide (s.bestClaim mine ≤ s.bestClaim others)) then
        (s.modTile p fun t => { t with closed := true }).recall p
      else s

/-- Every tile's turn is brought up to date. -/
def State.settleTurns (s : State) : State := (s.tiles.map (·.1)).foldl (fun a p => a.settleTurn p) s

/-! ## Strands -/

/-- The tile loads task `u` into strand `k` (R167): a kernel whose directory entry is not valid ends the task with status
0x06. -/
def State.loadStrand (s : State) (p k u : Nat) : State :=
  match s.task u with
  | none => s
  | some t =>
    let d := kernelDir (s.tile p).psRead t.kernel
    let x : Strand := { uid := u, func := t.func, kernel := t.kernel, lay := t.lay, base := t.base, size := t.size
                        st := if d.valid then .issuing else .ending
                        status := if d.valid then 0 else 0x06
                        a := (List.range 15).map fun i => if i < 8 then t.opnds.getD i 0 else 0
                        c := [0, 0, 0, 0], next := d.entry, shifts := t.shifts, only := t.only }
    let s1 := (s.setTurn p (some (s.groupOf t))).modTile p fun y => { y.setStrand k x with
      launch := if y.launch = some u then none else y.launch }
    (s1.setTask u { t with st := .running p k, ltile := s.logOf p, start := s.glb.time % 2 ^ 32
                           oldArr := t.oldArr ++ t.arrivals, arrivals := [] }).settle

/-- The task in the launch slot loads into strand `k`, which has become FREE, if it may use it (R295). -/
def State.loadLaunch (s : State) (p k : Nat) : State :=
  match (s.tile p).launch with
  | none => s
  | some u =>
    match s.task u with
    | none => s
    | some t => if ((s.tile p).permitted t.kernel).contains k && (s.strand p k).st == .free && s.tileUp (s.logOf p) then s.loadStrand p k u else s

end Sys2Proof.Machine
end

