-- ==== Sys2Proof/Machine/Memory.lean ====
section
/-! DEFINITION. The commands of the memory side: reads and writes at a channel (R207, R316, R320, R323), splice-cache fills and
flushes (R206 to R210, R335), gather buffers (R329), written-page clears (R319, R320), code tables and keys (R328, R331),
regions (R315, R317), the host tier (R334) and BAR4 (R437). -/

namespace Sys2Proof.Machine

/-! ## Splice cache -/

/-- The set of the splice cache that holds a block (R206; notes/assumptions/18.md). -/
def State.spliceSet (s : State) (a : Nat) : Nat :=
  if a < 0x8000000000 then (s.exp.locate a).2 / 512 % 128 else (a / 8192 * 2 + a / 512 % 2) % 128

/-- A line for the block that the function filled (R207). -/
def State.spliceLine (s : State) (c a f : Nat) : Option SpliceLine :=
  (Tab.get [] (s.chan c).sets (s.spliceSet a)).find? fun l => l.addr == a && l.func == f

/-- Put a line first in its set, as the most recently used; a seventeenth line leaves (R206). -/
def State.spliceTouch (s : State) (c : Nat) (l : SpliceLine) : State :=
  let i := s.spliceSet l.addr
  s.modChan c fun x => { x with
    sets := Tab.put x.sets i ((l :: (Tab.get [] x.sets i).filter fun m => !(m.addr == l.addr && m.func == l.func)).take 16) }

/-- Every line goes, and no fill in flight will be installed (R210); so do the lines of host tags, and those in flight (R335). -/
def Chan.flush (c : Chan) : Chan :=
  { c with
    sets := [], fills := c.fills.map fun e => (e.1, { e.2 with install := false, stale := true })
    tagLines := c.tagLines.filter fun l => l.host == none, flushing := true }

/-! ### Host tags -/

/-- The entry whose class and tags a host-range block has for function `f` (R335): one of class BF16X or U8E. -/
def State.hostCoded (s : State) (f a : Nat) : Option Region :=
  match s.hostRegion f a with
  | some r => if r.cls = 1 ∨ r.cls = 2 then some r else none
  | none => none

/-- `TAGBASE` of an entry, as a device address. -/
def Region.tagBase (r : Region) : Nat := bitsOf r.tag.toNat 0 28 * 4096

/-- Where the tag of the host-range block at `a` lies (R335): the line of 64 bytes in the tag array, and the number of the nibble in it. -/
def Region.hostTagPlace (r : Region) (a : Nat) : Nat × Nat :=
  let k := (a - r.lo) / 512
  let b := r.tagBase + k / 2
  (b / 64 * 64, b % 64 * 2 + k % 2)

/-- Nibble `i` of a line of tags. -/
def nibbleAt (l : List Byte) (i : Nat) : Nat := (l.getD (i / 2) 0).toNat / 16 ^ (i % 2) % 16

/-- The tag of the host-range block at `a`, where function `f`'s tag line is in the tag cache of channel `c`. -/
def State.hostTagHere (s : State) (c f a : Nat) (r : Region) : Option Nat :=
  ((s.chan c).tagLines.find? fun l => l.host == some f && l.key == (r.hostTagPlace a).1).map fun l => nibbleAt l.data (r.hostTagPlace a).2

/-- What a fill knows of its block's tag when it starts (R335): nothing for DRAM; RAW without an entry that codes it; the tag of a line in
the tag cache; a failure where the array is not in the function's host window; else nothing yet. -/
def State.firstTag (s : State) (c f a : Nat) : Option (Option Nat) :=
  match s.hostCoded f a with
  | none => some (some 15)
  | some r =>
    match s.hostTagHere c f a r with
    | some n => some (some n)
    | none => if (r.hostTagPlace a).1 < 0xC000000000 ∨ (s.hostAddr f (r.hostTagPlace a).1).isNone then some none else none

/-- The PCIe reads of fill `k` of the host-range block at `b` (R334, R335): of its 512 bytes, and of its line of tags if that is not at hand;
none while no tag of the host interface is free. -/
def State.fillReads (s : State) (c f b k : Nat) (tagKnown : Bool) : Option State :=
  match s.hostIssue f b 512 (.fill c k) with
  | none => none
  | some s1 =>
    match tagKnown, s.hostCoded f b with
    | false, some r => s1.hostIssue f (r.hostTagPlace b).1 64 (.tagLine c k (r.hostTagPlace b).1)
    | _, _ => some s1

/-! ### Reads -/

/-- A weight-class read at channel `c` (R207, R208, R210, R335): a line answers it; or it waits on the fill in flight for the
block; or it starts a fill, at most 32 being in flight (none: it waits). `share`: the read may use the splice cache. -/
def State.weightRead (s : State) (c a n f : Nat) (share : Bool) (who : Requester) : Option State :=
  let b := blockOf a
  match (if share then s.spliceLine c b f else none) with
  | some l =>
    some (((s.spliceTouch c l).modChan c fun x => { x with hit := x.hit + 1 }).respond (.chan c) who (slice l.data (a % 512) n) 0)
  | none =>
    match (if share then (s.chan c).fills.find? fun e => e.2.addr == b && e.2.func == f && e.2.install else none) with
    | some (k, x) =>
      some (s.modChan c fun y =>
        { y with fills := Tab.put y.fills k { x with waiters := x.waiters ++ [(a, n, who)] }, merge := y.merge + 1 })
    | none =>
      if 32 ≤ (s.chan c).fills.length then none
      else
        let isHost := decide (0x8000000000 ≤ b)
        let tag := if isHost then s.firstTag c f b else none
        let x : SpliceFillSt :=
          { addr := b, func := f, install := share, snap := if isHost then {} else s.readBlock b, waiters := [(a, n, who)], hostTag := tag }
        let k := (s.chan c).nextFill
        let s1 := if isHost then s.fillReads c f b k tag.isSome else some (s.tookBlock b)
        s1.map fun z => z.modChan c fun y =>
          { y with fills := Tab.put y.fills k x, nextFill := k + 1, miss := if share then y.miss + 1 else y.miss }

/-- The channel's share is in use: enabled, and not being flushed (R210). -/
def Chan.shareOn (c : Chan) : Bool := c.spliceEn && !c.flushing

/-! ### Precedence -/

/-- Bytes that channel `c` has served to queue group `g` in the present window of 1 microsecond (R302), counted on the timebase. -/
def State.servedTo (s : State) (c g : Nat) : Nat := if (s.chan c).window = s.glb.time / 100 then Tab.get 0 (s.chan c).served g else 0

/-- Channel `c` has served `n` bytes to a requester (R302). -/
def State.noteServed (s : State) (c : Nat) (who : Requester) (n : Nat) : State :=
  match s.groupWho who with
  | none => s
  | some g => s.modChan c fun x => { x with
      window := s.glb.time / 100, served := Tab.put (if x.window = s.glb.time / 100 then x.served else []) g (s.servedTo c g + n) }

/-- The requester's group has received less than its `MIN` ÷ c bytes in this window at channel `c` (R302). -/
def State.owedAt (s : State) (c : Nat) (who : Requester) : Bool :=
  match s.groupWho who with
  | some g => decide (s.servedTo c g * (s.exp.list.filter fun d => s.chanStatus d == 0).length < (s.qgroup g).bwMin * 100)
  | none => false

/-- A request for channel `c` waits (R302): its group has had its share, and a request of a group that has not stands at the channel. -/
def State.minWaits (s : State) (c : Nat) (who : Requester) : Bool :=
  !s.owedAt c who && (List.range s.mesh.length).any fun j => match s.deliverable j with
    | some { dst := .chan d, body := .read _ _ _ _ w, .. } => d == c && s.owedAt c w
    | some { dst := .chan d, body := .write _ _ _ _ _ w, .. } => d == c && s.owedAt c w
    | _ => false

/-- A read packet reaches a memory channel (R207, R302, R316, R318, R321, R330, R332, R333, R335). -/
def execMemoryRead (i : Nat) (chk : DramCheck) (s : State) : Ans :=
  .next <| match s.deliverable i with
  | some { dst := .chan c, body := .read a n f weight who, .. } =>
    let s1 := (s.unsend i).noteServed c who n
    if s.chanHolds c || s.minWaits c who then s
    else
      match s.chanStatus c with
      | 0 =>
        if a < 0x8000000000 then
          match s.dramPermit false f a false with
          | 0 =>
            if weight && (s.chan c).shareOn then (s1.weightRead c a n f true who).getD s
            else
              let r := s1.readBlock (blockOf a)
              let q := (s1.tookBlock (blockOf a)).checkBlock f (blockOf a) (s.tagWho who) r chk
              q.1.respond (.chan c) who (if q.2 = 0 then slice r.data (a % 512) n else []) q.2
          | st => s1.respond (.chan c) who [] st
        else
          match s.hostPermit f a false with
          | 0 => (s1.weightRead c a n f ((s.hostChan a) == (c, true) && (s.chan c).shareOn) who).getD s
          | st => s1.respond (.chan c) who [] st
      | st => s1.respond (.chan c) who [] st
  | _ => s

/-- What a host-tier fill brings (R335): coded blocks under their entry's class and table and the tag of the tag array. -/
def State.hostBlock (s : State) (f a : Nat) (host : List Byte) (ok : Bool) (tag : Option Nat) : BlockRes :=
  match ok, tag, s.hostCoded f a with
  | false, _, _ => { st := 1 }
  | _, none, _ => { st := 1 }
  | true, some 0, some _ => { data := List.replicate 512 0 }
  | true, some 15, _ => { data := slice host 0 512 }
  | true, some t, some r =>
    match blockDecode r.cls (s.exp.tbl r.table) t (slice host 0 (32 * t)) with
    | .ok d => { data := d, table := r.table, tag := t }
    | .error k => { st := 5, kind := k, table := r.table, tag := t }
  | true, some _, none => { data := slice host 0 512 }

/-- A link-ECC result alone. -/
def linkPart (l : LinkCheck) : DramCheck :=
  match l with
  | .clean => .clean
  | .corrected => .linkCorrected
  | .fails h => .linkFails h

/-- An inline-ECC result alone. -/
def inlinePart (l : InlineCheck) : DramCheck :=
  match l with
  | .clean => .clean
  | .corrected => .inlineCorrected
  | .transient => .inlineTransient
  | .fails w => .inlineFails w

/-- The checks of a DRAM fill (R322, R332, R333): those of its tag line, where the tag cache missed, and then those of the block, link ECC
before inline ECC in each, up to the first that fails; what the block holds is judged last. -/
def State.checkFill (s : State) (x : SpliceFillSt) (link : LinkCheck) (inl : InlineCheck) (tagLink : LinkCheck) (tagInl : InlineCheck) : State × Nat :=
  let line := { x.snap with st := 0, touched := false }
  let also := fun (q : State × Nat) (r : BlockRes) (chk : DramCheck) => if q.2 = 0 then q.1.checkBlock x.func x.addr 0 r chk else q
  let t := also (s.checkBlock x.func x.addr 0 line (linkPart tagLink)) line (inlinePart tagInl)
  also (also t { x.snap with st := 0, tagMiss := false } (linkPart link)) { x.snap with tagMiss := false } (inlinePart inl)

/-- The outcome of a fill at channel `c` (R207, R332, R333, R335): none while the host's bytes or tag are still awaited; else the block,
the state with its checks noted, and the status. A block of a channel that no longer serves is refused (R314). -/
def State.fillOutcome (s : State) (c : Nat) (x : SpliceFillSt) (link : LinkCheck) (inl : InlineCheck) (tagLink : LinkCheck)
    (tagInl : InlineCheck) : Option (BlockRes × State × Nat) :=
  if x.addr < 0x8000000000 then
    if s.chanStatus c ≠ 0 then some (x.snap, s, s.chanStatus c)
    else
      let q := s.checkFill x link inl tagLink tagInl
      some (x.snap, q.1, q.2)
  else
    match x.host, x.hostTag with
    | some (host, ok), some tag =>
      let r := s.hostBlock x.func x.addr host ok tag
      if s.chanStatus c ≠ 0 then some (r, s, s.chanStatus c)
      else if r.st = 5 then some (r, s.damage c x.func x.addr r, 5)
      else if r.st = 1 then some (r, s.memCount c 16, 1)
      else some (r, s, 0)
    | _, _ => none

/-- A fill completes (R207, R208, R210, R333): every read that waits on it is answered, and the block is installed unless it
failed, was written or was flushed since. A fill of a host-range block completes when the host has returned its bytes and its tag. -/
def execSpliceFill (chan fill : Nat) (link : LinkCheck) (inl : InlineCheck) (tagLink : LinkCheck) (tagInl : InlineCheck) (s : State) : Ans :=
  .next (
    match Tab.get none ((s.chan chan).fills.map fun e => (e.1, some e.2)) fill with
    | none => s
    | some x =>
      match (s.modChan chan fun y => { y with fills := Tab.drop y.fills fill }).fillOutcome chan x link inl tagLink tagInl with
      | none => s
      | some (r, s1, st) =>
        let s2 := x.waiters.foldl (fun a w =>
          a.respond (.chan chan) w.2.2 (if st = 0 then slice r.data (w.1 % 512) w.2.1 else []) st) s1
        if st = 0 && x.install && (s2.chan chan).shareOn then
          s2.spliceTouch chan { addr := x.addr, func := x.func, data := r.data }
        else s2)

/-- A write of `FLUSH`, or one that clears `ENABLE`, in `MEM_SPLICE_CTL` (R210). -/
def execSpliceFlush (fn chan : Nat) (v : Word) (s : State) : Ans :=
  .next (
    if !s.pfWrites fn (0x600800 + chan * 0x10000) || decide (8 ≤ chan) then s
    else
      s.modChan chan fun c =>
        let c1 := { c with spliceEn := v.getLsbD 0 }
        if v.getLsbD 1 || (c.spliceEn && !v.getLsbD 0) then c1.flush else c1)

/-- The flush of a share ends: `BUSY` clears. -/
def execSpliceFlushDone (chan : Nat) (s : State) : Ans := .next (s.modChan chan fun c => { c with flushing := false })

/-! ## Writes -/

/-- The answer to a write that channel `c` has taken: one that is stored is acknowledged at once, a gathered one when its buffer closes
(R329). -/
def Stored.answer (x : Stored) (s : State) (c : Nat) (who : Requester) : State :=
  match x with
  | .now st => s.ackTo (.chan c) who st
  | .held => s

/-- A write packet reaches a memory channel (R204, R208, R302, R316, R319, R323, R329, R332). A packet lies within one block. -/
def execMemoryWrite (i : Nat) (chk : DramCheck) (s : State) : Ans :=
  .next <| match s.deliverable i with
  | some { dst := .chan c, body := .write a data f _ _ who, bad := bad, .. } =>
    let s1 := (s.unsend i).noteServed c who data.length
    if s.chanHolds c || s.minWaits c who then s
    else if bad then s1.ackTo (.chan c) who 1
    else
      match s.chanStatus c with
      | 0 =>
        match s.dramPermit false f a true with
        | 0 =>
          let r := s1.writeBlock (blockOf a) (data.map fun e => (e.1 % 512, e.2)) who chk
          r.2.answer r.1 c who
        | st => s1.ackTo (.chan c) who st
      | st => s1.ackTo (.chan c) who st
  | _ => s

/-- A gather buffer has been open for 256 MCLK (R329). -/
def execGatherBufferClose (chan buf : Nat) (chk : DramCheck) (s : State) : Ans := .next (s.closeBuf chan buf chk)

/-! ## Written-page clear -/

/-- Local pages of a channel that a clear of device range `lo .. hi - 1` covers: those whose whole device range lies inside
it, the rig shadow apart (R318, R319). -/
def State.clearsPage (s : State) (lo hi pg : Nat) : Bool :=
  let span := 65536 * s.exp.list.length
  decide (lo ≤ pg * span) && decide ((pg + 1) * span ≤ min hi s.exp.shadowBase)

/-- Clear the pages of one channel: writes in flight to them complete first, and its lines of them go (R320). -/
def State.clearChan (s : State) (c lo hi : Nat) (chk : DramCheck) : State :=
  let gone := fun (x : State) (a : Nat) => decide (a < 0x8000000000) && x.clearsPage lo hi ((x.exp.locate a).2 / 65536)
  let s1 := ((s.chan c).bufs.filter fun e => gone s e.2.addr).foldl (fun a e => a.closeBuf c e.1 chk) s
  s1.modChan c fun x => { x with
    written := x.written.filter fun pg => !s.clearsPage lo hi pg
    lostWpm := x.lostWpm.filter fun pg => !s.clearsPage lo hi pg
    sets := x.sets.map fun e => (e.1, e.2.filter fun l => !gone s l.addr)
    fills := x.fills.map fun e => (e.1, if gone s e.2.addr then { e.2 with install := false } else e.2) }

/-- `EXP_WPM_CLR_CMD.GO` (R319, R320): ignored while a clear runs. -/
def execWpmClear (fn : Nat) (w : ClearWrite) (s : State) : Ans :=
  .next (
    if !s.pfWrites fn 0x740018 || !w.v.getLsbD 0 || s.exp.clrBusy then s
    else
      let lo := s.exp.clrBase.toNat * 65536
      let hi := lo + s.exp.clrSize.toNat * 65536
      let s1 := (s.exp.list.filter fun c => s.chanStatus c == 0).foldl (fun a c => a.clearChan c lo hi w.chk) s
      { s1 with exp := { s1.exp with clrBusy := true } })

/-- Every channel in service has cleared its share (R320). -/
def execWpmClearDone (s : State) : Ans := .next { s with exp := { s.exp with clrBusy := false } }

/-! ## Code tables, keys, regions -/

/-- The load of a code table (R324, R328): refused, with its reason, for a source that cannot be read, an invalid table, or a
table that an enabled entry names. -/
def execCodeTableLoad (fn : Nat) (v : Word) (host : List Byte) (rd : ReadResult) (s : State) : Ans :=
  .next (
    if !s.pfWrites fn 0x740028 || !v.getLsbD 8 then s
    else
      let n := bitsOf v.toNat 0 8
      let r := s.devRead false 0 (s.exp.tblSrc.toNat / 64 * 64) 128 host rd.ok rd.chk
      let bad := if r.2.1 ≠ 0 then some 2
        else if !tableValid r.2.2 then some 0
        else if s.regions.any fun e => e.en && e.table == n then some 1
        else none
      let s1 := r.1
      if r.2.1 = heldStatus then s1
      else match bad with
      | some q => { s1 with exp := { s1.exp with tblErr := true, tblReason := BitVec.ofNat 2 q } }
      | none => { s1 with exp := { s1.exp with tables := Tab.put s1.exp.tables n r.2.2, tblErr := false } })

/-- A write to `EXP_KEY_CTL` (R331): with `LOAD`, the key data become the function's key. -/
def execKeyLoad (fn : Nat) (v : Word) (s : State) : Ans :=
  .next (
    if !s.pfWrites fn 0x740040 then s
    else
      let f := bitsOf v.toNat 0 6
      let e := { s.exp with keyFunc := BitVec.ofNat 6 f, keyEnBit := v.getLsbD 6 }
      if v.getLsbD 7 then
        let bit : BitVec 64 := BitVec.ofNat 64 (2 ^ f)
        { s with exp := { e with keys := Tab.put e.keys f e.keyData, keyEn := if v.getLsbD 6 then e.keyEn ||| bit else e.keyEn &&& ~~~bit } }
      else { s with exp := e })

/-- A region entry may be enabled (R315, R323, R332). -/
def State.regionLegal (s : State) (r : Region) : Bool :=
  decide (r.cls < 3) &&
  ((decide (r.lo + r.len ≤ s.exp.shadowBase) && (!r.ecc || (r.lo % 2 ^ 25 == 0 && r.len % 2 ^ 25 == 0)))
    || (decide (0xC000000000 ≤ r.lo) && decide (r.lo + r.len ≤ 2 ^ 40) && !r.ecc))

/-- A write to the control word of a region entry, at BAR0 offset `off` (R315, R317): while `EN` is 1 only `EN` changes; `EN` 1
is accepted only for a legal entry. -/
def execRegionEnable (fn off : Nat) (v : Word) (s : State) : Ans :=
  .next (
    if !s.pfWrites fn off || decide (off < 0x741000) || decide (0x741400 ≤ off) || off % 16 != 8 then s
    else
      let n := off % 0x1000 / 16
      let r := s.region n
      let put := fun (x : Region) => { s with exp := { s.exp with regions := Tab.put s.exp.regions n x } }
      if r.en then put { r with ctl := setFld r.ctl 0 1 (if v.getLsbD 0 then 1 else 0) }
      else
        let r' := { r with ctl := v &&& 0x00FF07FF }
        if v.getLsbD 0 && !s.regionLegal r' then put { r' with ctl := setFld r'.ctl 0 1 0 } else put r')

/-! ## Host tier -/

/-- Consecutive bytes of a write, as PCIe Memory Writes. -/
def byteRuns : List (Nat × Byte) → List (Nat × List Byte)
  | [] => []
  | (a, b) :: t =>
    match byteRuns t with
    | (c, l) :: r => if c = a + 1 then (a, b :: l) :: r else (a, [b]) :: (c, l) :: r
    | [] => [(a, [b])]

/-- A request for a host-range address reaches the host interface (R204, R316, R334, R439): a read is issued to the host, at
most 768 being outstanding (R434); a write is issued and acknowledged. -/
def execHostInterfaceRequest (i : Nat) (s : State) : Ans :=
  .next <| match s.deliverable i with
  | some { dst := .host side, body := .read a n f _ who, .. } =>
    let s1 := s.unsend i
    match s.hostPermit f a false with
    | 0 => (s1.hostIssue f a n who).getD s
    | st => s1.respond (.host side) who [] st
  | some { dst := .host side, body := .write a data f _ _ who, bad := bad, .. } =>
    let s1 := s.unsend i
    match s.hostPermit f a true with
    | 0 =>
      if bad then s1.ackTo (.host side) who 1
      else
        ((byteRuns data).foldl (fun x e => match s.hostAddr f e.1 with
          | some h => x.emit (.hostWrite f h e.2)
          | none => x) s1).ackTo (.host side) who 0
    | st => s1.ackTo (.host side) who st
  | _ => s

/-- Host bytes for fill `k` of channel `c` have come (R334, R335). -/
def Chan.fillGot (c : Chan) (k : Nat) (data : List Byte) (ok : Bool) : Chan :=
  { c with fills := c.fills.map fun e => if e.1 = k then (e.1, { e.2 with host := some (data, ok) }) else e }

/-- A line of host tags has come for fill `k` of channel `c` (R335): the fill takes its tag, and the line enters the tag cache unless a
flush came between. -/
def State.tagLineGot (s : State) (c k line : Nat) (data : List Byte) (ok : Bool) : State :=
  match Tab.get none ((s.chan c).fills.map fun e => (e.1, some e.2)) k with
  | none => s
  | some x =>
    let tag := match s.hostCoded x.func x.addr with
      | some r => some (if ok then some (nibbleAt data (r.hostTagPlace x.addr).2) else none)
      | none => some (some 15)
    s.modChan c fun y =>
      let z := { y with fills := Tab.put y.fills k { x with hostTag := tag } }
      if ok && !x.stale then z.touchTagLine { key := line, host := some x.func, data := data } else z

/-- A PCIe completion returns host data to its requester (R334, R335); one that does not succeed is a bus error. -/
def execPcieCompletion (tag : Nat) (data : List Byte) (ok : Bool) (s : State) : Ans :=
  .next (
    match Tab.get none (s.hreads.map fun e => (e.1, some e.2)) tag with
    | none => s
    | some r =>
      let s1 := { s with hreads := Tab.drop s.hreads tag }
      match r.who with
      | .fill c k => s1.modChan c fun y => y.fillGot k (slice data 0 r.len) ok
      | .tagLine c k line => s1.tagLineGot c k line (slice data 0 r.len) ok
      | _ => s1.respond r.dst r.who (if ok then slice data 0 r.len else []) (if ok then 0 else 1))

/-! ## BAR4 -/

/-- Where a BAR4 access goes (R316, R437): a scratchpad of a logical tile, or the DRAM range; refused otherwise. -/
def State.bar4Target (s : State) (fn a n : Nat) (write : Bool) : Except Nat Target :=
  if n = 0 ∨ 0xC000000000 < a + n then .error 0x0C
  else if a + n ≤ 0x8000000000 then
    match s.rangePermit false fn a n write with
    | 0 => .ok (.dram a fn)
    | st => .error st
  else if 0x8000000000 ≤ a ∧ a + n ≤ 0x8044000000 then
    let t := a % 0x8000000000 / 0x1000000
    let o := a % 0x1000000
    if fn ≠ 0 ∨ 0x400000 < o + n then .error 0x0C else .ok (.spad t o)
  else .error 0x0C

/-- The pieces of a host access (R437): its bytes cut at the boundaries of 64 bytes. -/
def hostPieces (addr : Nat) (data : List Byte) : List (Nat × List Byte) :=
  if addr % 64 + data.length ≤ 64 then [(addr, data)] else cutBlocks 64 addr (data.length + 1) data

/-- A piece of a host access goes on the mesh, from the attachment of its page (R22, R32). -/
def State.hostSend (s : State) (addr : Nat) (dst : Endpoint) (vc : VC) (body : Body) : State :=
  s.send { src := hostSide addr, dst := dst, vc := vc, body := body }

/-- The host's accesses to device address `a` must wait behind packets of its own on the way to `dst` (R25). -/
def State.hostWaits (s : State) (a : Nat) (dst : Endpoint) (vc : VC) : Bool := s.inWay (hostSide a) dst vc

/-- A piece of a host read through BAR4 (R29, R364, R437), completed on its own. One that a fence, a re-read, a re-centre or an earlier packet
holds goes on the mesh. -/
def State.bar4Read (s : State) (fn addr len : Nat) (chk : DramCheck) : State :=
  match s.bar4Target fn addr len false with
  | .ok (.dram a f) =>
    let c := (s.exp.locate (blockOf a)).1
    if s.chanHolds c || s.hostWaits addr (.chan c) .req then s.hostSend addr (.chan c) .req (.read a len f false (.bar4 fn len))
    else
      let r := s.dramRead f 0 chk (len / 512 + 2) a len
      r.1.completeRead fn len r.2.2 r.2.1
  | .ok (.spad n off) =>
    let p := s.physOf n
    let t := s.tile p
    if (s.mapEnt n).fenced || (s.spadOpen p && t.blocked off len) || s.hostWaits addr (s.tileEnd n) .req then
      s.hostSend addr (s.tileEnd n) .req (.spadRead off len (.bar4 fn len))
    else if !s.spadOpen p ∨ t.usable < off + len then s.completeRead fn len [] 0x0C
    else
      match (wordsOf off len).find? fun w => t.wordEcc w == .poisoned with
      | some w => (s.logEv (srcTile p) .poison (t.locOf w) (some 0) (some 1)).completeRead fn len [] 1
      | none => (s.noteCe p off len).completeRead fn len (t.bytes off len) 0
  | .ok _ => s.completeRead fn len [] 0x0C
  | .error st => s.completeRead fn len [] st

/-- A host read through BAR4 (R437), piece by piece. -/
def execBar4Read (fn addr len : Nat) (chk : DramCheck) (s : State) : Ans :=
  .next (
    if s.glb.st = .off then s
    else if !s.barOpen fn then s.emit (.unsupported fn)
    else (hostPieces addr (List.replicate len 0)).foldl (fun a e => a.bar4Read fn e.1 e.2.length chk) s)

/-- A piece of a host write through BAR4 (R25, R29, R219, R368, R437): one that is refused is dropped and logged. -/
def State.bar4Write (s : State) (fn addr : Nat) (data : List Byte) (chk : DramCheck) : State :=
  match s.bar4Target fn addr data.length true with
  | .ok (.dram a f) =>
    let c := (s.exp.locate (blockOf a)).1
    if s.chanHolds c || s.hostWaits addr (.chan c) .pst then
      s.hostSend addr (.chan c) .pst (.write a (bytesAt a data) f none false (.bar4 fn addr))
    else
      let r := s.dramWrite (bytesAt a data) (.bar4 fn addr) chk
      if r.2 = 0 then r.1 else r.1.logDrop srcHost addr
  | .ok (.spad n off) =>
    let p := s.physOf n
    let t := s.tile p
    let l := bytesAt off data
    if (s.mapEnt n).fenced || (s.spadOpen p && t.writeBlocked l) || s.hostWaits addr (s.tileEnd n) .pst then
      s.hostSend addr (s.tileEnd n) .pst (.spadWrite l none (.bar4 fn addr))
    else if !s.spadOpen p then s.logDrop srcHost addr
    else s.arriveWrite p l none (.bar4 fn addr)
  | .ok _ => s.logDrop srcHost addr
  | .error _ => s.logDrop srcHost addr

/-- A host write through BAR4 (R437), piece by piece. -/
def execBar4Write (fn addr : Nat) (data : List Byte) (chk : DramCheck) (s : State) : Ans :=
  .next (if !s.barOpen fn then s else (hostPieces addr data).foldl (fun a e => a.bar4Write fn e.1 e.2 chk) s)

end Sys2Proof.Machine
end

