-- ==== Sys2Proof/Machine/Sched.lean ====
section
/-! DEFINITION. The commands of the scheduler: doorbells (R270 to R274), queues (R267, R306), entries and packets (R275 to
R285), dispatch (R292 to R298), reports and records (R173, R286, R303 to R305), hitches (R222 to R228) and verdicts (R142,
R143, R360). -/

namespace Sys2Proof.Machine

/-! ## Doorbells -/

/-- Queue `x` enters ERROR with a reason (R267, R274): the first reason is kept, and a flush under way goes on. The entry in progress
goes, but for one whose packet-level record is still to post (R285). -/
def Queue.fail (x : Queue) (e : Nat) : Queue :=
  { x with st := if x.st = .flushing then .flushing else .error, err := if x.err = 0 then BitVec.ofNat 4 e else x.err,
           entry := match x.entry with
             | some e => if e.fault.isSome then some e else none
             | none => none }

/-- A doorbell write at BAR2 offset `off` (R265, R270 to R273): dropped and logged, or passed to `act` with its queue and
pointer. -/
def State.doorbell (s : State) (fn off size : Nat) (v : BitVec 64) (sub : Bool) (act : Nat → Queue → BitVec 32 → State) : State :=
  if !s.barOpen fn then s
  else if off % 64 = (if sub then 8 else 0) ∧ size = 8 then s
  else
    let q := off / 64
    let x := s.queue q
    let drop := s.logDrop srcSched off
    if off % 64 ≠ (if sub then 0 else 8) ∨ size ≠ 8 ∨ 32768 ≤ q ∨ 2 ^ 32 ≤ v.toNat then drop
    else if s.qFunc q ≠ fn ∨ x.st = .disabled ∨ (sub ∧ x.st = .error) then drop
    else act q x (v.setWidth 32)

/-- A submission doorbell sets `TAIL` (R270 to R273). -/
def execSubmissionDoorbell (fn off size : Nat) (v : BitVec 64) (s : State) : Ans :=
  .next (s.doorbell fn off size v true fun q x p =>
    if (p - x.head).toNat ≤ ringSize x.sqLog then s.modQueue q fun x => { x with tail := p }
    else if s.glb.st = .halted then s
    else s.modQueue q fun x => x.fail 1)

/-- A completion doorbell sets `CQ_HEAD` (R270 to R273). -/
def execCompletionDoorbell (fn off size : Nat) (v : BitVec 64) (s : State) : Ans :=
  .next (s.doorbell fn off size v false fun q x p =>
    if (x.cqTail - p).toNat ≤ (x.cqTail - x.cqHead).toNat then s.modQueue q fun x => { x with cqHead := p }
    else if s.glb.st = .halted then s
    else s.modQueue q fun x => x.fail 2)

/-! ## Queue registers -/

/-- The queue a function's `SCH_Q_SEL` selects. -/
def State.selQ (s : State) (fn : Nat) : Nat := (s.func fn).qsel.toNat

/-- A write of function `fn` to a queue register at scheduler offset `off` acts (R265, R416, R444): the block is available
and the queue is the function's own; a write aimed at another function's queue is dropped and logged. -/
def State.onQueue (s : State) (fn off : Nat) (act : Nat → State) : State :=
  if !s.barOpen fn || !s.blockUp 0x800000 then s
  else if s.qFunc (s.selQ fn) ≠ fn then s.logDrop srcSched off
  else act (s.selQ fn)

/-- A write to `SCH_Q_CFG` (R264, R267, R269, R274). Enabling sets every pointer to 0 and the phase to 1, of a queue that is not DISABLED
too: its records that have not posted go to the ring from its first slot. -/
def execQueueEnable (fn : Nat) (v : Word) (s : State) : Ans :=
  .next (s.onQueue fn 0x14 fun q =>
    let x := s.queue q
    let group := if (s.qgroup (getFld v 8 8)).func = fn then getFld v 8 8 else x.group
    let x1 := if x.st = .disabled then
        { x with cfg := setFld (setFld (v &&& 0xFFFFFF1E) 8 8 group) 0 1 0 } else x
    if v.getLsbD 0 then
      if x.st = .disabled then
        s.modQueue q fun _ => { x1 with cfg := setFld x1.cfg 0 1 1, st := .active, err := 0, head := 0, tail := 0, cqTail := 0
                                        cqHead := 0, entry := none, unsig := 0, cqHeld := false }
      else if x.enable then s
      else s.modQueue q fun x => { x with cfg := setFld x.cfg 0 1 1, cqHeld := false, head := 0, tail := 0, cqTail := 0, cqHead := 0
                                          entry := none }
    else
      (s.modQueue q fun _ => { x1 with
        cfg := setFld x1.cfg 0 1 0, err := 0, st := if x.st = .error then .active else x.st
        entry := match x.entry with
          | some e => if e.fault.isSome then some e else none
          | none => none }).settleQueue q)

/-- A flush (R306). A task that a fault has ended does not run again. -/
def State.flush (s : State) (q : Nat) : State :=
  let s1 := s.modQueue q fun x => { x with st := .flushing, head := x.tail, entry := none }
  let s2 := (s.queueTasks q).foldl (fun a e =>
    match e.2.st with
    | .running p k =>
      if e.2.lostTo then (a.modTask e.1 fun t => { t with lostTo := false }).modStrand p k fun x => { x with status := 0x0A }
      else a.endTask p k 0x0A
    | .retired => a
    | _ => a.retireOne e.1 0x0A false) s1
  ((s2.propagate s2.taskList.length).settleQueue q).settleTurns

/-- A write of 1 to `SCH_Q_CTL.FLUSH` (R306). -/
def execQueueFlush (fn : Nat) (v : Word) (s : State) : Ans :=
  .next (s.onQueue fn 0x2C fun q => if v.getLsbD 0 then s.flush q else s)

/-! ## Entries -/

/-- Entry reading from queue `q` waits for Bus Master Enable (R439). -/
def State.ringWaits (s : State) (q : Nat) : Bool := decide (0xC000000000 ≤ (s.queue q).sqBase.toNat) && !(s.func (s.qFunc q)).bme

/-- The fetch of a packet at `pkt` for queue `q` waits for Bus Master Enable (R439). -/
def State.fetchWaits (s : State) (q pkt : Nat) : Bool := decide (0xC000000000 ≤ pkt) && !(s.func (s.qFunc q)).bme

/-- Queue `q` has an entry to read, or an entry read whose packet it can fetch now (R267, R281). One whose packet waits holds up no other
queue (R282). -/
def State.hasEntry (s : State) (q : Nat) : Bool :=
  let x := s.queue q
  x.st == .active && x.enable && match x.entry with
    | none => x.head != x.tail && !s.ringWaits q
    | some e => match e.fetch with
      | some pkt => !s.fetchWaits q pkt
      | none => false

/-- Queue `q` comes before queue `r` among those with entries (R281): the higher effective priority, then the next after the one
read last. -/
def State.readsBefore (s : State) (q r : Nat) : Bool :=
  let d := fun n => (n + 32768 - s.sched.lastQ - 1) % 32768
  decide (s.effPrio r < s.effPrio q) || (s.effPrio q == s.effPrio r && decide (d q < d r))

/-- Log a bus error on a ring or packet read of the scheduler (R307, R389 TASK_STATUS). -/
def State.logFetch (s : State) (tag : Word) (st : Nat) : State :=
  if statusLogged st then s.logEv srcSched .taskStatus 0 (some tag) (some (BitVec.ofNat 32 st)) else s

/-- A packet-level record of the entry in progress (R283). -/
def State.packetFault (s : State) (q : Nat) (e : PendEntry) (st : Nat) : State :=
  (s.logFetch e.etag st).modQueue q fun x => { x with
    entry := some { e with fault := some st, fetch := none }
    recs := x.recs ++ [{ tag := e.etag, status := st, flags := if e.irq then 0x42 else 0x02, fin := s.glb.time % 2 ^ 32 }] }

/-- Offsets of a packet's edge list, wait list and end (R277). -/
def packetEnds (nt ne nx : Nat) : Nat × Nat × Nat :=
  let e0 := 64 + 64 * nt
  let w0 := e0 + (2 * ne + 63) / 64 * 64
  (e0, w0, w0 + (8 * nx + 63) / 64 * 64)

/-- Tasks, edges and wait entries of a packet whose header is in order (R277, R14). -/
def packetHeader (b : List Byte) (plen : Nat) : Option (Nat × Nat × Nat) :=
  let nt := fieldAt b 2 2
  let ne := fieldAt b 4 2
  let nx := fieldAt b 6 2
  let len := fieldAt b 8 4
  if fieldAt b 0 2 = 0x4750 ∧ 1 ≤ nt ∧ nt ≤ 256 ∧ ne ≤ 4096 ∧ nx ≤ 1024 ∧ len = (packetEnds nt ne nx).2.2 ∧ len = plen
      ∧ allZero (slice b 12 52) then some (nt, ne, nx) else none

/-- Entry `e` of queue `q` has its packet fetched from `pkt` (R277, R283), or waits for that (R439, R434, R363). -/
def State.fetchPacket (s : State) (q : Nat) (e : PendEntry) (pkt : Nat) (host : List Byte) (readOk : Bool) (chk : DramCheck) : State :=
  let f := s.qFunc q
  let later := fun (a : State) => a.modQueue q fun x => { x with entry := some { e with fetch := some pkt } }
  if s.fetchWaits q pkt then later s
  else
    let h : State × Nat × List Byte := s.devRead false f pkt 64 host readOk chk
    if h.2.1 = heldStatus then later h.1
    else if h.2.1 ≠ 0 then h.1.packetFault q e h.2.1
    else if (packetHeader h.2.2 e.plen).isNone then h.1.packetFault q e 0x0B
    else
      let p : State × Nat × List Byte := h.1.devRead false f pkt e.plen host readOk chk
      if p.2.1 = heldStatus then later p.1
      else if p.2.1 ≠ 0 then p.1.packetFault q e p.2.1
      else p.1.modQueue q fun x => { x with entry := some { e with bytes := p.2.2, fetch := none } }

/-- The next entry of queue `q` is read (R275, R276, R281, R283). -/
def State.readEntry (s : State) (q : Nat) (hostEntry hostPacket : List Byte) (readOk : Bool) (chk : DramCheck) : State :=
  let x := s.queue q
  let f := s.qFunc q
  let r := s.devRead false f (x.sqBase.toNat + x.head.toNat % ringSize x.sqLog * 64) 64 hostEntry readOk chk
  let s1 : State := { r.1 with sched := { r.1.sched with lastQ := q } }
  if r.2.1 = heldStatus then r.1
  else if r.2.1 = 0x0C then s1.modQueue q fun x => x.fail 3
  else if r.2.1 ≠ 0 then (s1.logFetch 0 r.2.1).modQueue q fun x => x.fail 4
  else
    let b := r.2.2
    let kind := fieldAt b 0 1
    let pkt := fieldAt b 8 8
    let e : PendEntry := { etag := BitVec.ofNat 32 (fieldAt b 4 4), irq := fieldAt b 1 1 % 2 == 1, plen := fieldAt b 16 4, bytes := [] }
    let clean := fieldAt b 1 1 < 2 ∧ fieldAt b 2 2 = 0 ∧ allZero (slice b 20 44)
    if !clean ∨ (kind ≠ 1 ∧ kind ≠ 2) ∨ (kind = 2 ∧ (pkt ≠ 0 ∨ e.plen ≠ 0)) ∨ (kind = 1 ∧ (2 ^ 40 ≤ pkt ∨ pkt % 64 ≠ 0)) then
      s1.packetFault q e 0x0B
    else if kind = 2 then
      (s1.modQueue q fun x => { x with
        head := x.head + 1
        markers := x.markers ++ [(s1.sched.nextUid, { tag := e.etag, status := 0, flags := if e.irq then 0x44 else 0x04 })] }).promoteMarkers q
    else s1.fetchPacket q e pkt hostPacket readOk chk

/-- The scheduler reads the next entry (R275, R276, R281, R283, R285), and fetches a GRAPH entry's packet; of an entry whose packet had to
wait, it fetches the packet. -/
def execEntryRead (q : Nat) (hostEntry hostPacket : List Byte) (readOk : Bool) (chk : DramCheck) (s : State) : Ans :=
  .next (
    if !s.hasEntry q || (s.sched.queues.map (·.1)).any (fun r => r != q && s.hasEntry r && s.readsBefore r q)
        || s.glb.st == .off || s.glb.st == .halted then s
    else
      match (s.queue q).entry.bind fun e => e.fetch.map fun pkt => (e, pkt) with
      | some (e, pkt) =>
        (({ s with sched := { s.sched with lastQ := q } } : State).fetchPacket q e pkt hostPacket readOk chk)
      | none => s.readEntry q hostEntry hostPacket readOk chk)

/-! ## Acceptance -/

/-- The edges of a task (R279): the predecessors by index with their ORDER bits; none for a malformed one. -/
def taskEdges (b : List Byte) (i ef np e0 : Nat) : Option (List (Nat × Bool)) :=
  let l := (List.range np).map fun j => fieldAt b (e0 + 2 * (ef + j)) 2
  if l.all fun e => e / 512 == 0 && decide (e % 256 < i) then some (l.map fun e => (e % 256, e.testBit 8)) else none

/-- The wait entries of a task (R280); none for a malformed one. -/
def taskWaits (b : List Byte) (wf nw w0 : Nat) : Option (List WaitEnt) :=
  let one := fun j =>
    let a := w0 + 8 * (wf + j)
    let k := fieldAt b a 1
    if k = 1 ∧ fieldAt b (a + 1) 3 = 0 then some (WaitEnt.tag (BitVec.ofNat 32 (fieldAt b (a + 4) 4)))
    else if k = 2 ∧ fieldAt b (a + 4) 4 = 0 then some (.hitch (fieldAt b (a + 1) 1) (BitVec.ofNat 16 (fieldAt b (a + 2) 2)))
    else none
  let l := (List.range nw).map one
  if l.all (·.isSome) then some (l.filterMap id) else none

/-- A task of a packet, its number `u0 + i`, and the faults found in its descriptor, edges and waits (R278, R284). -/
def packetTask (b : List Byte) (f q u0 i ne nx e0 w0 : Nat) : Task × List Nat :=
  let d := 64 + 64 * i
  let np := fieldAt b (d + 22) 1
  let nw := fieldAt b (d + 23) 1
  let ef := fieldAt b (d + 20) 2
  let wf := fieldAt b (d + 24) 2
  let fits := decide (np ≤ 64) && decide (nw ≤ 8) && decide (ef + np ≤ ne) && decide (wf + nw ≤ nx)
  let es := if fits then taskEdges b i ef np e0 else none
  let ws := if fits then taskWaits b wf nw w0 else none
  let clean := fieldAt b (d + 4) 1 < 128 ∧ fieldAt b (d + 7) 1 = 0 ∧ allZero (slice b (d + 26) 6)
  ({ func := f, queue := q, tag := BitVec.ofNat 32 (fieldAt b d 4), kernel := fieldAt b (d + 4) 1 % 64
     irq := (fieldAt b (d + 4) 1).testBit 6, lay := fieldAt b (d + 5) 1 % 16, stage := fieldAt b (d + 5) 1 / 16
     tile := fieldAt b (d + 6) 1, layVer := BitVec.ofNat 32 (fieldAt b (d + 8) 4), base := fieldAt b (d + 12) 4
     size := fieldAt b (d + 16) 4, opnds := (List.range 8).map fun j => BitVec.ofNat 32 (fieldAt b (d + 32 + 4 * j) 4)
     preds := (es.getD []).map fun e => { uid := u0 + e.1, order := e.2 }
     waits := ws.getD [] },
   [need (clean && es.isSome && ws.isSome) 0x0B])

/-- The packet may be accepted now (R282). -/
def State.roomFor (s : State) (q n : Nat) : Bool :=
  let g := (s.queue q).group
  let x := s.qgroup g
  x.enable && decide (s.taskList.length + n ≤ 16384)
    && (x.taskMax == 0 || decide ((s.taskList.filter fun e => s.groupOf e.2 == g).length + n ≤ x.taskMax))

/-- Task `t` enters as number `u` (R284, R288 to R290): predecessors that have retired count as retired, satisfied waits go, and a
fault retires it. -/
def State.enterTask (s : State) (u : Nat) (t : Task) (faults : List Nat) : State :=
  let dup := !s.tagFree t.func t.tag
  let bad := t.waits.any fun w => match w with
    | .hitch h _ => !(s.hitch h).alloc
    | _ => false
  let st := worst (faults ++ [need (!dup) 0x0B, need (!bad) 0x06])
  let preds := t.preds.map fun p => match s.task p.uid with
    | some x => if x.st = .retired then { p with done := some x.status } else p
    | none => p
  let s1 := { s.setTask u { t with preds := preds } with sched := { (s.setTask u { t with preds := preds }).sched with nextUid := u + 1 } }
  if st = 0 then s1 else s1.retireOne u st false

/-- A fetched packet is accepted when the limits allow, or forms a packet-level record (R14, R277, R282 to R285). -/
def execPacketAcceptance (q : Nat) (s : State) : Ans :=
  .next (
    let x := s.queue q
    match x.entry with
    | none => s
    | some e =>
      if e.fault.isSome || e.fetch.isSome || x.st != .active || s.glb.st == .halted || s.glb.st == .off then s
      else
        match packetHeader e.bytes e.plen with
        | none => s.packetFault q e 0x0B
        | some (nt, ne, nx) =>
          let ends := packetEnds nt ne nx
          let b := e.bytes
          let pads := allZero (slice b (ends.1 + 2 * ne) (ends.2.1 - (ends.1 + 2 * ne)))
            && allZero (slice b (ends.2.1 + 8 * nx) (ends.2.2 - (ends.2.1 + 8 * nx)))
          if !pads then s.packetFault q e 0x0B
          else if !s.roomFor q nt then s
          else
            let u0 := s.sched.nextUid
            let f := s.qFunc q
            let s1 := (List.range nt).foldl (fun a i =>
              let r := packetTask b f q u0 i ne nx ends.1 ends.2.1
              a.enterTask (u0 + i) r.1 r.2) s
            let s2 := s1.mapTasks fun t => if t.func = f ∧ t.queue = q ∧ t.st = .waiting then
                { t with waits := t.waits.filter fun w => !s1.waitMet f w } else t
            let s3 := s2.modQueue q fun x => { x with head := x.head + 1, entry := none }
            (s3.propagate s3.taskList.length).settleTurns)

/-! ## Dispatch -/

/-- The scheduler dispatches ready task `uid` (R33, R40, R164, R167, R287, R292 to R296), if no other ready task comes before it for
the same tile, by a message on CTL to the tile. A task whose window is not valid is refused here, before its tile looks up its kernel: one
with both faults ends with status 0x0B (notes/assumptions/62.md). -/
def execDispatch (uid : Nat) (s : State) : Ans :=
  .next (
    match s.task uid with
    | none => s
    | some t =>
      if !s.ready t || s.held t then s
      else
        match s.rigCheck t with
        | some st => (s.retire uid st).settleTurns
        | none =>
          match s.placeOf t with
          | none => s
          | some (p, k) =>
            let rival := fun (e : Nat × Task) =>
              e.1 != uid && s.ready e.2 && (s.rigCheck e.2).isNone
                && (match s.placeOf e.2 with | some (r, _) => r == p | none => false) && s.before e (uid, t)
            if s.taskList.any rival then s
            else if !s.windowOk p t then (s.retire uid 0x0B).settleTurns
            else if !s.crosses (coreSide p) (.tile p) then s
            else
              match k with
              | some k => (s.loadStrand p k uid).settleTurns
              | none =>
                (((s.setTask uid { t with st := .launch p }).setTurn p (some (s.groupOf t))).modTile p fun x =>
                  { x with launch := some uid }).settleTurns)

/-! ## Verdicts -/

/-- A verdict for the partial of token `e.2` to group `e.1` has arrived at the part's scheduler (R143). -/
def Task.decided (t : Task) (e : Nat × Nat) : Bool :=
  t.verds.any (fun v => v.1 == e.1 && v.2.1 == e.2) || t.aborted.contains e || t.aborted.contains (e.1, 64)

/-- What the verdicts of a part that has ended call for (R142, R143): a REPLAY dispatches it again for its tokens, whatever other tokens
still await, since their COMBINE may come behind; with every token decided otherwise it retires, with status 0x04 after a CLAMP. -/
def State.resolveVerdicts (s : State) (u : Nat) : State :=
  match s.task u with
  | none => s
  | some t =>
    if t.st ≠ .verdicts then s
    else
      let re := (t.verds.filter fun v => v.2.2 == 1).map fun v => (v.1, v.2.1)
      if !re.isEmpty then
        let toks := re.map (·.2)
        s.setTask u { t with
          st := .waiting, only := some toks, replays := t.replays + 1
          shifts := toks.foldl (fun a k => Tab.put a k (Tab.get 0 a k + 1)) t.shifts
          sent := t.sent.filter fun e => !re.contains e
          verds := t.verds.filter fun v => v.2.2 != 1 }
      else if t.sent.all t.decided then s.retire u (if t.verds.any fun v => v.2.2 == 2 then 0x04 else 0)
      else s

/-- Code of a verdict (R142). -/
def VerdictKind.code : VerdictKind → Nat
  | .accept => 0 | .replay => 1 | .clamp => 2 | .abort => 3

/-- A verdict for token `tok` of group `red` concerns the task: it has sent a partial that awaits it; or, for an ABORT, it has sent
partials to the group. -/
def Task.awaits (t : Task) (red tok : Nat) (v : VerdictKind) : Bool :=
  t.st != .retired && (if v = .abort then t.reds.contains red else t.sent.contains (red, tok) && !t.decided (red, tok))

/-- The task has a verdict. An ABORT decides each of its partials that is still to be decided, and those still to come (R142). -/
def Task.take (t : Task) (red tok : Nat) (v : VerdictKind) : Task :=
  if v = .abort then
    { t with aborted := t.aborted ++ [(red, tok)]
             verds := t.verds.filter fun w => !(w.1 == red && w.2.2 == 1 && (tok == 64 || w.2.1 == tok)) }
  else { t with verds := t.verds ++ [(red, tok, v.code)] }

/-- A verdict reaches the scheduler (R142, R143, R360): none when its group is unknown or no part awaits it. It goes to the oldest task of
the part's tile that awaits it, an ABORT to all of them. -/
def State.takeVerdict (s : State) (red tok : Nat) (v : VerdictKind) (part : Nat × Nat) : Option State :=
  match Tab.get none s.rig.reduce red with
  | none => none
  | some g =>
    if part.1 ≠ s.node ∨ !g.parts.contains part then none
    else
      let act := fun (a : State) (e : Nat × Task) => (a.modTask e.1 fun t => t.take red tok v).resolveVerdicts e.1
      match s.taskList.filter fun e => e.2.ltile == part.2 && e.2.awaits red tok v with
      | [] => none
      | e :: rest => some (if v = .abort then (e :: rest).foldl act s else act s e).settleTurns

/-- Log location of a grommet event. -/
def State.logLink (s : State) (p st : Nat) : State := s.logEv (srcPort p) .link 0 (some (BitVec.ofNat 32 st)) none

/-! ## Reports and records -/

/-- A task ended by a fault is ready to run again (R382). -/
def Task.again (t : Task) : Task := { t with st := .waiting, lostTo := false, reexec := true }

/-- The replays of an execution on strand `x` are counted (R138, R303). The record of a split-reduction part counts its executions after
the first instead (R143). -/
def Task.counted (t : Task) (x : Strand) : Task := if t.reds.isEmpty then { t with replays := t.replays + x.replays } else t

/-- An ending strand to which nothing is owed reports its completion on CTL (R33, R173, R205), behind what the tile has sent there before
(R25): the strand is FREE, the task retires or waits for
its verdicts, the launch-slot task loads and the turn is settled. -/
def execCompletionReport (tile strand : Nat) (s : State) : Ans :=
  .next (
    let x := s.strand tile strand
    if x.st ≠ .ending ∨ x.outRd ≠ 0 ∨ x.unacked ≠ 0 ∨ !s.tileRuns tile ∨ 8 ≤ strand ∨ !s.crosses (.tile tile) (coreSide tile) then s
    else
      let s1 := s.modTile tile fun t => t.setStrand strand {}
      let s2 := match s1.task x.uid with
        | none => s1
        | some t =>
          let t1 := t.counted x
          if t.lostTo then s1.setTask x.uid t1.again
          else if x.status = 0 ∧ !t.reds.isEmpty then (s1.setTask x.uid { t1 with st := .verdicts }).resolveVerdicts x.uid
          else (s1.setTask x.uid t1).retire x.uid x.status
      (s2.loadLaunch tile strand).settleTurns)

/-- A queue signals its vector (R305): a vector outside its function's table is dropped and logged. -/
def State.signal (s : State) (q : Nat) : State :=
  let x := s.queue q
  let s1 := s.modQueue q fun x => { x with unsig := 0 }
  if 32 ≤ x.vector.toNat then s1.logDrop srcSched 0
  else s1.msix (s.qFunc q) x.vector.toNat s.outputHold

/-- The 16 bytes of a record (R303) at completion pointer `ct` of a ring of `n` records. -/
def CRec.bytes (r : CRec) (ct n : Nat) : List Byte :=
  leBytes 4 r.tag.toNat ++ leBytes 1 r.status ++ leBytes 1 r.replay
    ++ leBytes 1 (r.flags.toNat + (if ct / n % 2 = 0 then 1 else 0)) ++ leBytes 1 r.tile ++ leBytes 4 r.start ++ leBytes 4 r.fin

/-- Write a record to the ring (R268, R304, R439): none when it waits for Bus Master Enable; else the state and whether the write was
refused. -/
def State.writeRecord (s : State) (q : Nat) (b : List Byte) : Option (State × Bool) :=
  let x := s.queue q
  let f := s.qFunc q
  let a := x.cqBase.toNat + x.cqTail.toNat % ringSize x.cqLog * 16
  if a < 0x8000000000 then
    if s.rangePermit false f a 16 true ≠ 0 then some (s, true)
    else
      let r := s.dramWrite (bytesAt a b) .none_ .clean
      some (r.1, r.2 != 0)
  else if 0xC000000000 ≤ a ∧ a + 16 ≤ 2 ^ 40 then
    if !(s.func f).bme then none
    else
      match s.hostPermit f a true, s.hostAddr f a with
      | 0, some h => some (s.emit (.hostWrite f h b), false)
      | _, _ => some (s, true)
  else some (s, true)

/-- The oldest formed record of a queue is posted (R267, R274, R276, R282, R285, R304, R305). -/
def execCompletionRecordPost (q : Nat) (s : State) : Ans :=
  .next (
    let x := s.queue q
    match x.recs with
    | [] => s
    | r :: rest =>
      let n := ringSize x.cqLog
      if !s.dispatching || x.cqHeld || decide (n ≤ (x.cqTail - x.cqHead).toNat) then s
      else
        match s.writeRecord q (r.bytes x.cqTail.toNat n) with
        | none => s
        | some (s1, true) => s1.modQueue q fun x => { x.fail 5 with cqHeld := true, entry := x.entry }
        | some (s1, false) =>
          let head := match x.entry with
            | some e => e.fault.isSome && r.flags.getLsbD 1
            | none => false
          let s2 := s1.modQueue q fun x => { x with
            recs := rest, cqTail := x.cqTail + 1, unsig := x.unsig + 1, unsigAt := if x.unsig = 0 then s1.glb.time else x.unsigAt
            head := if head then x.head + 1 else x.head, entry := if head then none else x.entry }
          let s3 := match r.uid with
            | some u => (s2.dropTask u).recheckTags (s.qFunc q)
            | none => s2
          let due := r.flags.getLsbD 6 || (x.modCount != 0 && decide (x.modCount ≤ x.unsig + 1))
          let s4 := if due then s3.signal q else s3
          (((s4.promoteMarkers q).settleQueue q).closeWindow).settle.settleTurns)

/-- `MOD_US` microseconds have passed since the first record not yet signalled (R305). -/
def execModUsExpiry (q : Nat) (s : State) : Ans :=
  .next (
    let x := s.queue q
    if x.modUs = 0 ∨ x.unsig = 0 ∨ s.glb.time < x.unsigAt + usTicks x.modUs then s else s.signal q)

/-! ## Hitches -/

/-- The round of hitch `h` is released (R222, R224): graph waits are checked, and every strand that arrived in it is told. -/
def State.releaseRound (s : State) (h : Nat) : State :=
  let x := s.hitch h
  let s1 := (s.setHitch h { x with gen := x.gen + 1, count := 0 }).recheckHitch h
  s1.taskList.foldl (fun a e =>
    match e.2.st with
    | .running p k =>
      (e.2.arrivals.filter fun r => r.1 == h && r.2 == x.gen).foldl (fun b _ =>
        b.send { src := coreSide p, dst := .tile p, vc := .ctl, body := .release h x.gen p k e.1 }) a
    | _ => a) s1

/-- An arrival reaches the scheduler (R223, R225, R227, R228): refused on a hitch the rig does not allocate or past its target; not
counted again when an earlier execution's arrival stands in the round; else counted, releasing the round at `TARGET`. -/
def execHitchArrival (i : Nat) (s : State) : Ans :=
  .next <| match s.deliverable i with
  | some { dst := .core _, body := .arrive h n uid p k _, .. } =>
    let s1 := s.unsend i
    let x := s.hitch h
    let stop := fun (a : State) (st : Nat) => if (a.strand p k).uid = uid then a.endTask p k st else a
    if !x.alloc then stop s1 0x06
    else
      match s.task uid with
      | some t =>
        if t.oldArr.contains (h, x.gen) then
          s1.setTask uid { t with oldArr := t.oldArr.erase (h, x.gen), arrivals := t.arrivals ++ [(h, x.gen)] }
        else if x.target < x.count.toNat + n then stop (s1.setHitch h { x with ovf := true }) 0x0B
        else
          let s2 := (s1.setHitch h { x with count := x.count + BitVec.ofNat 16 n }).setTask uid
            { t with arrivals := t.arrivals ++ [(h, x.gen)] }
          if x.count.toNat + n = x.target then (s2.releaseRound h).settleTurns else s2
      | none => s1
  | _ => s

/-- The TMCAST steps of strand `k` on the builder that have arrived on hitch `h` see one release of it: the one of their own round, the
last they wait for, lets them go on (R68). -/
def Tile.tellShare (t : Tile) (k h : Nat) : Tile :=
  t.setUnit 0 ((t.unit 0).map fun u =>
    if u.strand = k ∧ u.wait ∧ u.arrive.isNone ∧ fld u.ent.word 120 8 = h then { u with left := u.left - 1, wait := decide (1 < u.left) } else u)

/-- A release reaches a strand (R226): one arrival of it is released; a TMCAST that waited on the hitch sends its share (R68). -/
def execHitchRelease (i : Nat) (s : State) : Ans :=
  .next <| match s.deliverable i with
  | some { dst := .tile p, body := .release h _ _ k uid, .. } =>
    let s1 := s.unsend i
    let x := s.strand p k
    if x.uid ≠ uid ∨ x.st = .free then s1
    else
      ((s1.modStrand p k fun x => { x with arrived := Tab.put x.arrived h (Tab.get 0 x.arrived h - 1) }).modTile p fun t =>
        t.tellShare k h).pumpBld p
  | _ => s

/-- Hitch `h` is reset (R228, R288): its waits in progress end with status 0x06. -/
def State.resetHitch (s : State) (h : Nat) : State :=
  let s1 := s.setHitch h { s.hitch h with count := 0, gen := 0 }
  let s2 := s1.mapTasks fun t => { t with arrivals := t.arrivals.filter fun a => a.1 != h, oldArr := t.oldArr.filter fun a => a.1 != h }
  let s3 := (s2.tiles.map (·.1)).foldl (fun a p => (List.range 8).foldl (fun b k =>
    let x := b.strand p k
    let w := (b.tile p).step x.next
    if x.st = .waiting ∧ x.reason = .hitch ∧ opcodeOf w = 0x0D ∧ fld w 12 8 = h then b.endTask p k 0x06 else b) a) s2
  let hit := fun (e : Nat × Task) => e.2.st == .waiting && e.2.waits.any fun w => match w with
    | .hitch k _ => k == h
    | _ => false
  let s4 := (s3.taskList.filter hit).foldl (fun a e => a.retireOne e.1 0x06 false) s3
  s4.propagate s4.taskList.length

end Sys2Proof.Machine
end

