-- ==== Sys2Proof/Machine/Grommet.lean ====
section
/-! DEFINITION. The grommet: frames (R344 to R349), the link layer (R347 to R351), forwarding (R342, R343, R352), replies and
timeouts (R353 to R355), HELLO, CHANGE and EPOCH (R356 to R359), and the frames that reach this node (R341, R345, R360,
R361). -/

namespace Sys2Proof

/-! ## Header fields (R344) -/

/-- Field of a frame's header. -/
def WireFrame.fld (f : WireFrame) (lo n : Nat) : Nat := f.hdr.toNat / 2 ^ lo % 2 ^ n
/-- `DST`. -/
def WireFrame.dst (f : WireFrame) : Nat := f.fld 0 4
/-- `SRC`. -/
def WireFrame.src (f : WireFrame) : Nat := f.fld 4 4
/-- `VC`. -/
def WireFrame.vc (f : WireFrame) : Nat := f.fld 8 2
/-- `LANE`. -/
def WireFrame.lane (f : WireFrame) : Nat := f.fld 10 1
/-- `TYPE`. -/
def WireFrame.typ (f : WireFrame) : Nat := f.fld 11 5
/-- `LEN`. -/
def WireFrame.len (f : WireFrame) : Nat := f.fld 16 9
/-- `CODING`. -/
def WireFrame.coding (f : WireFrame) : Nat := f.fld 25 2
/-- `ADDR`. -/
def WireFrame.addr (f : WireFrame) : Nat := f.fld 36 40
/-- `SEP`. -/
def WireFrame.sep (f : WireFrame) : Nat := f.fld 76 7
/-- `RTAG`. -/
def WireFrame.rtag (f : WireFrame) : Nat := f.fld 83 16
/-- `TABLE`. -/
def WireFrame.table (f : WireFrame) : Nat := f.fld 99 8
/-- A reserved bit is set, or the type is reserved (R344, R345). -/
def WireFrame.reserved (f : WireFrame) : Bool := f.fld 27 1 != 0 || f.fld 107 21 != 0 || decide (10 ≤ f.typ)

end Sys2Proof

namespace Sys2Proof.Machine

/-- A header with `LEN` and `CODING` 0 (R344). -/
def mkHdr (dst src vc lane typ epoch addr sep rtag : Nat) : BitVec 128 :=
  BitVec.ofNat 128 (dst % 16 + src % 16 * 2 ^ 4 + vc % 4 * 2 ^ 8 + lane % 2 * 2 ^ 10 + typ % 32 * 2 ^ 11
    + epoch % 256 * 2 ^ 28 + addr % 2 ^ 40 * 2 ^ 36 + sep % 128 * 2 ^ 76 + rtag % 65536 * 2 ^ 83)

/-- A header with field `[lo + n - 1 : lo]` replaced. -/
def hdrSet (h : BitVec 128) (lo n v : Nat) : BitVec 128 :=
  BitVec.ofNat 128 (h.toNat - h.toNat / 2 ^ lo % 2 ^ n * 2 ^ lo + v % 2 ^ n * 2 ^ lo)

/-- Virtual channel of a frame type (R346), for a WR or SLOT by whether its bight is a combining bight. -/
def vcOf (typ : Nat) (combining : Bool) : Nat :=
  if typ = 0 then 0
  else if typ = 1 ∨ typ = 2 then (if combining then 2 else 0)
  else if typ = 3 ∨ typ = 4 ∨ typ = 5 then 1
  else if typ = 6 then 2
  else 3

/-! ## Link layer -/

/-- `EN`. -/
def Port.en (x : Port) : Bool := x.ctl.getLsbD 0
/-- `KEY_EN`. -/
def Port.keyed (x : Port) : Bool := x.ctl.getLsbD 2

/-- CRC of a frame: over the header, the payload, the tag and the sequence word (R347). -/
def frameCrc (hdr : BitVec 128) (pl tag : List Byte) (seq : BitVec 12) (rsv : BitVec 20) : BitVec 32 :=
  crc32c (leBytes 16 hdr.toNat ++ pl ++ tag ++ leBytes 4 (seq.toNat + rsv.toNat * 4096))

/-- Nonce of a frame (R349). -/
def gcmNonce (node port ctr : Nat) : List Byte := [BitVec.ofNat 8 (node % 16 + port % 4 * 16), 0, 0, 0] ++ leBytes 8 ctr

/-- Place of a link credit: `2 * VC + LANE`. -/
def creditKey (h : BitVec 128) : Nat := h.toNat / 2 ^ 8 % 4 * 2 + h.toNat / 2 ^ 10 % 2

/-- A port sends a new frame with the given payload (R347, R349): encrypted unless it is a HELLO, sequenced, kept in the
replay buffer. -/
def State.transmit (s : State) (q : Nat) (hdr : BitVec 128) (pl : List Byte) : State :=
  let x := s.port q
  let enc := x.keyed && hdr.toNat / 2 ^ 11 % 32 != 7
  let key := leBytes 16 x.key.toNat
  let nonce := gcmNonce s.node q x.txCtr.toNat
  let ct := if enc then gcmCrypt key nonce pl else pl
  let tag := if enc then gcmTag key nonce (leBytes 16 hdr.toNat) ct else []
  let f : WireFrame := { hdr := hdr, payload := ct, gcmTag := tag, seq := x.txSeq, rsv := 0, crc := frameCrc hdr ct tag x.txSeq 0 }
  (s.modPort q fun x => { x with
    txSeq := x.txSeq + 1, txCtr := x.txCtr + 1, replay := x.replay ++ [f], sends := x.sends ++ [1] }).emit (.frame q f)

/-- A port may take a new frame of virtual channel and lane `k`: it is UP, not being removed, its replay buffer has room and the
neighbour holds a buffer (R343, R350, R352). -/
def Port.ready (x : Port) (k : Nat) : Bool :=
  x.st == .up && !x.draining && decide (x.replay.length < 64) && decide (0 < Tab.get 0 x.credits k)

/-- Send a frame on a port that is ready for it, using one credit. -/
def State.sendFrame (s : State) (q : Nat) (hdr : BitVec 128) (pl : List Byte) : State :=
  (s.modPort q fun x => { x with credits := Tab.put x.credits (creditKey hdr) (Tab.get 0 x.credits (creditKey hdr) - 1) }).transmit q hdr pl

/-- A header is a HELLO's, which goes before any credit has come (R356). -/
def isHello (h : BitVec 128) : Bool := h.toNat / 2 ^ 11 % 32 == 7

/-- A link-state frame may go out of port `q` (R343, R346, R350): its replay buffer has room; and, but for a HELLO, the port's own, the
neighbour holds a buffer and the frame crosses the mesh on CTL from the always-on core. -/
def State.mgmtReady (s : State) (q : Nat) (h : BitVec 128) : Bool :=
  decide ((s.port q).replay.length < 64) && (isHello h ||
    (decide (0 < Tab.get 0 (s.port q).credits (creditKey h)) && s.crosses (coreSide (portAttach q).1) (.port q)))

/-- Link-state frames that wait at a port go while they may. -/
def State.pumpMq (s : State) (q : Nat) : Nat → State
  | 0 => s
  | n + 1 =>
    match (s.port q).mq with
    | [] => s
    | (h, pl) :: rest =>
      if !s.mgmtReady q h then s
      else
        let s1 := s.modPort q fun x => { x with mq := rest }
        (if isHello h then s1.transmit q h pl else s1.sendFrame q h pl).pumpMq q n

/-- Send a link-state frame (R361) on a port. -/
def State.sendMgmt (s : State) (q dst typ : Nat) (pl : List Byte) : State :=
  let h := hdrSet (mkHdr dst s.node 3 0 typ s.grm.epoch.num.toNat 0 0x7F 0) 16 9 pl.length
  let s1 := s.modPort q fun x => { x with mq := x.mq ++ [(h, pl)] }
  s1.pumpMq q (s1.port q).mq.length

/-- What a port makes of a frame that reaches it (R344, R345, R347, R349 to R351). -/
inductive Rx
  | none_                    -- no frame is expected in the port's state
  | bad                      -- the CRC fails, or it is out of sequence
  | tagFails
  | reserved
  | ok (pl : List Byte)      -- the payload, decrypted

/-- Check a frame that reaches port `p`: its CRC and sequence, then its tag, then its reserved parts. -/
def State.rx (s : State) (p : Nat) (f : WireFrame) : Rx :=
  let x := s.port p
  if 4 ≤ p ∨ s.pd (76 + p) ≠ 2 ∨ (x.st ≠ .up ∧ (x.st ≠ .hello ∨ f.typ ≠ 7)) then .none_
  else if f.crc ≠ frameCrc f.hdr f.payload f.gcmTag f.seq f.rsv ∨ f.seq ≠ x.rxSeq ∨ f.payload.length ≠ f.len ∨ 256 < f.len then .bad
  else
    let enc := x.keyed && f.typ != 7
    let key := leBytes 16 x.key.toNat
    let nonce := gcmNonce x.nb.toNat (oppPort p) x.rxCtr.toNat
    if enc && f.gcmTag != gcmTag key nonce (leBytes 16 f.hdr.toNat) f.payload then .tagFails
    else if f.reserved then .reserved
    else .ok (if enc then gcmCrypt key nonce f.payload else f.payload)

/-- A frame that passed its checks is acknowledged (R350). -/
def State.accept (s : State) (p : Nat) (f : WireFrame) (credit : Option Nat) : State :=
  (s.modPort p fun x => { x with rxSeq := x.rxSeq + 1, rxCtr := x.rxCtr + 1 }).emit (.linkCtl p false f.seq credit)

/-- A frame that goes no further is acknowledged, and its buffer's credit goes back (R350); a HELLO used none. -/
def State.took (s : State) (p : Nat) (f : WireFrame) : State := s.accept p f (if f.typ = 7 then none else some (creditKey f.hdr))

/-- The topology and this port's part in it are legal (R337). -/
def State.portLegal (s : State) (p : Nat) : Bool :=
  let X := s.grm.dimX.toNat
  let Y := s.grm.dimY.toNat
  if Y = 1 then decide (2 ≤ X) && decide (X ≤ 16) && p % 2 == 0
  else decide (2 ≤ X) && decide (X ≤ 4) && decide (2 ≤ Y) && decide (Y ≤ 4)

/-! ## Link state and epochs -/

/-- The word whose bits of the numbers in a list are 1. -/
def bitSet (w : Nat) (l : List Nat) : BitVec w := l.foldl (fun a i => a ||| BitVec.ofNat w (2 ^ i)) 0

/-- The bits of a word that are 1. -/
def bitList {w : Nat} (b : BitVec w) : List Nat := (List.range w).filter b.getLsbD

/-- Port map of this node: a bit for each port that is UP. -/
def State.upPorts (s : State) : BitVec 4 := bitSet 4 ((List.range 4).filter fun p => (s.port p).st == .up)

/-- This node's own report (R357). -/
def State.ownReport (s : State) : ChangeMsg :=
  { node := s.grm.node, ports := s.upPorts, serving := s.glb.st.serving, epoch := s.grm.maxEpoch }

/-- The report held of node `n`. -/
def State.report (s : State) (n : Nat) : Option ChangeMsg :=
  if n = s.node then some s.ownReport else Tab.get none (s.grm.reports.map fun e => (e.1, some e.2)) n

/-- The link at port `p` of node `n` is UP, so far as the reports say. -/
def State.linked (s : State) (n p : Nat) : Bool :=
  match s.report n with
  | none => false
  | some r => r.ports.getLsbD p && match s.report (facing s.grm.dimX.toNat s.grm.dimY.toNat n p) with
    | some m => m.ports.getLsbD (oppPort p)
    | none => true

/-- The nodes connected to those of a list, in `k` rounds. -/
def State.connect (s : State) : Nat → List Nat → List Nat
  | 0, l => l
  | k + 1, l => s.connect k (l.foldl (fun a n => (List.range 4).foldl (fun b p =>
      if s.linked n p then NSet.add b (facing s.grm.dimX.toNat s.grm.dimY.toNat n p) else b) a) l)

/-- The connected set of this node (R357), ascending. -/
def State.connected (s : State) : List Nat := s.connect 16 [s.node]

/-- The nodes of the connected set that report an UP port (R357), ascending. -/
def State.upNodes (s : State) : List Nat := s.connected.filter fun n => match s.report n with
  | some r => r.ports != 0
  | none => false

/-- This node leads (R357): it is the lowest node that is UP in the connected set, or none is UP there and the epoch in force still says
otherwise. -/
def State.leads (s : State) : Bool :=
  match s.upNodes with
  | n :: _ => n == s.node
  | [] => s.grm.epoch.up != 0

/-- The links as this node knows them now, from its own ports and the reports, in the form of an epoch record. -/
def State.liveRec (s : State) : EpochRec :=
  let X := s.grm.dimX.toNat
  let Y := s.grm.dimY.toNat
  let l := s.connected
  { num := 0, up := bitSet 16 l, transit := 0
    links := bitSet 64 (l.flatMap fun n =>
      ((List.range 4).filter fun p => s.linked n p || s.linked (facing X Y n p) (oppPort p)).map (4 * n + ·)) }

/-- The port toward node `d` over the links that are up now (R342, R357): the way of a link-state frame. -/
def State.liveRoute (s : State) (d : Nat) : Option Nat :=
  epRoute s.liveRec s.grm.dimX.toNat s.grm.dimY.toNat s.node d

/-- The bytes of a CHANGE and of an EPOCH. -/
def changeBytes (m : ChangeMsg) : List Byte :=
  [m.node.setWidth 8, BitVec.ofNat 8 (m.ports.toNat + if m.serving then 128 else 0)] ++ leBytes 4 m.epoch.toNat
@[inherit_doc changeBytes] def epochBytes (e : EpochRec) : List Byte :=
  leBytes 4 e.num.toNat ++ leBytes 2 e.up.toNat ++ leBytes 2 e.transit.toNat ++ leBytes 8 e.links.toNat

/-- Send a link-state frame to every node this node can reach (R357), each by its route over the links that are up now. -/
def State.tellAll (s : State) (typ : Nat) (pl : List Byte) : State :=
  (s.connected.filter fun d => d != s.node).foldl (fun a d =>
    match s.liveRoute d with
    | some q => if (a.port q).st = .up then a.sendMgmt q d typ pl else a
    | none => a) s

/-- Pass a link-state frame on to the other neighbours that its sender may not know of: all of them for news of a node `n` that the current
epoch does not hold, else those that the epoch does not hold. -/
def State.tellNew (s : State) (p typ n : Nat) (pl : List Byte) : State :=
  ((List.range 4).filter fun q => q != p && (s.port q).st == .up
      && (!s.grm.epoch.up.getLsbD n || !s.grm.epoch.up.getLsbD (s.port q).nb.toNat)).foldl (fun a q =>
    a.sendMgmt q (s.port q).nb.toNat typ pl) s

/-- A leader starts its wait of 5 microseconds (R357). -/
def State.collect (s : State) : State :=
  if s.leads then { s with grm := { s.grm with collecting := true } } else s

/-- This node reports a change of its own (R357): CHANGE goes to every node it can reach, and a leader starts its wait. -/
def State.reportChange (s : State) : State :=
  let m := s.ownReport
  let s1 := { s with grm := { s.grm with told := m.serving } }
  (s1.tellAll 8 (changeBytes m)).collect

/-- A device that has come into or left READY, RUNNING and DEGRADED reports it (R357). -/
def State.announce (s : State) : State :=
  if s.grm.told = s.glb.st.serving ∨ s.glb.st = .off ∨ s.glb.st = .halted then s else s.reportChange

/-- A port that is DOWN starts training if it is enabled, its domain is ON, the device drops no links and the topology is legal
(R337, R351, R361); the key written last takes effect (R349), and the change is reported (R357). -/
def State.train (s : State) (p : Nat) : State :=
  let x := s.port p
  if x.st ≠ .down ∨ !x.en ∨ s.pd (76 + p) ≠ 2 ∨ s.glb.st = .halted ∨ s.glb.st = .off ∨ !s.portLegal p ∨ 4 ≤ p then s
  else (s.modPort p fun x => { x with
    st := .training, key := if x.keyNew then x.keyData else x.key, txCtr := if x.keyNew then 0 else x.txCtr, keyNew := false }).reportChange

/-- Log a frame of port `p`, with the low bits of the sender's epoch (R344, R351). -/
def State.logFrame (s : State) (p st : Nat) (f : WireFrame) : State :=
  s.logEv (srcPort p) .link 0 (some (BitVec.ofNat 32 st)) (some (BitVec.ofNat 32 (f.fld 28 8)))

/-- Log a payload that fails its damage check (R348), with the low bits of the sender's epoch. -/
def State.logDamage (s : State) (p kind : Nat) (f : WireFrame) : State :=
  s.logEv (srcPort p) .damage (BitVec.ofNat 64 f.addr) (some (BitVec.ofNat 32 kind)) (some (BitVec.ofNat 32 (f.fld 28 8)))

/-- Link `p` goes DOWN (R351): its replay buffer is discarded, the event is logged and reported, and an enabled port retrains. -/
def State.linkFail (s : State) (p : Nat) (tag : Bool) : State :=
  let x := s.port p
  if x.st = .down ∨ x.st = .heldDown then s
  else
    let s1 := s.modPort p fun x => { x with
      st := .down, nbValid := false, replay := [], sends := [], credits := [], mq := [], draining := false
      flags := x.flags ||| (if x.st = .up then 0x10 else 0) ||| (if tag then 0x08 else 0) }
    let s2 := s1.logLink p 0
    s2.reportChange.train p

/-- A frame is for this node: it names it, or it is a HELLO, which is for the other end of the link (R356). -/
def State.isMine (s : State) (f : WireFrame) : Bool := f.dst == s.node || f.typ == 7

/-- A received frame: what passes its checks is taken by `act`; a frame whose tag fails takes the link down (R351). -/
def State.onFrame (s : State) (p : Nat) (f : WireFrame) (typs : List Nat) (act : State → List Byte → State) : State :=
  match s.rx p f with
  | .tagFails => s.linkFail p true
  | .ok pl => if typs.contains f.typ && s.isMine f then act (s.took p f) pl else s
  | _ => s

/-- This node takes a frame of another node's task (R358, R361): it is serving, and the source is in `UP`. -/
def State.hears (s : State) (f : WireFrame) : Bool := s.glb.st.serving && s.grm.epoch.up.getLsbD f.src

/-! ## Replies -/

/-- The pending frames that remain; a node's fence falls with the last frame toward it (R354). -/
def State.withPend (s : State) (d : Nat) (l : Tab PendFrame) : State :=
  { s with grm := { s.grm with
    pend := l, fenced := if l.any fun e => e.2.dst == d then s.grm.fenced else s.grm.fenced.del d } }

/-- The answer to a frame goes to its requester (R353), the writes that share a number together with their lowest status. -/
def State.answer (s : State) (p tag : Nat) (x : PendFrame) (data : List Byte) (st : Nat) : State :=
  let s2 := s.withPend x.dst (Tab.drop s.grm.pend tag)
  let w := worst [x.st, st]
  if x.read then s2.respond (.port p) x.who data w
  else
    match s2.grm.pend.find? fun e => !e.2.read && e.2.grp == x.grp with
    | some (t, y) => { s2 with grm := { s2.grm with pend := Tab.put s2.grm.pend t { y with st := worst [y.st, w] } } }
    | none => s2.ackTo (.port p) x.who w

/-- A frame that gets no reply ends with status 0x0D (R355), and the other frames of its write with it: the requester's task ends at once. -/
def State.endFrame (s : State) (p tag : Nat) (x : PendFrame) : State :=
  let s1 := s.withPend x.dst ((Tab.drop s.grm.pend tag).filter fun e => x.read || e.2.read || e.2.grp != x.grp)
  if x.read then s1.respond (.port p) x.who [] 0x0D else s1.ackTo (.port p) x.who 0x0D

/-- Place of pending frame `tag`. -/
def State.pendAt (s : State) (tag : Nat) : Option PendFrame := Tab.get none (s.grm.pend.map fun e => (e.1, some e.2)) tag

/-- The port that a reply to frames toward node `d` is taken at, for the source of its packets. -/
def State.portFor (s : State) (d : Nat) : Nat := (s.routeTo d).getD 0

/-- The lane on which a frame leaves through port `q`, having come in through port `p` on a lane (R343). -/
def State.laneAfter (s : State) (p q lane : Nat) : Nat :=
  if p % 2 ≠ q % 2 then 0
  else
    let n := if p % 2 = 0 then s.grm.dimX.toNat else s.grm.dimY.toNat
    let c := if p % 2 = 0 then s.node % s.grm.dimX.toNat else s.node / s.grm.dimX.toNat
    if (p < 2 ∧ c = 0) ∨ (2 ≤ p ∧ c = n - 1) then 1 else lane

/-- The port through which a frame with header `h` leaves (R342): a link-state frame goes over the links that are up now (R357). -/
def State.outPort (s : State) (h : BitVec 128) : Option Nat :=
  let d := h.toNat % 16
  if h.toNat / 2 ^ 11 % 32 = 8 ∨ h.toNat / 2 ^ 11 % 32 = 9 then s.liveRoute d else s.routeTo d

/-- The frames that wait in the buffers `k` of input port `p` move on, oldest first, each once its output port is ready for it (R352); a
frame that leaves its buffer returns the credit (R350). -/
def State.moveOn (s : State) (p k : Nat) : Nat → State
  | 0 => s
  | n + 1 =>
    match (s.port p).held.find? fun h => creditKey h.1 == k with
    | none => s
    | some h =>
      let gone := fun (a : State) =>
        (a.modPort p fun x => { x with held := x.held.erase h }).emit (.linkCtl p false ((a.port p).rxSeq - 1) (some k))
      match s.outPort h.1 with
      | none => (gone s).moveOn p k n
      | some q =>
        let hdr := hdrSet h.1 10 1 (s.laneAfter p q (h.1.toNat / 2 ^ 10 % 2))
        if (s.port q).ready (creditKey hdr) then ((gone s).sendFrame q hdr h.2).moveOn p k n else s

/-- The frames that wait in receive buffers move on where they can. -/
def State.moveAll (s : State) : State :=
  (List.range 4).foldl (fun a p => (List.range 8).foldl (fun b k => b.moveOn p k (b.port p).held.length) a) s

/-- A new epoch record takes effect (R354, R355, R357 to R359). -/
def State.applyEpoch (s : State) (e : EpochRec) : State :=
  let old := fun d => s.routeTo d
  let s0 := { s with grm := { s.grm with
    epoch := e, maxEpoch := if s.grm.maxEpoch.toNat < e.num.toNat then e.num else s.grm.maxEpoch
    leader := BitVec.ofNat 4 (((List.range 16).find? fun n => e.up.getLsbD n).getD s.node) } }
  let changed := (List.range 16).filter fun d => s0.routeTo d != old d && s0.grm.pend.any fun x => x.2.dst == d
  let s1 := { s0 with grm := { s0.grm with
    member := bitSet 16 ((List.range 16).filter s0.epMember)
    fenced := changed.foldl NSet.add s0.grm.fenced } }
  let s2 := (s1.grm.pend.filter fun x => !s1.isMember x.2.dst).foldl (fun a x =>
    match a.pendAt x.1 with
    | some y => a.endFrame (a.portFor y.dst) x.1 y
    | none => a) s1
  let s3 := s2.rig.bights.foldl (fun a b =>
    match b.2 with
    | some d =>
      if d.cnode ≠ a.node then a
      else (List.range d.slots).foldl (fun x j =>
        match (x.slotAt b.1 j).st, (x.slotAt b.1 j).prod with
        | .filling, some pr => if x.isMember pr.1 then x else x.slotApply .abandon b.1 j pr 0
        | _, _ => x) a
    | none => a) s2
  let gone := fun (x : State) (r : Nat) => match Tab.get none x.rig.reduce r with
    | some g => !x.isMember g.comb.1
    | none => false
  let s4 := s3.taskList.foldl (fun a t =>
    if t.2.sent.any fun y => gone s3 y.1 && !t.2.decided y then
      match t.2.st with
      | .running p k => a.endTask p k 0x0D
      | _ => a.retire t.1 0x0D
    else a) s3
  s4.moveAll.settleTurns.irq 2

/-! ## Port commands -/

/-- A write to `GRM_PORT_CTL` (R349, R351, R356). -/
def State.portCtl (s : State) (fn p : Nat) (v : Word) : State :=
  if 4 ≤ p ∨ !s.pfWrites fn (0x700000 + p * 0x10000) then s
  else if s.pd (76 + p) ≠ 2 then s.logDrop srcHost (0x700000 + p * 0x10000)
  else
    let x := s.port p
    let ctl := rwBits x.ctl v (if x.st = .down then 0x5 else 0x1)
    let s1 := s.modPort p fun x => { x with ctl := ctl }
    if ctl.getLsbD 0 then
      let s2 := s1.modPort p fun x => { x with draining := false }
      (if v.getLsbD 1 && x.st == .heldDown then (s2.modPort p fun x => { x with st := .down, nbValid := false }).reportChange else s2).train p
    else if x.st = .up ∧ !x.replay.isEmpty then s1.modPort p fun x => { x with draining := true }
    else if x.st = .heldDown then (if v.getLsbD 1 then (s1.modPort p fun x => { x with st := .down, nbValid := false }).reportChange else s1)
    else s1.linkFail p false

/-- A write of `GRM_PORT_CTL.EN`: 1 starts training; 0 completes the replay buffer, and the port goes DOWN. -/
def execPortEnable (fn port : Nat) (v : Word) (s : State) : Ans := .next (s.portCtl fn port v)

/-- A write of 1 to `GRM_PORT_CTL.RETRAIN` takes a port out of HELD_DOWN (R356). -/
def execPortRetrain (fn port : Nat) (v : Word) (s : State) : Ans := .next (if v.getLsbD 1 then s.portCtl fn port v else s)

/-- A link has trained: the port sends HELLO (R356). -/
def execLinkTrained (port : Nat) (s : State) : Ans :=
  .next (
    let x := s.port port
    if 4 ≤ port ∨ x.st ≠ .training ∨ s.pd (76 + port) ≠ 2 then s
    else
      let s1 := s.modPort port fun x => { x with
        st := .hello, txSeq := 0, rxSeq := 0, replay := [], sends := [], credits := [], mq := [], draining := false }
      let pl := [s.grm.node.setWidth 8, BitVec.ofNat 8 (port + if x.keyed then 128 else 0)]
        ++ leBytes 2 (s.grm.dimX.toNat + s.grm.dimY.toNat * 32) ++ leBytes 4 0x40 ++ leBytes 4 s.grm.epoch.num.toNat
        ++ leBytes 8 x.txCtr.toNat
      (s1.sendMgmt port (facing s.grm.dimX.toNat s.grm.dimY.toNat s.node port) 7 pl).reportChange)

/-- The fields of a HELLO's payload. -/
def helloOf (b : List Byte) : HelloMsg :=
  { node := BitVec.ofNat 4 (fieldAt b 0 1), dimX := BitVec.ofNat 5 (fieldAt b 2 2), dimY := BitVec.ofNat 3 (fieldAt b 2 2 / 32)
    port := BitVec.ofNat 2 (fieldAt b 1 1), device := BitVec.ofNat 32 (fieldAt b 4 4), keyEn := fieldAt b 1 1 / 128 == 1
    epoch := BitVec.ofNat 32 (fieldAt b 8 4) }

/-- Why a HELLO holds port `p` down (R356, R338): TOPO_MISMATCH, KEY_MISMATCH and DUP_ID in bits 0 to 2. -/
def State.helloFlags (s : State) (p : Nat) (h : HelloMsg) : BitVec 5 :=
  let X := s.grm.dimX.toNat
  let Y := s.grm.dimY.toNat
  let topo := h.node.toNat != facing X Y s.node p || h.dimX != s.grm.dimX || h.dimY != s.grm.dimY
  let key := h.keyEn != (s.port p).keyed
  let dup := (List.range 4).any fun q =>
    q != p && (s.port q).st == .up && (s.port q).nb == h.node && !(q == oppPort p && (if p % 2 = 0 then X else Y) == 2)
  (if topo then 1 else 0) ||| (if key then 2 else 0) ||| (if dup then 4 else 0)

/-- The empty receive buffers of a port, by `2 * VC + lane` (R343, R350). -/
def Port.room (x : Port) : List Nat :=
  (List.range 8).map fun k => Config.linkBuffers k - (x.held.filter fun h => creditKey h.1 == k).length

/-- A HELLO makes the port UP, and the neighbour learns of the port's empty buffers (R350); or it holds the port down (R356). -/
def execHello (port : Nat) (f : WireFrame) (s : State) : Ans :=
  .next (s.onFrame port f [7] fun s1 pl =>
    if (s.port port).st ≠ .hello then s1
    else
      let h := helloOf pl
      let fl := s.helloFlags port h
      let s2 := s1.modPort port fun x => { x with
        nbValid := true, nb := h.node, rxCtr := BitVec.ofNat 64 (fieldAt pl 12 8 + 1), st := if fl = 0 then .up else .heldDown
        flags := x.flags ||| fl }
      let s3 := { s2 with grm := { s2.grm with maxEpoch := if s2.grm.maxEpoch.toNat < h.epoch.toNat then h.epoch else s2.grm.maxEpoch } }
      if fl ≠ 0 then (s3.logFrame port 4 f).reportChange
      else
        let s4 := s3.emit (.linkCredits port (s3.port port).room)
        (s4.grm.reports.foldl (fun a r => if r.1 = a.node then a else a.sendMgmt port h.node.toNat 8 (changeBytes r.2)) s4).reportChange)

/-- A CHANGE reaches this node (R357): new information is kept and passed on, and the leader starts its wait. -/
def execChange (port : Nat) (f : WireFrame) (s : State) : Ans :=
  .next (s.onFrame port f [8] fun s1 pl =>
    let m : ChangeMsg := { node := BitVec.ofNat 4 (fieldAt pl 0 1), ports := BitVec.ofNat 4 (fieldAt pl 1 1)
                           serving := fieldAt pl 1 1 / 128 == 1, epoch := BitVec.ofNat 32 (fieldAt pl 2 4) }
    let n := m.node.toNat
    if n = s.node then s1
    else
      let fresh := s.report n != some m
      let s2 := { s1 with grm := { s1.grm with
        reports := Tab.put s1.grm.reports n m
        maxEpoch := if s1.grm.maxEpoch.toNat < m.epoch.toNat then m.epoch else s1.grm.maxEpoch } }
      (if fresh then s2.tellNew port 8 n (changeBytes m) else s2).collect)

/-- 5 microseconds after the first CHANGE the leader makes a new epoch (R357) and sends it to every node it can reach. -/
def execEpochIssue (s : State) : Ans :=
  .next (
    if !s.grm.collecting ∨ !s.leads ∨ s.glb.st = .off ∨ s.glb.st = .halted then s
    else
      let l := s.upNodes
      let e : EpochRec :=
        { num := s.grm.maxEpoch + 1
          up := bitSet 16 l
          transit := bitSet 16 (l.filter fun n => match s.report n with | some r => !r.serving | none => false)
          links := bitSet 64 (l.flatMap fun n => match s.report n with | some r => (bitList r.ports).map (4 * n + ·) | none => []) }
      let s1 := { s with grm := { s.grm with collecting := false } }
      (s1.tellAll 9 (epochBytes e)).applyEpoch e)

/-- An EPOCH reaches this node (R357, R359): a higher number takes effect, any other is ignored. -/
def execEpoch (port : Nat) (f : WireFrame) (s : State) : Ans :=
  .next (s.onFrame port f [9] fun s1 pl =>
    let e : EpochRec := { num := BitVec.ofNat 32 (fieldAt pl 0 4), up := BitVec.ofNat 16 (fieldAt pl 4 2)
                          transit := BitVec.ofNat 16 (fieldAt pl 6 2), links := BitVec.ofNat 64 (fieldAt pl 8 8) }
    if e.num.toNat ≤ s.grm.epoch.num.toNat then s1 else (s1.tellNew port 9 f.src (epochBytes e)).applyEpoch e)

/-! ## Link control words -/

/-- A replay buffer that has been completed takes a port that is being removed DOWN. -/
def State.drainPort (s : State) (p : Nat) : State :=
  if (s.port p).draining && (s.port p).replay.isEmpty then s.linkFail p false else s

/-- A NAK for sequence number `seq` (R350, R351): earlier frames have arrived; every frame from it on is sent again; one that has been sent
8 times takes the link down. -/
def execLinkNak (port : Nat) (seq : BitVec 12) (s : State) : Ans :=
  .next (
    let x := s.port port
    match x.replay.findIdx? fun f => f.seq == seq with
    | none => s
    | some k =>
      let rest := x.replay.drop k
      let sends := x.sends.drop k
      if sends.any fun n => decide (8 ≤ n) then s.linkFail port false
      else
        rest.foldl (fun a f => a.emit (.frame port f)) (s.modPort port fun x => { x with
          replay := rest, sends := sends.map (· + 1), cnt := satAdd x.cnt 16 16 1 }))

/-- A link control word acknowledges the frames up to sequence number `seq` and returns credits (R350); frames that waited for them move on. -/
def execLinkAck (port : Nat) (seq : BitVec 12) (credits : List Nat) (s : State) : Ans :=
  .next (
    let x := s.port port
    if 4 ≤ port ∨ (x.st ≠ .up ∧ x.st ≠ .hello) then s
    else
      let k := match x.replay.findIdx? fun f => f.seq == seq with
        | some k => k + 1
        | none => 0
      let cr := (List.range 8).foldl (fun a i => if credits.getD i 0 = 0 then a else Tab.put a i (Tab.get 0 a i + credits.getD i 0)) x.credits
      let s1 := s.modPort port fun x => { x with
        replay := x.replay.drop k, sends := x.sends.drop k, credits := cr }
      ((s1.pumpMq port (s1.port port).mq.length).moveAll).drainPort port)

/-- A link goes DOWN (R351), where its cause is at hand. -/
def execLinkDown (port : Nat) (cause : DownCause) (s : State) : Ans :=
  .next (
    let x := s.port port
    if 4 ≤ port then s
    else
      match cause with
      | .resends => if x.sends.any fun n => decide (8 ≤ n) then s.linkFail port false else s
      | .noProgress => if x.replay.isEmpty then s else s.linkFail port false
      | .tagFailure => if x.keyed && x.st == .up then s.linkFail port true else s
      | .laneLock => s.linkFail port false)

/-- A frame that fails its CRC or is out of sequence is discarded with a NAK (R350); one with a reserved type or a reserved bit is
discarded and logged (R344, R345). -/
def execFrameDiscard (port : Nat) (f : WireFrame) (s : State) : Ans :=
  .next (
    match s.rx port f with
    | .bad => (s.modPort port fun x => { x with cnt := satAdd x.cnt 0 16 1 }).emit (.linkCtl port true (s.port port).rxSeq none)
    | .reserved => (s.took port f).logFrame port 3 f
    | .tagFails => s.linkFail port true
    | _ => s)

/-! ## Forwarding -/

/-- A checked frame for another node waits in its receive buffer (R352) and moves on (R342, R343) once its output port can take it; one whose
destination cannot be reached is discarded. -/
def execFrameForward (port : Nat) (f : WireFrame) (s : State) : Ans :=
  .next (
    match s.rx port f with
    | .tagFails => s.linkFail port true
    | .ok pl =>
      if s.isMine f then s
      else
        let s1 := (s.accept port f none).modPort port fun x => { x with held := x.held ++ [(f.hdr, pl)] }
        s1.moveOn port (creditKey f.hdr) (s1.port port).held.length
    | _ => s)

/-! ## Injection -/

/-- Offset `o` of node `d`'s peer window lies in a combining bight (R139, R346). -/
def State.combiningAt (s : State) (d o : Nat) : Bool :=
  s.rig.bights.any fun b =>
    match b.2 with
    | some x => x.cnode == d && x.ctile == o / 0x1000000 && decide (x.region ≤ o % 0x1000000)
        && decide (o % 0x1000000 < x.region + x.slots * x.slotsz * 64)
        && s.rig.reduce.any fun r => match r.2 with | some g => g.cbight == b.1 | none => false
    | none => false

/-- Bight `b` is a combining bight. -/
def State.combining (s : State) (b : Nat) : Bool :=
  s.rig.reduce.any fun r => match r.2 with | some g => g.cbight == b | none => false

/-- Class and table that the coding windows give a window offset (R348); class 0 codes nothing. -/
def State.codeWindow (s : State) (o : Nat) : Nat × Nat :=
  match (List.range 8).find? fun i =>
      let a := Tab.get (0 : Word) s.grm.codeA i
      let b := Tab.get (0 : Word) s.grm.codeB i
      a.getLsbD 31 && decide (getFld a 0 17 * 65536 ≤ o) && decide (o < (getFld a 0 17 + getFld b 0 17) * 65536) with
  | some i => (getFld (Tab.get (0 : Word) s.grm.codeA i) 29 2, getFld (Tab.get (0 : Word) s.grm.codeB i) 24 8)
  | none => (0, 0)

/-- The payload of a frame as it is sent (R348), with `LEN`, `CODING` and `TABLE` in its header. -/
def State.codePayload (s : State) (h : BitVec 128) (cls table : Nat) (pl : List Byte) : BitVec 128 × List Byte :=
  let raw := (hdrSet h 16 9 pl.length, pl)
  if pl.length ≠ 256 then raw
  else
    match payloadEncode cls (s.exp.tbl table) pl with
    | some c => (hdrSet (hdrSet (hdrSet h 16 9 c.length) 25 2 cls) 99 8 table, c)
    | none => raw

/-- Logical tile of an endpoint, 0x7F for any other source (R344 `SEP`). -/
def State.sepOf (s : State) : Endpoint → Nat
  | .tile p => s.logOf p
  | .fenced n => n
  | _ => 0x7F

/-- A request tag that no pending frame holds. -/
def Grommet.freeTag (g : Grommet) : Nat :=
  ((List.range (g.pend.length + 1)).map fun i => (g.nextTag + i) % 65536).find? (fun t => !(g.pend.any fun e => e.1 == t)) |>.getD g.nextTag

/-- Frames a packet becomes: type, combining, destination, address, tag (none: a new one), payload. -/
structure Inject where
  typ  : Nat
  comb : Bool
  dst  : Nat
  addr : Nat
  rtag : Option Nat
  pl   : List Byte

/-- The frames of a packet for a grommet port (R345, R346, R353), and its requester where it has one. -/
def State.framesOf (s : State) : Body → List Inject × Option Requester
  | .read a _ _ _ who => ([{ typ := 0, comb := false, dst := peerNode a, addr := a / 64 * 64, rtag := none, pl := [] }], some who)
  | .write a data _ _ _ who =>
    ((byteRuns data).map fun r =>
      { typ := 1, comb := s.combiningAt (peerNode a) (peerOff a), dst := peerNode a, addr := r.1, rtag := none, pl := r.2 }, some who)
  | .slot m b j _ _ who =>
    match s.bightDecl b with
    | some d => ([{ typ := 2, comb := s.combining b, dst := d.cnode, addr := peerSpad d.cnode d.ctile (d.slotOff j), rtag := none
                    pl := [match m with | .claim => 1 | .full => 2 | .abandon => 3, BitVec.ofNat 8 b, BitVec.ofNat 8 j] }], some who)
    | none => ([], none)
  | .credit b r =>
    match s.bightDecl b with
    | some d =>
      let e := d.prod.getD r (0, 0)
      ([{ typ := 3, comb := false, dst := e.1, addr := peerSpad e.1 e.2 0, rtag := some 0, pl := leBytes 2 b }], none)
    | none => ([], none)
  | .response data st (.peer _ src _ tag) =>
    ([{ typ := 4, comb := false, dst := src, addr := st, rtag := some tag, pl := if st = 0 then data else [] }], none)
  | .ack st (.peer _ src _ tag) => ([{ typ := 5, comb := false, dst := src, addr := st, rtag := some tag, pl := [] }], none)
  | .verdict red tok v part =>
    ([{ typ := 6, comb := true, dst := part.1, addr := 0, rtag := some 0
        pl := leBytes 2 red ++ [BitVec.ofNat 8 tok, BitVec.ofNat 8 v.code, BitVec.ofNat 8 part.2] }], none)
  | _ => ([], none)

/-- One frame of a packet is sent from this node through port `q` (R343, R347 to R349, R353). -/
def State.injectOne (s : State) (q sep grp : Nat) (who : Option Requester) (x : Inject) : State :=
  let tag := x.rtag.getD s.grm.freeTag
  let h := mkHdr x.dst s.node (vcOf x.typ x.comb) 0 x.typ s.grm.epoch.num.toNat x.addr sep tag
  let w := if x.typ = 1 ∨ x.typ = 2 then s.codeWindow (peerOff x.addr) else (0, 0)
  let c := s.codePayload h w.1 w.2 x.pl
  let s1 := match who with
    | some r => { s with grm := { s.grm with
        nextTag := (tag + 1) % 65536, pend := Tab.put s.grm.pend tag { dst := x.dst, read := x.typ == 0, grp := grp, who := r } } }
    | none => s
  s1.sendFrame q c.1 c.2

/-- The node that a packet for a grommet port goes to, and the virtual channel of its frames (R346). -/
def State.lineOf (s : State) (b : Body) : Option (Nat × Nat) :=
  (s.framesOf b).1.head?.map fun x => (x.dst, vcOf x.typ x.comb)

/-- Packet `i` of the mesh, at its grommet port: no fence holds its source, its route leads there, and no packet ahead of it from its source
on its virtual channel is for the same port (R25) or, at whatever port, for the same node (R354). Packets of the grommet's virtual
channels do not wait for each other (R346). -/
def State.injectable (s : State) (i : Nat) : Option Packet :=
  match s.mesh[i]? with
  | none => none
  | some p =>
    let l := s.lineOf p.body
    let ahead := (s.mesh.take i).any fun q => q.src == p.src &&
      match q.dst with
      | .port _ => match s.lineOf q.body, l with
        | some a, some b => a.2 == b.2 && (q.dst == p.dst || a.1 == b.1)
        | _, _ => q.dst == p.dst && q.vc == p.vc
      | _ => false
    if reaches p.src p.dst && !ahead then some p else none

/-- The frames of a packet for node `x.dst` may go out of port `q`: it is ready for the first and has room and credits for all of them, and
each can have a tag of its own. -/
def State.canInject (s : State) (q : Nat) (x : Inject) (n : Nat) : Bool :=
  let k := vcOf x.typ x.comb * 2
  (s.port q).ready k && decide ((s.port q).replay.length + n ≤ 64) && decide (n ≤ Tab.get 0 (s.port q).credits k)
    && decide (s.grm.pend.length + n ≤ 65536)

/-- A packet at a grommet port is sent (R339, R342, R347, R354) once the port of its route can take it. A request toward a node that is no
member ends with status 0x0D (R355, R358); what has no requester is discarded where no route leads to its node. -/
def execFrameInject (i : Nat) (s : State) : Ans :=
  .next <| match s.injectable i with
  | some { src := src, dst := .port p, body := body, .. } =>
    let r := s.framesOf body
    let s1 := { s with mesh := s.mesh.eraseIdx i }
    match r.1 with
    | [] => s1
    | x :: rest =>
      if !s.glb.st.serving then s
      else
        match r.2, (if r.2.isSome && !s.isMember x.dst then none else s.routeTo x.dst) with
        | some who, none => if x.typ = 0 then s1.respond (.port p) who [] 0x0D else s1.ackTo (.port p) who 0x0D
        | none, none => s1
        | _, some q =>
          if s.grm.fenced.has x.dst ∨ !s.canInject q x (1 + rest.length) then s
          else r.1.foldl (fun a y => a.injectOne q (s.sepOf src) s1.grm.freeTag r.2 y) s1
  | _ => s

/-! ## Frames for this node -/

/-- The endpoint that answers a frame: the port on the route to its source. -/
def State.peerWho (s : State) (f : WireFrame) : Requester := .peer (s.portFor f.src) f.src f.sep f.rtag

/-- A read request from another node (R341, R353). -/
def execRdReq (port : Nat) (f : WireFrame) (s : State) : Ans :=
  .next (s.onFrame port f [0] fun s1 _ =>
    if !s.hears f then s1
    else
      let who := s.peerWho f
      match s1.ownWindow (peerOff (f.addr / 64 * 64)) false with
      | .ok (.spad t off) => s1.send { src := .port port, dst := s1.tileEnd t, vc := .req, body := .spadRead off 64 who }
      | .ok (.dram a fu) => s1.send { src := .port port, dst := .chan (s1.exp.locate a).1, vc := .req, body := .read a 64 fu false who }
      | .ok _ => s1.respond (.port port) who [] 0x0C
      | .error st => s1.respond (.port port) who [] st)

/-- The decoded payload of a write (R348), or its damage kind. -/
def State.framePayload (s : State) (f : WireFrame) (pl : List Byte) : Except Nat (List Byte) :=
  if f.coding = 0 then .ok pl else payloadDecode f.coding (s.exp.tbl f.table) pl

/-- A posted write from another node (R219, R341, R348, R353). -/
def execWr (port : Nat) (f : WireFrame) (s : State) : Ans :=
  .next (s.onFrame port f [1] fun s1 pl =>
    if !s.hears f then s1
    else
      let who := s.peerWho f
      match s1.framePayload f pl with
      | .error k => (s1.logDamage port k f).ackTo (.port port) who 0x05
      | .ok d =>
        let o := peerOff f.addr
        match s1.ownWindow o true, (if d.isEmpty then .error 0x0C else s1.ownWindow (o + d.length - 1) true) with
        | .ok (.spad t off), .ok (.spad t2 _) =>
          if t ≠ t2 then s1.ackTo (.port port) who 0x0C
          else s1.send { src := .port port, dst := s1.tileEnd t, vc := .pst, body := .spadWrite (bytesAt off d) (some (f.src, f.sep)) who }
        | .ok (.dram a fu), .ok (.dram b _) =>
          if a / 512 = b / 512 then
            s1.send { src := .port port, dst := .chan (s1.exp.locate a).1, vc := .pst, body := .write a (bytesAt a d) fu none true who }
          else
            let r := s1.dramWrite (bytesAt a d) .none_ .clean
            r.1.ackTo (.port port) who r.2
        | .error st, _ => s1.ackTo (.port port) who st
        | _, .error st => s1.ackTo (.port port) who st
        | _, _ => s1.ackTo (.port port) who 0x0C)

/-- A slot message from another node (R215, R345, R353): it reaches the consumer tile of its bight, which acknowledges it. -/
def execSlot (port : Nat) (f : WireFrame) (s : State) : Ans :=
  .next (s.onFrame port f [2] fun s1 pl =>
    if !s.hears f then s1
    else
      let who := s.peerWho f
      match s1.framePayload f pl with
      | .error k => (s1.logDamage port k f).ackTo (.port port) who 0x05
      | .ok d =>
        let m := match fieldAt d 0 1 with
          | 1 => some SlotMsg.claim
          | 2 => some .full
          | 3 => some .abandon
          | _ => none
        match m, s1.bightDecl (fieldAt d 1 1) with
        | some m, some b =>
          if b.cnode ≠ s.node then s1.ackTo (.port port) who 0x06
          else s1.send { src := .port port, dst := s1.tileEnd b.ctile, vc := .pst
                         body := .slot m (fieldAt d 1 1) (fieldAt d 2 1) (f.src, f.sep) 0 who }
        | _, _ => s1.ackTo (.port port) who 0x06)

/-- A credit comes back from another node (R213, R345, R346). -/
def execCredit (port : Nat) (f : WireFrame) (s : State) : Ans :=
  .next (s.onFrame port f [3] fun s1 pl =>
    if !s.hears f then s1
    else
      let b := fieldAt pl 0 2
      let t := peerOff f.addr / 0x1000000
      match s1.bightDecl b with
      | some d => match d.rank (s.node, t) with
        | some r => s1.send { src := .port port, dst := s1.tileEnd t, vc := .rsp, body := .credit b r }
        | none => s1
      | none => s1)

/-- A reply from another node (R353, R355): one whose request has ended is discarded. -/
def State.takeReply (s : State) (port : Nat) (f : WireFrame) (read : Bool) (data : List Byte) (st : Nat) : State :=
  match s.pendAt f.rtag with
  | some x => if x.read = read ∧ x.dst = f.src then s.answer port f.rtag x data st else s
  | none => s

/-- The status that a reply carries (R353); one that no completion record may carry (R9) counts as an uncorrectable error
(notes/assumptions/71.md). -/
def replyStatus (f : WireFrame) : Nat :=
  let st := f.addr % 256
  if st ≤ 0x0D ∨ st = 0x0F then st else 0x01

/-- Read data, or a status, for a local requester (R348, R353). -/
def execRdRsp (port : Nat) (f : WireFrame) (s : State) : Ans :=
  .next (s.onFrame port f [4] fun s1 pl =>
    if !s.hears f then s1
    else
      let st := replyStatus f
      if st ≠ 0 then s1.takeReply port f true [] st
      else
        match s1.framePayload f pl with
        | .ok d => s1.takeReply port f true d 0
        | .error k => (s1.logDamage port k f).takeReply port f true [] 0x05)

/-- An acknowledgement for a local requester (R204, R353). -/
def execWrAck (port : Nat) (f : WireFrame) (s : State) : Ans :=
  .next (s.onFrame port f [5] fun s1 _ => if s.hears f then s1.takeReply port f false [] (replyStatus f) else s1)

/-- A request without a reply for `GRM_TIMEOUT.LIMIT_US` microseconds ends its requester's task (R355). -/
def execReplyTimeout (rtag : Nat) (s : State) : Ans :=
  .next (match s.pendAt rtag with
    | some x => s.endFrame (s.portFor x.dst) rtag x
    | none => s)

/-- A verdict that the scheduler does not know is discarded and logged (R360). -/
def State.verdictOr (s : State) (src : BitVec 16) (st ep : Option Word) (red tok v part : Nat) : State :=
  let kind := match v with
    | 0 => some VerdictKind.accept
    | 1 => some .replay
    | 2 => some .clamp
    | 3 => some .abort
    | _ => none
  let lost := s.logEv src .link 0 st ep
  match kind with
  | some k => (s.takeVerdict red tok k (s.node, part)).getD lost
  | none => lost

/-- A combining task's verdict reaches the scheduler, from a tile of this node or in a frame (R142, R143, R345, R360). -/
def execVerdict (src : VerdictSrc) (s : State) : Ans :=
  .next <| match src with
  | .packet i =>
    match s.deliverable i with
    | some { dst := .core _, body := .verdict red tok v part, .. } =>
      (s.unsend i).verdictOr srcSched none none red tok v.code part.2
    | _ => s
  | .frame port f => s.onFrame port f [6] fun s1 pl =>
      if s.hears f then s1.verdictOr (srcPort port) (some 3) (some (BitVec.ofNat 32 (f.fld 28 8))) (fieldAt pl 0 2) (fieldAt pl 2 1) (fieldAt pl 3 1) (fieldAt pl 4 1) else s1

end Sys2Proof.Machine
end

