-- ==== Sys2Proof/Machine/Journal.lean ====
section
/-! DEFINITION. The configuration flash (R250) and its journal: records (R251, R252), commits, replay at start-up (R253) and
compaction (R255). The layouts of CHECKPOINT and RETIRE payloads are the model's (notes/assumptions/30.md). -/

namespace Sys2Proof.Machine

/-! ## Flash -/

/-- Flash offset of rig slot `n`. -/
def rigBase (n : Bool) : Nat := if n then 0x1800000 else 0
/-- Flash offset of service-firmware slot `n`. -/
def fwBase (n : Bool) : Nat := if n then 0x3400000 else 0x3000000
/-- Flash offset of the journal. -/
def journalBase : Nat := 0x3800000
/-- An erase sector. -/
def sectorSize : Nat := 65536
/-- Journal sectors. -/
def journalSectors : Nat := 64

/-- Erase `n` bytes from offset `a` and program `l` there. -/
def flashPut (m : Mem) (a n : Nat) (l : List Byte) : Mem :=
  (m.filter fun e => decide (e.1 < a)) ++ ((bytesAt a (l.take n)).filter fun e => e.2 != 0xFF) ++ (m.filter fun e => decide (a + n ≤ e.1))

/-- Program bytes over erased flash. -/
def flashProgram (m : Mem) (a : Nat) (l : List Byte) : Mem := flashPut m a l.length l

/-- Bytes of the flash. -/
def State.flashRead (s : State) (a n : Nat) : List Byte := Mem.read 0xFF s.flash a n

/-- Journal sector `i` is blank. -/
def blankSector (m : Mem) (i : Nat) : Bool :=
  !(m.any fun e => decide (journalBase + i * sectorSize ≤ e.1) && decide (e.1 < journalBase + (i + 1) * sectorSize))

/-- `SVC_JOURNAL.USED`: journal sectors that are not blank. -/
def State.journalUsed (s : State) : Nat := ((List.range journalSectors).filter fun i => !blankSector s.flash i).length

/-! ## Records -/

/-- A journal record. -/
structure JRec where
  kind : Nat
  seq  : Nat
  txn  : Nat
  data : List Byte
deriving DecidableEq, Repr

/-- Bytes a record occupies (R251). -/
def recSize (len : Nat) : Nat := (len + 51) / 32 * 32

/-- A record as it is programmed (R251). -/
def JRec.bytes (r : JRec) : List Byte :=
  let b := [0x4E, 0x4A, BitVec.ofNat 8 r.kind, 0] ++ leBytes 4 r.seq ++ leBytes 4 r.txn ++ leBytes 2 r.data.length ++ [0, 0]
    ++ r.data ++ List.replicate (recSize r.data.length - 20 - r.data.length) 0
  b ++ leBytes 4 (crc32c b).toNat

/-- The kinds of R252. -/
def kindLegal (k : Nat) : Bool := (decide (1 ≤ k) && decide (k ≤ 8)) || k == 0x0F

/-- The valid record at a journal offset, if any (R253 step 1). -/
def readRec (m : Mem) (o : Nat) : Option JRec :=
  let a := journalBase + o
  let h := Mem.read 0xFF m a 16
  let len := fieldAt h 12 2
  if fieldAt h 0 2 ≠ 0x4A4E ∨ 4076 < len ∨ !kindLegal (fieldAt h 2 1) ∨ sectorSize < o % sectorSize + recSize len then none
  else
    let b := Mem.read 0xFF m a (recSize len)
    if fieldAt b (recSize len - 4) 4 = (crc32c (b.take (recSize len - 4))).toNat then
      some { kind := fieldAt h 2 1, seq := fieldAt h 4 4, txn := fieldAt h 8 4, data := slice b 16 len }
    else none

/-- The records of a sector from offset `o`, with their offsets, to the first that is not valid. -/
def readSector (m : Mem) : Nat → Nat → List (Nat × JRec)
  | 0, _ => []
  | fuel + 1, o =>
    match readRec m o with
    | none => []
    | some r => (o, r) :: (if (o + recSize r.data.length) % sectorSize = 0 then [] else readSector m fuel (o + recSize r.data.length))

/-- Insert a record by `SEQ`. -/
def insertRec (x : Nat × JRec) : List (Nat × JRec) → List (Nat × JRec)
  | [] => [x]
  | y :: t => if x.2.seq < y.2.seq then x :: y :: t else y :: insertRec x t

/-- Every valid record of the journal, by `SEQ` (R253 steps 1 and 2). -/
def journalRecs (m : Mem) : List (Nat × JRec) :=
  ((List.range journalSectors).flatMap fun i => readSector m 2048 (i * sectorSize)).foldl (fun l x => insertRec x l) []

/-- The records whose `SEQ` follow one another from the first. -/
def gapless : List (Nat × JRec) → List (Nat × JRec)
  | [] => []
  | [x] => [x]
  | x :: y :: t => if y.2.seq = x.2.seq + 1 then x :: gapless (y :: t) else [x]

/-- The committed transactions of a gapless run, in order (R253 step 2): the records before each COMMIT. -/
def transactions : Nat → List JRec → List (List JRec)
  | 0, _ => []
  | _, [] => []
  | fuel + 1, r :: t =>
    if r.seq ≠ r.txn then transactions fuel t
    else
      let body := (r :: t).takeWhile fun x => x.txn == r.txn && x.kind != 0x0F
      match (r :: t).drop body.length with
      | c :: rest =>
        if c.kind = 0x0F ∧ c.txn = r.txn ∧ leNat c.data = body.length + 1 then body :: transactions fuel rest
        else transactions fuel t
      | [] => []

/-! ## State of the journal -/

/-- A rig slot of the journal. -/
def Journal.rig (j : Journal) (n : Bool) : FSlot := if n then j.rig1 else j.rig0
/-- Write a rig slot. -/
def Journal.setRig (j : Journal) (n : Bool) (x : FSlot) : Journal := if n then { j with rig1 := x } else { j with rig0 := x }
/-- A firmware slot of the journal. -/
def Journal.fw (j : Journal) (n : Bool) : FSlot := if n then j.fw1 else j.fw0
/-- Write a firmware slot. -/
def Journal.setFw (j : Journal) (n : Bool) (x : FSlot) : Journal := if n then { j with fw1 := x } else { j with fw0 := x }

/-- Code of a slot state. -/
def FSlotSt.code : FSlotSt → Nat
  | .empty => 0 | .writing => 1 | .valid => 2 | .bad => 3

/-- A slot in a snapshot. -/
def FSlot.bytes (x : FSlot) : List Byte :=
  [BitVec.ofNat 8 x.st.code, x.key.setWidth 8, x.reason, 0] ++ leBytes 4 x.ver.toNat ++ leBytes 4 x.len
    ++ (x.digest ++ List.replicate 32 0).take 32

/-- The slot a snapshot holds at offset `o`. -/
def slotAtBytes (b : List Byte) (o : Nat) : FSlot :=
  let st : FSlotSt := match fieldAt b o 1 with
    | 2 => .valid
    | 3 => .bad
    | 1 => .writing
    | _ => .empty
  { st := st, key := BitVec.ofNat 2 (fieldAt b (o + 1) 1), reason := BitVec.ofNat 8 (fieldAt b (o + 2) 1)
    ver := BitVec.ofNat 32 (fieldAt b (o + 4) 4), len := fieldAt b (o + 8) 4, digest := if st = .valid then slice b (o + 12) 32 else [] }

/-- A snapshot of the journal's state (R252 CHECKPOINT). -/
def Journal.snapshot (j : Journal) : List Byte :=
  j.rig0.bytes ++ j.rig1.bytes ++ j.fw0.bytes ++ j.fw1.bytes
    ++ [if j.boot then 1 else 0, if j.fwBoot then 1 else 0, j.revoked.setWidth 8, 0]
    ++ leBytes 2 j.tiles.length ++ j.tiles.map (BitVec.ofNat 8)
    ++ leBytes 2 j.banks.length ++ (j.banks.flatMap fun e => BitVec.ofNat 8 e.1 :: leBytes 8 e.2.toNat)
    ++ leBytes 4 j.lines.length ++ (j.lines.flatMap fun e => [BitVec.ofNat 8 e.1, BitVec.ofNat 8 e.2.1] ++ leBytes 2 e.2.2)

/-- The state a snapshot holds. -/
def ofSnapshot (b : List Byte) : Journal :=
  let nt := fieldAt b 180 2
  let nb := fieldAt b (182 + nt) 2
  let o := 184 + nt + 9 * nb
  let nl := fieldAt b o 4
  { rig0 := slotAtBytes b 0, rig1 := slotAtBytes b 44, fw0 := slotAtBytes b 88, fw1 := slotAtBytes b 132
    boot := fieldAt b 176 1 == 1, fwBoot := fieldAt b 177 1 == 1, revoked := BitVec.ofNat 4 (fieldAt b 178 1)
    tiles := (List.range nt).map fun i => fieldAt b (182 + i) 1
    banks := (List.range nb).map fun i => (fieldAt b (184 + nt + 9 * i) 1, BitVec.ofNat 64 (fieldAt b (185 + nt + 9 * i) 8))
    lines := (List.range nl).map fun i => (fieldAt b (o + 4 + 4 * i) 1, fieldAt b (o + 5 + 4 * i) 1, fieldAt b (o + 6 + 4 * i) 2) }

/-- Record a retirement (R373): a line, a bank or a tile. -/
def Journal.retire (j : Journal) (kind tile bank line : Nat) : Journal :=
  match kind with
  | 0 => { j with lines := j.lines ++ [(tile, bank, line)] }
  | 1 => { j with banks := Tab.put j.banks tile ((Tab.get (0 : BitVec 64) j.banks tile) ||| BitVec.ofNat 64 (2 ^ bank)) }
  | _ => { j with tiles := j.tiles.add tile }

/-- What one record of a committed transaction changes (R252, R424). -/
def Journal.apply (j : Journal) (r : JRec) : Journal :=
  let d := r.data
  let n := fieldAt d 0 1 == 1
  match r.kind with
  | 0x01 => j.setRig n { len := fieldAt d 1 4, ver := BitVec.ofNat 32 (fieldAt d 5 4) }
  | 0x02 => j.setRig n { st := .valid, len := fieldAt d 1 4, ver := BitVec.ofNat 32 (fieldAt d 5 4), digest := slice d 9 32
                         key := BitVec.ofNat 2 (fieldAt d 41 1) }
  | 0x03 => { j with boot := n }
  | 0x04 => j.setRig n { j.rig n with st := .bad, reason := BitVec.ofNat 8 (fieldAt d 1 1) }
  | 0x05 =>
    let m := fieldAt d 1 1 == 1
    let v : Word := BitVec.ofNat 32 (fieldAt d 2 4)
    match fieldAt d 0 1 with
    | 1 => j.setFw m { ver := v }
    | 2 => j.setFw m { st := .valid, ver := v, digest := slice d 6 32, key := BitVec.ofNat 2 (fieldAt d 38 1) }
    | 3 => { j with fwBoot := m }
    | _ => j.setFw m { j.fw m with st := .bad, reason := BitVec.ofNat 8 (fieldAt d 6 1) }
  | 0x06 => j.retire (fieldAt d 0 1) (fieldAt d 1 1) (fieldAt d 2 1) (fieldAt d 4 2)
  | 0x08 => { j with revoked := j.revoked ||| BitVec.ofNat 4 (2 ^ (fieldAt d 0 1 % 4)) }
  | _ => j

/-- What a committed transaction changes; a CHECKPOINT replaces the state. -/
def Journal.applyTxn (j : Journal) (t : List JRec) : Journal :=
  if t.any fun r => r.kind == 0x07 then ofSnapshot (t.flatMap fun r => if r.kind = 0x07 then r.data else [])
  else t.foldl Journal.apply j

/-- `TXN` of the newest committed CHECKPOINT among the records of the journal. -/
def newestCheckpoint (all : List (Nat × JRec)) : Option Nat :=
  let isCp := fun (t : List JRec) => t.any fun r => r.kind == 0x07
  (((transactions all.length (all.map (·.2))).filter isCp).filterMap fun t => t.head?.map (·.txn)).getLast?

/-- Replay at start-up (R253): from the newest committed CHECKPOINT, else from the first record; appending resumes at the start of
the next sector. -/
def replayJournal (m : Mem) : Journal :=
  let all := journalRecs m
  let start := match newestCheckpoint all with
    | some n => all.filter fun x => decide (n ≤ x.2.seq)
    | none => all
  let run := gapless start
  let txs := transactions run.length (run.map (·.2))
  let j := txs.foldl Journal.applyTxn {}
  match run.getLast? with
  | none => j
  | some (o, r) =>
    { j with
      seq := r.seq, pos := (o / sectorSize + 1) % journalSectors * sectorSize
      comm := match txs.getLast? with
        | some t => match t.getLast? with | some x => x.seq + 1 | none => 0
        | none => 0 }

/-! ## Commits -/

/-- Append one record: one that does not fit goes to the next sector, which is erased if it is not blank (R251, R253). -/
def appendRec (j : Journal) (m : Mem) (txn kind : Nat) (d : List Byte) : Journal × Mem :=
  let r : JRec := { kind := kind, seq := j.seq + 1, txn := txn, data := d }
  let b := r.bytes
  let pos := if sectorSize < j.pos % sectorSize + b.length then (j.pos / sectorSize + 1) % journalSectors * sectorSize else j.pos
  let m1 := if pos % sectorSize = 0 ∧ !blankSector m (pos / sectorSize) then flashPut m (journalBase + pos) sectorSize [] else m
  ({ j with seq := j.seq + 1, pos := (pos + b.length) % (journalSectors * sectorSize) }, flashProgram m1 (journalBase + pos) b)

/-- Commit a transaction (R251): its records, then COMMIT with their number, which takes effect. -/
def State.commit (s : State) (l : List (Nat × List Byte)) : State :=
  let txn := s.journal.seq + 1
  let r := l.foldl (fun (a : Journal × Mem) x => appendRec a.1 a.2 txn x.1 x.2) (s.journal, s.flash)
  let c := appendRec r.1 r.2 txn 0x0F (leBytes 4 (l.length + 1))
  let j := (l.map fun x => ({ kind := x.1, seq := 0, txn := 0, data := x.2 } : JRec)).foldl Journal.apply c.1
  { s with journal := { j with comm := c.1.seq }, flash := c.2 }

/-- Journal sector `i` holds valid records, all below `SEQ` `n`, or nothing valid. -/
def oldSector (m : Mem) (n i : Nat) : Bool := (readSector m 2048 (i * sectorSize)).all fun x => decide (x.2.seq < n)

/-- Step 2 of compaction (R255): every sector of which all records are older than `SEQ` `n` is erased, the oldest first. -/
def eraseOld (m : Mem) (n : Nat) : Mem :=
  (List.range journalSectors).foldl (fun m i =>
    if !blankSector m i && oldSector m n i then flashPut m (journalBase + i * sectorSize) sectorSize [] else m) m

/-- Step 2 of the compaction that made the newest CHECKPOINT is repeated at start-up (R255). -/
def repeatErase (m : Mem) : Mem :=
  match newestCheckpoint (journalRecs m) with
  | some n => eraseOld m n
  | none => m

/-- Compaction (R255): a CHECKPOINT of the state, then every older sector is erased. -/
def State.compact (s : State) : State :=
  let txn := s.journal.seq + 1
  let snap := s.journal.snapshot
  let s1 := s.commit ((chunks 4076 ((snap.length + 4075) / 4076) snap).map fun c => (0x07, c))
  { s1 with flash := eraseOld s1.flash txn }

end Sys2Proof.Machine
end

