-- ==== Sys2Proof/Machine/RigImage.lean ====
section
/-! DEFINITION. Images (R234 to R236, R423), their sections (R237 to R245), validation (R246 to R248) and the tile map
(R249). -/

namespace Sys2Proof.Machine

/-! ## Layout -/

/-- A directory entry (R235). -/
structure DirEnt where
  typ  : Nat
  tile : Nat
  off  : Nat
  len  : Nat
  crc  : Nat
deriving DecidableEq, Repr

/-- Why an image fails: reason (R257), `SECTION` and `ENTRY`. -/
structure ImgErr where
  reason : Nat
  sect   : Nat := 0xFF
  entry  : Nat := 0
deriving DecidableEq, Repr

/-- `VERSION`. -/
def imgVersion (b : List Byte) : Word := BitVec.ofNat 32 (fieldAt b 4 4)
/-- `IMAGE_LEN`. -/
def imgLen (b : List Byte) : Nat := fieldAt b 12 4
/-- `NSECT`. -/
def imgSects (b : List Byte) : Nat := fieldAt b 18 2
/-- `KIND`. -/
def imgKind (b : List Byte) : Nat := fieldAt b 20 1
/-- `TARGET`. -/
def imgTarget (b : List Byte) : Nat := fieldAt b 21 1
/-- `PROFILES`. -/
def imgProfiles (b : List Byte) : BitVec 4 := BitVec.ofNat 4 (fieldAt b 23 1)
/-- `KEY` of the signature block. -/
def imgKey (b : List Byte) : Nat := fieldAt b (imgLen b - 160) 1
/-- `DIGEST` of the signature block. -/
def imgDigest (b : List Byte) : List Byte := slice b (imgLen b - 192) 32

/-- Directory entry `i`. -/
def dirEnt (b : List Byte) (i : Nat) : DirEnt :=
  let o := 256 + 16 * i
  { typ := fieldAt b o 1, tile := fieldAt b (o + 1) 1, off := fieldAt b (o + 4) 4, len := fieldAt b (o + 8) 4, crc := fieldAt b (o + 12) 4 }

/-- The directory. -/
def directory (b : List Byte) : List DirEnt := (List.range (imgSects b)).map (dirEnt b)

/-- Fixed length of a section type of a rig image (R237); none for a type that is not legal or has no fixed length. -/
def sectLen (t : Nat) : Option Nat :=
  match t with
  | 1 => some 256 | 2 => some 448 | 3 => some 1024 | 4 => some 16384 | 5 => some 1024 | 6 => some 4096 | 7 => some 4352
  | 8 => some 65536
  | _ => none

/-- Type, length, alignment and place of a directory entry, and no overlap with the entries before it (R235, R237, R246 step 2). -/
def dirOk (fw : Bool) (b : List Byte) (i : Nat) : Bool :=
  let d := dirEnt b i
  let kind :=
    if fw then d.typ == 0x10 && d.tile == 0xFF
    else (d.typ == 9 && d.tile == 0xFF) || (sectLen d.typ == some d.len && (if d.typ = 8 then decide (d.tile < 68) else d.tile == 0xFF))
  kind && d.off % 64 == 0 && decide (256 + 16 * imgSects b ≤ d.off) && decide (d.off + d.len + 192 ≤ imgLen b)
    && (List.range i).all fun j =>
      let e := dirEnt b j
      d.len == 0 || e.len == 0 || decide (d.off + d.len ≤ e.off) || decide (e.off + e.len ≤ d.off)

/-- Step 1 of R246 for the kinds a command takes (R234, R423). -/
def headerOk (fw : Bool) (b : List Byte) (kinds : List Nat) : Bool :=
  let l := imgLen b
  fieldAt b 0 4 == (if fw then 0x5746514E else 0x4752514E) && fieldAt b 16 2 == 1 && l % 64 == 0
    && decide (l ≤ if fw then 4194304 else 25165824) && decide (l ≤ b.length)
    && decide (1 ≤ imgSects b) && decide (imgSects b ≤ if fw then 1 else 256) && decide (256 + 16 * imgSects b + 192 ≤ l)
    && kinds.contains (imgKind b) && (!fw || (fieldAt b 23 1 == 0 && fieldAt b 24 4 == 0))

/-- Steps 1 to 6 of R246: header, directory, CRCs, digest, key and signature. -/
def checkSigned (fw : Bool) (fuses : List (Option (List Byte))) (revoked : BitVec 4) (b : List Byte) (kinds : List Nat) : Option ImgErr :=
  if !headerOk fw b kinds then some { reason := 0x01 }
  else
    match (List.range (imgSects b)).find? fun i => !dirOk fw b i with
    | some i => some { reason := 0x07, sect := i }
    | none =>
      match (List.range (imgSects b)).find? fun i =>
          let d := dirEnt b i
          d.crc != (crc32c (slice b d.off d.len)).toNat with
      | some i => some { reason := 0x02, sect := i }
      | none =>
        let l := imgLen b
        let pub := slice b (l - 128) 64
        let hash := imgDigest b
        if sha256 (slice b 0 (l - 192)) ≠ hash then some { reason := 0x03 }
        else if imgKey b ≥ 4 ∨ revoked.getLsbD (imgKey b) ∨ (fuses.getD (imgKey b) none) ≠ some (sha256 pub) then some { reason := 0x04 }
        else if !ecdsaVerify pub hash (slice b (l - 64) 64) then some { reason := 0x05 }
        else none

/-! ## Sections -/

/-- The bytes of the section of type `t` (of tile `tile` for PSTORE). -/
def sectOf (b : List Byte) (t tile : Nat) : Option (List Byte) :=
  ((directory b).find? fun d => d.typ == t && d.tile == tile).map fun d => slice b d.off d.len

/-- Directory index of the section of type `t`, 0xFF for none. -/
def sectIndex (b : List Byte) (t tile : Nat) : Nat :=
  ((List.range (imgSects b)).find? fun i => (dirEnt b i).typ == t && (dirEnt b i).tile == tile).getD 0xFF

/-- The present entries of a table of `n`. -/
def tabOf {α : Type} (n : Nat) (f : Nat → Option α) : Tab (Option α) := (List.range n).filterMap fun i => (f i).map fun x => (i, some x)

/-- An endpoint: node then tile. -/
def endAt (b : List Byte) (o : Nat) : Nat × Nat := (fieldAt b o 1, fieldAt b (o + 1) 1)

/-- Lay entry `i` (R239). -/
def layAt (b : List Byte) (i : Nat) : Option LayEnt :=
  if fieldAt b (16 * i) 1 % 2 = 1 then some { nstage := fieldAt b (16 * i + 1) 1, ver := BitVec.ofNat 32 (fieldAt b (16 * i + 4) 4) } else none
/-- Placement of logical tile `l` (R239). -/
def placeAt (b : List Byte) (l : Nat) : Option (Nat × Nat) :=
  let p := fieldAt b (256 + 2 * l) 2
  if p.testBit 8 then some (p % 16, p / 16 % 16) else none
/-- Multicast group `g` (R240). -/
def mcastAt (b : List Byte) (g : Nat) : Option McastGroup :=
  let o := 16 * g
  let m := fieldAt b (o + 4) 9
  if fieldAt b o 1 % 2 = 1 then
    some { share := fieldAt b o 1 / 2 % 2 == 1, lay := fieldAt b (o + 1) 1, src := fieldAt b (o + 2) 1, shareset := fieldAt b (o + 3) 1
           dest := (List.range 72).filter fun i => m.testBit i }
  else none
/-- Bight `n` (R241). -/
def bightAt (b : List Byte) (n : Nat) : Option BightDecl :=
  let o := 64 * n
  if fieldAt b o 1 % 2 = 1 then
    some { lay := fieldAt b (o + 1) 1, cnode := fieldAt b (o + 2) 1, ctile := fieldAt b (o + 3) 1, region := fieldAt b (o + 4) 4
           slotsz := fieldAt b (o + 8) 2, slots := fieldAt b (o + 10) 1, nprod := fieldAt b (o + 11) 1, tps := fieldAt b (o + 12) 1
           tstride := fieldAt b (o + 14) 2, prod := (List.range (min 16 (fieldAt b (o + 11) 1))).map fun i => endAt b (o + 16 + 2 * i) }
  else none
/-- Hitch `h` (R242). -/
def hitchAt (b : List Byte) (h : Nat) : Option (Nat × Nat) :=
  if fieldAt b (4 * h + 3) 1 % 2 = 1 then some (fieldAt b (4 * h) 2, fieldAt b (4 * h + 2) 1) else none
/-- Target and lay of hitch entry `h` whose ALLOC is clear (R242). -/
def idleHitch (b : List Byte) (h : Nat) : Option (Nat × Nat) :=
  let e := (fieldAt b (4 * h) 2, fieldAt b (4 * h + 2) 1 % 16)
  if fieldAt b (4 * h + 3) 1 % 2 = 1 ∨ e = (0, 0) then none else some e
/-- Reduction group `r` (R243). -/
def reduceAt (b : List Byte) (r : Nat) : Option RedGroup :=
  let o := 64 * r
  if fieldAt b o 1 % 2 = 1 then
    some { lay := fieldAt b (o + 1) 1, n := fieldAt b (o + 2) 1, cbight := fieldAt b (o + 3) 1, comb := endAt b (o + 4)
           parts := (List.range (min 8 (fieldAt b (o + 2) 1))).map fun i => endAt b (o + 8 + 2 * i) }
  else none

/-- The structure an image of any kind carries, less what it lacks. -/
def rigOf (b : List Byte) : Rig :=
  let sec := fun t => (sectOf b t 0xFF).getD []
  let tiles := sec 1
  { version := imgVersion b, degraded := fieldAt b 22 1 % 2 == 1, profiles := imgProfiles b, key := imgKey b
    spares := (List.range (min 4 (fieldAt tiles 0 1))).map fun i => fieldAt tiles (4 + i) 1
    minb := (List.range 68).filterMap fun l => if fieldAt tiles (8 + l) 1 = 0 then none else some (l, fieldAt tiles (8 + l) 1)
    lays := tabOf 16 (layAt (sec 2)), place := tabOf 68 (placeAt (sec 2)), mcast := tabOf 64 (mcastAt (sec 3))
    bights := tabOf 256 (bightAt (sec 4)), hitches := tabOf 256 (hitchAt (sec 5))
    idle := (List.range 256).filterMap fun h => (idleHitch (sec 5) h).map fun e => (h, e)
    reduce := tabOf 64 (reduceAt (sec 6))
    masks := (List.range 4352).filterMap fun i => if fieldAt (sec 7) i 1 = 0 then none else some (i, fieldAt (sec 7) i 1)
    pstores := (List.range 68).filterMap fun l => (sectOf b 8 l).map fun d => (l, d) }

/-! ## Content -/

/-- First bit of a step that lies outside every field of its opcode (R178 to R185). -/
def fieldsEnd (op : Nat) : Nat :=
  match op with
  | 0x00 => 12 | 0x01 => 116 | 0x02 => 128 | 0x03 => 50 | 0x04 => 116 | 0x05 => 93 | 0x06 => 128 | 0x07 => 35 | 0x08 => 20
  | 0x09 => 24 | 0x0A => 24 | 0x0B => 20 | 0x0C => 36 | 0x0D => 20 | 0x0E => 66 | _ => 53

/-- A kernel step that a rig may hold (R247): no reserved opcode, mode or vector operation, no nonzero reserved field. -/
def stepOk (w : BitVec 128) : Bool :=
  let op := opcodeOf w
  decide (op < 16) && w.toNat / 2 ^ fieldsEnd op == 0
    && !((op == 1 || op == 2 || op == 4) && decide (4 < fld w 12 3)) && !(op == 6 && decide (0x2E ≤ fld w 12 6))

/-- The first kernel of a program store that breaks R175, R176 or R247, its entry's reserved bits included (R14). -/
def badKernel (ps : List Byte) : Option Nat :=
  (List.range 64).find? fun m =>
    let d := kernelDir (fun a n => slice ps a n) m
    let w := fieldAt ps (8 * m) 8
    bitsOf w 24 8 != 0 || bitsOf w 49 15 != 0 || d.valid && !(decide (32 ≤ d.entry) && decide (1 ≤ d.count) && decide (d.entry + d.count ≤ 4096)
      && (List.range d.count).all fun i => stepOk (BitVec.ofNat 128 (fieldAt ps (16 * (d.entry + i)) 16)))

/-- Kernel `m` of a program store is VALID. -/
def kernelValid (ps : Option (List Byte)) (m : Nat) : Bool :=
  match ps with
  | some b => (kernelDir (fun a n => slice b a n) m).valid
  | none => false

/-- Lay `n` is present. -/
def Rig.present (r : Rig) (n : Nat) : Bool := (Tab.get none r.lays n).isSome
/-- Placement of a logical tile. -/
def Rig.placeOf (r : Rig) (l : Nat) : Option (Nat × Nat) := Tab.get none r.place l
/-- Placed logical tiles, ascending. -/
def Rig.placed (r : Rig) : List Nat := (List.range 68).filter fun l => (r.placeOf l).isSome
/-- `MINB`. -/
def Rig.minBanks (r : Rig) (l : Nat) : Nat := Tab.get 0 r.minb l

/-- Endpoints rise strictly, by node and then by tile. -/
def ascending : List (Nat × Nat) → Bool
  | a :: b :: t => (decide (a.1 < b.1) || (a.1 == b.1 && decide (a.2 < b.2))) && ascending (b :: t)
  | _ => true

/-- The first number below `n` that fails a check. -/
def firstBad (n : Nat) (ok : Nat → Bool) : Option Nat := (List.range n).find? fun i => !ok i

/-- TILES (R238, R247); entries are numbered 0 for `NSPARE`, 1 + i for `SPARE[i]`, 5 + l for `MINB[l]`. -/
def badTiles (t : List Byte) (r : Rig) : Option Nat :=
  firstBad 73 fun e =>
    let n := fieldAt t 0 1
    if e = 0 then decide (n ≤ 4)
    else if e < 5 then
      let s := fieldAt t (3 + e) 1
      if e ≤ n then decide (s < 68) && (e == 1 || decide (fieldAt t (2 + e) 1 < s)) else s == 0xFF
    else
      let m := fieldAt t (3 + e) 1
      if (r.placeOf (e - 5)).isSome then decide (1 ≤ m) && decide (m ≤ 64) else m == 0

/-- LAYS (R39, R239, R247); entries are the lays, then 16 + l for `PLACE[l]`. `r` is the rig as it will run. -/
def badLays (b : List Byte) (r : Rig) : Option Nat :=
  firstBad 84 fun e =>
    if e < 16 then
      (e != 0 || (List.range 16).any fun i => (layAt b i).isSome)
        && match layAt b e with
        | some l => decide (1 ≤ l.nstage) && decide (l.nstage ≤ 16) && (List.range l.nstage).all fun st =>
            (List.range 68).any fun t => r.placeOf t == some (e, st)
        | none => true
    else
      match placeAt b (e - 16) with
      | some (l, st) => !r.spares.contains (e - 16) && match layAt b l with
        | some x => decide (st < x.nstage)
        | none => false
      | none => fieldAt b (256 + 2 * (e - 16)) 2 % 256 == 0

/-- The groups of table-share set `n` (R67). -/
def Rig.shareGroups (r : Rig) (n : Nat) : List (Nat × McastGroup) := r.mcast.filterMap fun e =>
  match e.2 with
  | some g => if g.share ∧ g.shareset = n then some (e.1, g) else none
  | none => none

/-- A table-share set is well made (R67): 2, 4, 8 or 16 members, one group each, with the others as its destinations; no tile in two
sets. -/
def Rig.shareOk (r : Rig) (n : Nat) : Bool :=
  let gs := (r.shareGroups n).map (·.2)
  let mem := gs.map (·.src)
  (gs.isEmpty || [2, 4, 8, 16].contains gs.length) && decide (mem.eraseDups.length = mem.length)
    && gs.all (fun g => (List.range 72).all fun t => g.dest.contains t == (mem.contains t && t != g.src))
    && (List.range 16).all fun k => k == n || ((r.shareGroups k).all fun g => !mem.contains g.2.src)

/-- MCAST (R27, R67, R240, R247). -/
def badMcast (b : List Byte) (r : Rig) : Option Nat :=
  firstBad 64 fun g =>
    match mcastAt b g with
    | none => true
    | some x => r.present x.lay && decide (x.src < 68) && x.dest.all (fun t => decide (t < 68)) && decide (1 ≤ x.dest.length)
        && decide (x.dest.length ≤ 64) && !x.dest.contains x.src && (!x.share || (decide (x.shareset < 16) && r.shareOk x.shareset))

/-- BIGHTS (R211, R212, R241, R247); the bound of `REGION` is checked for consumers on this node. -/
def badBights (b : List Byte) (r : Rig) (node : Nat) : Option Nat :=
  firstBad 256 fun n =>
    match bightAt b n with
    | none => true
    | some d =>
      r.present d.lay && decide (d.cnode < 16) && decide (d.ctile < 68) && d.region % 64 == 0
        && decide (1 ≤ d.slotsz) && decide (d.slotsz ≤ 16384) && decide (2 ≤ d.slots) && decide (d.slots ≤ 64)
        && decide (1 ≤ d.nprod) && decide (d.nprod ≤ 16) && d.slots % d.nprod == 0
        && d.prod.all (fun e => decide (e.1 < 16) && decide (e.2 < 68)) && ascending d.prod
        && (List.range (16 - d.nprod)).all (fun i => fieldAt b (64 * n + 16 + 2 * (d.nprod + i)) 2 == 0xFFFF)
        && decide (1 ≤ d.tps) && decide (d.tps ≤ 64) && decide (d.tps * d.tstride ≤ d.slotsz)
        && (d.cnode != node || decide (d.region + d.slots * d.slotsz * 64 ≤ r.minBanks d.ctile * 65536))

/-- HITCHES (R242, R247). -/
def badHitches (b : List Byte) (r : Rig) : Option Nat :=
  firstBad 256 fun h =>
    match hitchAt b h with
    | some (t, l) => decide (1 ≤ t) && r.present l
    | none => true

/-- REDUCE (R139, R243, R247). -/
def badReduce (b : List Byte) (r : Rig) : Option Nat :=
  firstBad 64 fun i =>
    match reduceAt b i with
    | none => true
    | some g =>
      r.present g.lay && (g.n == 2 || g.n == 4 || g.n == 8) && ascending g.parts
        && g.parts.all (fun e => decide (e.1 < 16) && decide (e.2 < 68))
        && (List.range (8 - g.n)).all (fun k => fieldAt b (64 * i + 8 + 2 * (g.n + k)) 2 == 0xFFFF)
        && match Tab.get none r.bights g.cbight with
          | some d => d.prod == g.parts && (d.cnode, d.ctile) == g.comb
          | none => false

/-- STRANDS (R244, R247): entry 64 l + m is the mask of kernel m of logical tile l. -/
def badStrands (b : List Byte) (ps : Nat → Option (List Byte)) : Option Nat :=
  firstBad 4352 fun i => fieldAt b i 1 == 0 || kernelValid (ps (i / 64)) (i % 64)

/-- Each required section is there once, and no other but NOTE (R248). `many`: a PSTORE of each tile of the list. -/
def sectionsOk (b : List Byte) (once optional : List Nat) (many : List Nat) : Bool :=
  let ds := directory b
  let count := fun t => (ds.filter fun d => d.typ == t).length
  once.all (fun t => count t == 1) && optional.all (fun t => decide (count t ≤ 1))
    && (ds.all fun d => d.typ == 8 || d.typ == 9 || once.contains d.typ || optional.contains d.typ)
    && (List.range 68).all fun l => (ds.filter fun d => d.typ == 8 && d.tile == l).length == (if many.contains l then 1 else 0)

/-- Program stores of a rig by logical tile. -/
def Rig.store (r : Rig) (l : Nat) : Option (List Byte) := Tab.get none (r.pstores.map fun e => (e.1, some e.2)) l

/-- The content check (R246 step 8) of an image; `r` is the rig as it will run. An image whose `PROFILES` has bit 3 set for more than 32
placed tiles fails at its LAYS section, if it has one. -/
def contentErr (b : List Byte) (r : Rig) (node : Nat) : Option ImgErr :=
  let wide : Option ImgErr := if (imgProfiles b).getLsbD 3 && decide (32 < r.placed.length) then
    some { reason := 0x08, sect := sectIndex b 2 0xFF } else none
  let on := fun (t : Nat) (f : List Byte → Option Nat) =>
    match sectOf b t 0xFF with
    | none => none
    | some d => (f d).map fun e => ({ reason := 0x08, sect := sectIndex b t 0xFF, entry := e } : ImgErr)
  let stores := (List.range 68).findSome? fun l =>
    match sectOf b 8 l with
    | none => none
    | some d => (badKernel d).map fun e => ({ reason := 0x08, sect := sectIndex b 8 l, entry := e } : ImgErr)
  [on 1 (badTiles · r), on 2 (badLays · r), wide, on 3 (badMcast · r), on 4 (badBights · r node), on 5 (badHitches · r),
    on 6 (badReduce · r), stores, on 7 (badStrands · r.store)].findSome? id

/-! ## Tile map -/

/-- State of the map's building: physical tiles and roles by logical ID; none when the spares are exhausted. -/
abbrev MapBuild := Option (List Nat × List Nat)

/-- The tile map of a rig (R249) from the retired tiles and the usable banks. -/
def buildMap (r : Rig) (retired : Nat → Bool) (usable : Nat → Nat) : MapBuild :=
  let start : List Nat × List Nat := (List.range 68, (List.range 68).map fun l => if r.spares.contains l then 1 else 0)
  let step := fun (a : MapBuild) (l : Nat) =>
    match a with
    | none => none
    | some (phys, role) =>
      if role.getD l 0 ≠ 0 then a
      else
        let p := phys.getD l 0
        if !retired p && decide (r.minBanks l ≤ usable p) then a
        else if (r.placeOf l).isNone then some (phys, role.set l (if retired p then 2 else 0))
        else
          match (List.range 68).find? fun s =>
              role.getD s 0 == 1 && !retired (phys.getD s 0) && decide (r.minBanks l ≤ usable (phys.getD s 0)) with
          | none => none
          | some s => some ((phys.set l (phys.getD s 0)).set s p, role.set s 2)
  match (List.range 68).foldl step (some start) with
  | none => none
  | some (phys, role) =>
    some (phys, (List.range 68).map fun s => if role.getD s 0 = 1 ∧ retired (phys.getD s 0) then 2 else role.getD s 0)

/-- Banks recorded as retired on physical tile `p` (R375). -/
def State.retiredBanks (s : State) (p : Nat) : BitVec 64 := Tab.get (0 : BitVec 64) s.journal.banks p

/-- Usable banks of physical tile `p` under the recorded retirements (R249). -/
def State.usableBanks (s : State) (p : Nat) : Nat := ((List.range 64).filter fun b => !(s.retiredBanks p).getLsbD b).length

/-- The tile map of a rig under the journal's records (R249). -/
def State.mapFor (s : State) (r : Rig) : MapBuild := buildMap r (fun p => s.journal.tiles.has p) s.usableBanks

/-! ## Validation -/

/-- A step of validation: an error ends it. -/
def orErr (a : Option ImgErr) (b : Unit → Option ImgErr) : Option ImgErr :=
  match a with
  | some e => some e
  | none => b ()

/-- Step 7 of R246. -/
def State.compatErr (s : State) (b : List Byte) : Option ImgErr :=
  if fieldAt b 28 4 ≠ 0x40 ∨ s.svc.fwVersion.toNat < fieldAt b 24 4 ∨ !(imgProfiles b).getLsbD s.svc.profile.toNat then
    some { reason := 0x06 } else none

/-- Steps 1 to 8 of R246 for a full rig. -/
def State.fullErr (s : State) (b : List Byte) : Option ImgErr :=
  orErr (checkSigned false s.glb.fuses (s.journal.revoked ||| s.glb.fuseRev) b [0]) fun _ =>
  orErr (s.compatErr b) fun _ =>
    let r := rigOf b
    if !sectionsOk b [1, 2, 3, 4, 5, 6, 7] [] r.placed then some { reason := 0x08 }
    else contentErr b r s.node

/-- A full rig at `b` is validated (R246): the structure and its tile map, or the reason. -/
def State.checkFull (s : State) (b : List Byte) : Except ImgErr (Rig × List Nat × List Nat) :=
  match s.fullErr b with
  | some e => .error e
  | none =>
    match s.mapFor (rigOf b) with
    | none => .error { reason := 0x0B }
    | some (phys, role) => .ok (rigOf b, phys, role)

/-- Entries of a table that are not owned by lay `n`, overlaid with the image's. -/
def overlayTab {α : Type} (lay : α → Nat) (n : Nat) (old new : Tab (Option α)) : Tab (Option α) :=
  let keep := old.filter fun e => match e.2 with | some x => lay x != n | none => false
  new.foldl (fun a e => Tab.put a e.1 e.2) keep

/-- The running rig as a lay image leaves it (R261): the target lay's entries are replaced. -/
def mergeLay (old img : Rig) (n : Nat) : Rig :=
  let left := old.place.filter fun e => match e.2 with | some (l, _) => l != n | none => false
  let mine := img.place.map (·.1)
  { old with
    version := img.version
    lays := img.lays.foldl (fun a e => Tab.put a e.1 e.2) (Tab.drop old.lays n)
    place := img.place.foldl (fun a e => Tab.put a e.1 e.2) left
    mcast := overlayTab (·.lay) n old.mcast img.mcast
    bights := overlayTab (·.lay) n old.bights img.bights
    hitches := overlayTab (·.2) n old.hitches img.hitches
    reduce := overlayTab (·.lay) n old.reduce img.reduce
    masks := img.masks.foldl (fun a e => Tab.put a e.1 e.2) (old.masks.filter fun e => !mine.contains (e.1 / 64))
    pstores := img.pstores.foldl (fun a e => Tab.put a e.1 e.2) old.pstores }

/-- The running rig as a tile image leaves it (R262). -/
def mergeTile (old img : Rig) (l : Nat) (strands : Bool) : Rig :=
  { old with
    version := img.version
    masks := if strands then img.masks.foldl (fun a e => Tab.put a e.1 e.2) (old.masks.filter fun e => e.1 / 64 != l) else old.masks
    pstores := img.pstores.foldl (fun a e => Tab.put a e.1 e.2) old.pstores }

/-- The entries of an image's table name lay `n` as their owner, and replace none that another lay of the running rig owns (R248, R246
step 9). -/
def entriesOf {α : Type} (lay : α → Nat) (n : Nat) (old new : Tab (Option α)) : Bool :=
  let mine := fun (x : Option α) => match x with | some y => lay y == n | none => true
  new.all fun e => mine e.2 && mine (Tab.get none old e.1)

/-- A lay image touches only its target (R248, R246 step 9). -/
def State.layScope (s : State) (img : Rig) (n : Nat) : Bool :=
  img.lays.map (·.1) == [n]
    && img.place.all (fun e => (match e.2 with | some (l, _) => l == n | none => false)
      && (match s.rig.placeOf e.1 with | some (l, _) => l == n | none => (s.mapEnt e.1).role == 0))
    && entriesOf (·.lay) n s.rig.mcast img.mcast && entriesOf (·.lay) n s.rig.bights img.bights
    && entriesOf (·.2) n s.rig.hitches img.hitches && entriesOf (·.lay) n s.rig.reduce img.reduce
    && img.masks.all (fun e => (img.placeOf (e.1 / 64)).isSome)

/-- Steps 9 and 10 of R246 for a partial image whose merged rig is `r`. -/
def State.partialErr (s : State) (b : List Byte) (scope : Bool) (r : Rig) : Option ImgErr :=
  if BitVec.ofNat 32 (fieldAt b 8 4) ≠ s.rig.version then some { reason := 0x09 }
  else if !scope then some { reason := 0x0A }
  else if (s.mapFor r).isNone then some { reason := 0x0B }
  else none

/-- A lay image is validated against the running rig (R246 to R248): the merged rig, or the reason. -/
def State.checkLay (s : State) (b : List Byte) : Except ImgErr Rig :=
  match orErr (checkSigned false s.glb.fuses (s.journal.revoked ||| s.glb.fuseRev) b [1]) fun _ => s.compatErr b with
  | some e => .error e
  | none =>
    let img := rigOf b
    let n := imgTarget b
    let r := mergeLay s.rig img n
    if !sectionsOk b [2, 3, 4, 5, 6, 7] [] img.placed then .error { reason := 0x0A }
    else
      match orErr (contentErr b r s.node) fun _ => s.partialErr b (s.layScope img n) r with
      | some e => .error e
      | none => .ok r

/-- A tile image is validated against the running rig (R246 to R248): the merged rig, or the reason. -/
def State.checkTile (s : State) (b : List Byte) : Except ImgErr Rig :=
  match orErr (checkSigned false s.glb.fuses (s.journal.revoked ||| s.glb.fuseRev) b [2]) fun _ => s.compatErr b with
  | some e => .error e
  | none =>
    let img := rigOf b
    let n := imgTarget b
    let r := mergeTile s.rig img n (sectOf b 7 0xFF).isSome
    if !sectionsOk b [] [7] [n] then .error { reason := 0x0A }
    else
      let scope := (s.rig.placeOf n).isSome && img.masks.all fun e => e.1 / 64 == n
      match orErr (contentErr b r s.node) fun _ => s.partialErr b scope r with
      | some e => .error e
      | none => .ok r

/-- A firmware image is validated (R423): steps 1 to 6, and `DEVICE`. -/
def State.fwErrOf (s : State) (b : List Byte) : Option ImgErr :=
  orErr (checkSigned true s.glb.fuses (s.journal.revoked ||| s.glb.fuseRev) b [3]) fun _ =>
    if fieldAt b 28 4 = 0x40 then none else some { reason := 0x06 }

end Sys2Proof.Machine
end

