-- ==== Sys2Proof/Machine/Rigs.lean ====
section
/-! DEFINITION. The rig commands (R254 to R263): writing a slot, loading a rig whole or in part, the boot slot, keys, and the drain
that a load waits for. -/

namespace Sys2Proof.Machine

/-! ## Command register and status -/

/-- Service registers: `SVC_RIG_CMD`. -/
def rigCmdOff : Nat := 0x1042C
@[inherit_doc rigCmdOff] def fwCmdOff : Nat := 0x10800
@[inherit_doc rigCmdOff] def pwrCmdOff : Nat := 0x10700

/-- A power, firmware or rig command runs (R411). -/
def State.svcBusy (s : State) : Bool := s.svc.pwrBusy || s.svc.fwBusy || s.svc.rigBusy

/-- Success. -/
def noErr : ImgErr := { reason := 0 }

/-- The outcome of a rig command in `SVC_RIG_STATUS` and `SVC_RIG_ERRINFO`; a bit that rises raises the service interrupt (R442). -/
def State.rigReport (s : State) (e : ImgErr) : State :=
  let ok := e.reason == 0
  let rises := if ok then !s.svc.rigDone else !s.svc.rigErr
  let s1 := { s with svc := { s.svc with
    rigDone := s.svc.rigDone || ok, rigErr := s.svc.rigErr || !ok, rigReason := BitVec.ofNat 8 e.reason
    rigSect := BitVec.ofNat 8 e.sect, rigEntry := BitVec.ofNat 16 e.entry } }
  if rises then s1.irq 1 else s1

/-- A rig command ends. -/
def State.rigEnd (s : State) (e : ImgErr) : State :=
  { s with svc := { s.svc with rigBusy := false, drain := none } }.rigReport e

/-- A write of command `code` to `SVC_RIG_CMD` (R256, R263, R411, R418): discarded with reason BUSY while a service command runs; ended
with reason STATE where the device does not take it; else carried out. `held`: HELD takes it. -/
def State.rigCmd (s : State) (fn : Nat) (v : Word) (code : Nat) (held : Bool) (act : State → State) : State :=
  if !s.pfWrites fn rigCmdOff || getFld v 0 4 != code then s
  else if s.svcBusy then s.rigReport { reason := 0x0D }
  else if s.svc.romMode || !(s.glb.st.serving || (held && s.glb.st == .held)) then s.rigReport { reason := 0x0C }
  else act s

/-- The image at the source (R256), in DRAM or in the host range: read with the PF's rights; none when the address or the length is refused,
or a read fails. Its reads wait for free tags of the host interface (R434). -/
def State.source (s : State) (io : SourceIo) (max : Nat) : Option (State × List Byte) :=
  let a := s.svc.rigSrc.toNat
  let n := s.svc.rigLen.toNat
  if a % 64 ≠ 0 ∨ n = 0 ∨ max < n ∨ (0x8000000000 ≤ a ∧ a < 0xC000000000) ∨ ((s.svc.memFail || s.svc.romMode) ∧ a < 0xC000000000) then none
  else
    let r := s.devRead false 0 a n io.host io.readOk io.chk
    if r.2.1 = 0 then some (r.1, r.2.2)
    else if r.2.1 = heldStatus ∧ io.readOk then some (r.1, slice io.host 0 n)
    else none

/-- Capacity of a rig slot. -/
def rigSlotSize : Nat := 0x1800000

/-! ## Journal payloads (R252) -/

/-- SLOT_BEGIN. -/
def recBegin (n : Bool) (len : Nat) (ver : Word) : Nat × List Byte := (0x01, (if n then 1 else 0) :: leBytes 4 len ++ leBytes 4 ver.toNat)
/-- SLOT_DONE. -/
def recDone (n : Bool) (len : Nat) (ver : Word) (digest : List Byte) (key : Nat) : Nat × List Byte :=
  (0x02, (if n then 1 else 0) :: leBytes 4 len ++ leBytes 4 ver.toNat ++ digest ++ [BitVec.ofNat 8 key])
/-- ACTIVATE. -/
def recActivate (n : Bool) (auto : Bool) (ver : Word) : Nat × List Byte :=
  (0x03, [if n then 1 else 0, if auto then 1 else 0] ++ leBytes 4 ver.toNat)
/-- MARK_BAD. -/
def recBad (n : Bool) (reason : Nat) : Nat × List Byte := (0x04, [if n then 1 else 0, BitVec.ofNat 8 reason])
/-- REVOKE. -/
def recRevoke (key : Nat) : Nat × List Byte := (0x08, [BitVec.ofNat 8 key])

/-! ## Slots -/

/-- Slot operand. -/
def slotOf (v : Word) : Bool := v.getLsbD 4

/-- The running rig was loaded from slot `n`. -/
def State.runsSlot (s : State) (n : Bool) : Bool :=
  s.svc.rigActive.getLsbD 0 && !s.svc.rigActive.getLsbD 2 && s.svc.rigActive.getLsbD 1 == n

/-- The image slot `n` holds. -/
def State.slotImage (s : State) (n : Bool) : List Byte := s.flashRead (rigBase n) (s.journal.rig n).len

/-- Write an image into slot `n` (R254): SLOT_BEGIN, erase and program, read back and validate, SLOT_DONE or MARK_BAD; MARK_BAD too where
the flash fails to erase, program or read back the slot (R257 FLASH). -/
def State.storeSlot (s : State) (n : Bool) (b : List Byte) (flashOk : Bool) : State × ImgErr :=
  let s1 := s.commit [recBegin n b.length (imgVersion b)]
  if !flashOk then (s1.commit [recBad n 0x0F], { reason := 0x0F }) else
  let erased := (b.length + sectorSize - 1) / sectorSize * sectorSize
  let s2 := { s1 with flash := flashPut s1.flash (rigBase n) erased b }
  let back := s2.flashRead (rigBase n) b.length
  match s2.fullErr back with
  | some e => (s2.commit [recBad n e.reason], e)
  | none => (s2.commit [recDone n b.length (imgVersion back) (imgDigest back) (imgKey back)], noErr)

/-- `WRITE_SLOT` (R254, R256, R263). -/
def execWriteSlot (fn : Nat) (v : Word) (io : SourceIo) (s : State) : Ans :=
  .next (s.rigCmd fn v 1 true fun s =>
    let n := slotOf v
    if s.runsSlot n || (s.journal.boot == n && (s.journal.rig n).st == .valid) then s.rigReport { reason := 0x0C }
    else
      match s.source io rigSlotSize with
      | none => s.rigReport { reason := 0x0E }
      | some (s1, b) =>
        let r := s1.storeSlot n b io.flashOk
        r.1.rigReport r.2)

/-! ## Rig shadow -/

/-- The service controller writes the rig shadow, the top 8 MiB of installed DRAM (R258, R312): those of its pages that it uses have their
bits set. No function can read what stands there. -/
def State.markShadow (s : State) : State :=
  let span := 65536 * s.exp.list.length
  let pages := if s.exp.mapped = 0 then [] else (List.range (8 * 2 ^ 20 / span)).map (· + s.exp.shadowBase / span)
  s.exp.list.foldl (fun a c => a.modChan c fun x => { x with
    written := pages.foldl (fun w pg => if Config.shadowPage c pg then w.add pg else w) x.written }) s

/-! ## Whole load: before the drain -/

/-- The channel set to apply when it is legal and differs from the set in force (R310, R313). -/
def State.setToApply (s : State) : Option (BitVec 2 × BitVec 2) :=
  if (s.exp.waysNext, s.exp.setNext) = (s.exp.ways, s.exp.set) ∨ (chanList s.exp.waysNext.toNat s.exp.setNext.toNat).isNone then none
  else some (s.exp.waysNext, s.exp.setNext)

/-- A channel goes ON and trains in full with result `r` (R419): its training point is recorded and the values are kept for warm reset; or
it fails. -/
def Chan.trainFull (x : Chan) (r : TrainResult) (ok : Bool) : Chan :=
  if ok then { x with train := .trained, tTrain := r.temp, tNow := r.temp, saved := true, deferred := false, due := false }
  else { x with train := .failed }

/-- One re-centre that has completed is counted (`MEM_TRAIN_CNT.RECENTRE`). -/
def Chan.recentred (x : Chan) : Chan := { x with trainCnt := satAdd x.trainCnt 0 16 1 }

/-- Channel `c` goes ON and trains in full (R409, R419). -/
def State.trainChan (s : State) (c : Nat) (r : TrainResult) (ok : Bool) : State :=
  (s.setPd (68 + c) 2).modChan c fun x => x.trainFull r ok

/-- Channel training before a whole rig load whose set to apply differs (R409): every channel of the set goes ON and trains, each to report
the capacity of the device's channels (R309); the set when all succeed, else `NEXT_BAD`. -/
def State.trainNext (s : State) (io : SourceIo) : State × Option (BitVec 2 × BitVec 2) :=
  match s.setToApply with
  | none => (s, none)
  | some (w, t) =>
    let l := (chanList w.toNat t.toNat).getD []
    let res := fun (c : Nat) => io.train.getD c ⟨false, 0, 0⟩
    let cap := if s.exp.mapped = 0 then (res (l.headD 0)).cap else s.exp.chCap
    let good := fun (c : Nat) => (res c).ok && (res c).cap == cap
    let s1 := l.foldl (fun a c => a.trainChan c (res c) (good c)) s
    if l.all good then (s1, some (w, t)) else ({ s1 with exp := { s1.exp with nextBad := true } }, none)

/-- A validated rig waits for the tasks in flight (R259 steps 1 and 2). -/
def State.startWhole (s : State) (slot : Option Bool) (io : SourceIo) (r : Rig × List Nat × List Nat) : State :=
  let t := s.trainNext io
  { t.1 with svc := { t.1.svc with
    rigBusy := true, drain := some { kind := .whole slot, rig := r.1, phys := r.2.1, role := r.2.2, set := t.2 } } }

/-- ACTIVATE of slot `n` (R256, R259, R260): a slot that cannot be read again, or fails validation, is marked BAD. -/
def State.activateSlot (s : State) (n : Bool) (io : SourceIo) : State :=
  if s.svc.memFail || (s.journal.rig n).st != .valid then s.rigReport { reason := 0x0C }
  else if !io.flashOk then (s.commit [recBad n 0x0F]).rigReport { reason := 0x0F }
  else
    match s.checkFull (s.slotImage n) with
    | .error e => (s.commit [recBad n e.reason]).rigReport e
    | .ok r => s.startWhole (some n) io r

/-- `ACTIVATE`. -/
def execActivate (fn : Nat) (v : Word) (io : SourceIo) (s : State) : Ans :=
  .next (s.rigCmd fn v 2 true fun s => s.activateSlot (slotOf v) io)

/-- `ROLLBACK`: ACTIVATE of the slot that is not the boot slot. -/
def execRollback (fn : Nat) (v : Word) (io : SourceIo) (s : State) : Ans :=
  .next (s.rigCmd fn v 3 true fun s => s.activateSlot (!s.journal.boot) io)

/-- An image at the source is taken (R256). -/
def State.withSource (s : State) (io : SourceIo) (act : State → List Byte → State) : State :=
  if s.svc.memFail then s.rigReport { reason := 0x0C }
  else
    match s.source io rigSlotSize with
    | none => s.rigReport { reason := 0x0E }
    | some (s1, b) => act s1 b

/-- `LOAD` (R256, R259). -/
def execLoad (fn : Nat) (v : Word) (io : SourceIo) (s : State) : Ans :=
  .next (s.rigCmd fn v 4 true fun s => s.withSource io fun s b =>
    match s.checkFull b with
    | .error e => s.rigReport e
    | .ok r => s.startWhole none io r)

/-- `RECONF_LAY` (R261 steps 1 and 2). -/
def execReconfLay (fn : Nat) (v : Word) (io : SourceIo) (s : State) : Ans :=
  .next (s.rigCmd fn v 5 false fun s => s.withSource io fun s b =>
    match s.checkLay b with
    | .error e => s.rigReport e
    | .ok r =>
      let n := imgTarget b
      let old := s.rig.place.filterMap fun e => match e.2 with | some (l, _) => (if l = n then some e.1 else none) | none => none
      let mine := (rigOf b).placed
      { s with svc := { s.svc with
        rigBusy := true, drain := some { kind := .lay n, rig := r, left := old.filter fun l => !mine.contains l, mine := mine } } })

/-- `RECONF_TILE` (R262 steps 1 and 2). -/
def execReconfTile (fn : Nat) (v : Word) (io : SourceIo) (s : State) : Ans :=
  .next (s.rigCmd fn v 6 false fun s => s.withSource io fun s b =>
    match s.checkTile b with
    | .error e => s.rigReport e
    | .ok r => { s.markShadow with shadow := r, svc := { s.svc with rigBusy := true, drain := some { kind := .tile (imgTarget b), rig := r } } })

/-! ## Commands that load nothing -/

/-- Version of lay `n` of a rig; 0 if the lay is absent. -/
def Rig.layVer (r : Rig) (n : Nat) : Word := match Tab.get none r.lays n with
  | some l => l.ver
  | none => 0

/-- `SET_BOOT` (R256). -/
def execSetBoot (fn : Nat) (v : Word) (io : SourceIo) (s : State) : Ans :=
  .next (s.rigCmd fn v 7 false fun s =>
    let n := slotOf v
    let x := s.journal.rig n
    let r := rigOf (s.slotImage n)
    if x.st ≠ .valid ∨ x.ver ≠ s.rig.version ∨ !((List.range 16).all fun l => r.layVer l == s.rig.layVer l) then
      s.rigReport { reason := 0x0C }
    else if !io.flashOk then s.rigReport { reason := 0x0F }
    else (s.commit [recActivate n false x.ver]).rigReport noErr)

/-- `COMPACT` (R255, R256). -/
def execCompact (fn : Nat) (v : Word) (io : SourceIo) (s : State) : Ans :=
  .next (s.rigCmd fn v 8 true fun s => if !io.flashOk then s.rigReport { reason := 0x0F } else s.compact.rigReport noErr)

/-- `REVOKE` (R256): refused while a VALID slot or the running rig is signed with the key. -/
def execRevoke (fn : Nat) (v : Word) (io : SourceIo) (s : State) : Ans :=
  .next (s.rigCmd fn v 9 false fun s =>
    let k := getFld v 8 2
    let uses := fun (x : FSlot) => x.st == .valid && x.key.toNat == k
    if uses s.journal.rig0 || uses s.journal.rig1 || (s.svc.rigActive.getLsbD 0 && s.rig.key == k) then s.rigReport { reason := 0x0C }
    else if !io.flashOk then s.rigReport { reason := 0x0F }
    else (s.commit [recRevoke k]).rigReport noErr)

/-- The service controller compacts the journal between commands (R255). -/
def execJournalCompaction (flashOk : Bool) (s : State) : Ans :=
  .next (if s.svcBusy || decide (s.journalUsed ≤ 48) || !flashOk || s.glb.st == .off || s.glb.st == .halted then s else s.compact)

/-! ## The drain -/

/-- Task `t` belongs to what a rig command drains (R259, R261, R262). -/
def State.drains (s : State) (d : DrainSt) (t : Task) : Bool :=
  match t.st, d.kind with
  | .waiting, _ => false
  | .retired, _ => false
  | _, .whole _ => true
  | _, .lay n => t.lay == n
  | .launch p, .tile l => s.physOf l == p
  | .running p _, .tile l => s.physOf l == p
  | .verdicts, .tile _ => false

/-- Bight `b` is rewritten by the load. -/
def State.resetsBight (s : State) (d : DrainSt) (b : Nat) : Bool :=
  match d.kind with
  | .whole _ => true
  | .lay n => (match Tab.get none s.rig.bights b with | some x => x.lay == n | none => false)
      || (match Tab.get none d.rig.bights b with | some x => x.lay == n | none => false)
  | .tile _ => false

/-- Hitch `h` is reset by the load (R228). -/
def State.resetsHitch (s : State) (d : DrainSt) (h : Nat) : Bool :=
  match d.kind with
  | .whole _ => true
  | .lay n => (match Tab.get none s.rig.hitches h with | some x => x.2 == n | none => false)
      || (match Tab.get none d.rig.hitches h with | some x => x.2 == n | none => false)
  | .tile _ => false

/-- A packet that must arrive before the load may write (R21, R259, R261): one addressed to a tile while the tile map is rewritten,
or one that carries the state of a bight or a hitch that the load resets. -/
def State.blocks (s : State) (d : DrainSt) (p : Packet) : Bool :=
  (match p.body with
    | .slot _ b _ _ _ _ => s.resetsBight d b
    | .credit b _ => s.resetsBight d b
    | .arrive h _ _ _ _ _ => s.resetsHitch d h
    | _ => false)
  || match d.kind with
    | .whole _ => p.dests.any fun e => match e with
      | .tile _ => true
      | .fenced _ => true
      | _ => false
    | _ => false

/-- The tasks a rig command waits for have ended, and so have their packets. -/
def State.drainDone (s : State) (d : DrainSt) : Bool :=
  !(s.taskList.any fun e => s.drains d e.2) && !(s.mesh.any fun p => s.blocks d p)

/-- The drain limit has passed (R259, R261, R262): the tasks still in flight end with status 0x06. -/
def execDrainLimit (s : State) : Ans :=
  .next <| match s.svc.drain with
  | none => s
  | some d =>
    ((s.taskList.filter fun e => s.drains d e.2).foldl (fun a e =>
      match e.2.st with
      | .running p k => a.endTask p k 0x06
      | _ => a.retire e.1 0x06) s).settleTurns

/-! ## Writing the structure -/

/-- A tile whose power domain is OFF (R407, R162): nothing is kept but the retirements, which the service controller holds (R373). -/
def Tile.unpowered (t : Tile) : Tile := { retire := t.retire, spare := t.spare }

/-- The TCLK of a tile starts (R371, R378): a lap of its scrubber under way is timed from here on. -/
def State.startClock (s : State) (p : Nat) : State :=
  s.modTile p fun t => { t with lapStart := s.glb.time, lapMark := s.glb.time }

/-- A power domain of a tile goes ON: one in RET keeps its scratchpad and program store, one that was OFF starts with nothing. -/
def State.tileOn (s : State) (p : Nat) : State :=
  if s.pd p = 2 then s
  else ((if s.pd p = 1 then s else s.modTile p Tile.unpowered).setPd p 2).startClock p

/-- A tile that is ON becomes a SPARE (R378): its TCLK stops and its valid bits are clear. -/
def Tile.spareIdle (t : Tile) : Tile := { t with valid := [], ecc := [], mem := [], rereads := [], heals := [], ceTab := [] }

/-- A power domain of a tile goes OFF. -/
def State.tileOff (s : State) (p : Nat) : State := (s.modTile p Tile.unpowered).setPd p 0

/-- The program store and the strand masks of the tile that serves logical tile `l` are written from rig `r` (R175, R244). -/
def State.writeStore (s : State) (r : Rig) (l : Nat) : State :=
  s.modTile (s.physOf l) fun t => { t with
    pstore := Mem.write 0 [] 0 ((r.store l).getD [])
    masks := (List.range 64).filterMap fun m => match Tab.get 0 r.masks (64 * l + m) with | 0 => none | x => some (m, x) }

/-- The bank-retire bitmap of physical tile `p` takes the recorded retirements (R375); a change clears every valid bit (R158,
R162). -/
def State.applyBanks (s : State) (p : Nat) : State :=
  let b := s.retiredBanks p
  if (s.tile p).retire = b then s
  else s.modTile p fun t => { t with retire := b, valid := [], ecc := [], mem := [], rereads := [], heals := [] }

/-- Spare line `k` of bank `b` is in use. -/
def spareUsed (m : Tab Nat) (b k : Nat) : Bool := m.any fun e => e.1 == b * 4 + k

/-- Line `line` of bank `b` is replaced by the lowest free spare line (R374); none when there is none. -/
def addSpare (m : Tab Nat) (b line : Nat) : Option (Tab Nat × Nat) :=
  ((List.range 4).find? fun k => !spareUsed m b k).map fun k => (Tab.put m (b * 4 + k) line, k)

/-- The spare-line map of a physical tile is rebuilt from the journal (R373). -/
def State.applyLines (s : State) (p : Nat) : State :=
  let m := (s.journal.lines.filter fun e => e.1 == p).foldl (fun a e => ((addSpare a e.2.1 e.2.2).map (·.1)).getD a) []
  if (s.tile p).spare = m then s else s.modTile p fun t => { t with spare := m }

/-- Hitch `h` takes its target, lay and ALLOC from a rig, reset (R228). -/
def State.loadHitch (s : State) (r : Rig) (h : Nat) : State :=
  let s1 := s.resetHitch h
  s1.setHitch h (match Tab.get none r.hitches h with
    | some (t, l) => { s1.hitch h with target := t, lay := l, alloc := true }
    | none => { s1.hitch h with target := (Tab.get (0, 0) r.idle h).1, lay := (Tab.get (0, 0) r.idle h).2, alloc := false })

/-- The channel set takes effect (R313): the capacity is that of the new set, a set that differs clears every written-page map, and
the channels it leaves out go OFF (R409). -/
def State.applySet (s : State) (w t cap : BitVec 2) : State :=
  let l := (chanList w.toNat t.toNat).getD []
  let e := { s.exp with ways := w, set := t, chCap := cap }
  let s1 := { s with exp := { e with mapped := BitVec.ofNat 16 (l.length * e.below / 2 ^ 20) } }
  let s2 := if (w, t) = (s.exp.ways, s.exp.set) then s1
    else (List.range 8).foldl (fun a c => a.modChan c fun x => { x with
      written := [], lostWpm := [], sets := [], fills := [], bufs := [], tagLines := [] }) s1
  (List.range 8).foldl (fun a c => if l.contains c ∨ a.pd (68 + c) = 0 then a
    else (a.setPd (68 + c) 0).modChan c fun x => { x with
      train := if x.train = .out then .out else .untrained, dram := [], written := [], lostWpm := [], tags := [], lostTags := []
      tagLines := [], badWords := [], sets := [], fills := [], bufs := [] }) s2

/-- An illegal pair is not applied, and `NEXT_BAD` is set (R313). -/
def State.refuseIllegalSet (s : State) : State :=
  if (chanList s.exp.waysNext.toNat s.exp.setNext.toNat).isNone then { s with exp := { s.exp with nextBad := true } } else s

/-- The power domains of the tiles of a rig (R20, R378, R415 step 7): placed and spare tiles ON, the spare ones with their valid bits clear,
retired tiles OFF. -/
def State.tileDomains (s : State) (r : Rig) : State :=
  (List.range 68).foldl (fun a l =>
    let e := a.mapEnt l
    if e.role = 2 then a.tileOff e.phys
    else if e.role = 1 then (a.tileOn e.phys).modTile e.phys Tile.spareIdle
    else if (r.placeOf l).isSome then a.tileOn e.phys
    else a) s

/-- `SVC_RIG_ACTIVE` of a rig just loaded. -/
def activeWord (slot : Option Bool) (r : Rig) : Word :=
  BitVec.ofNat 32 (1 + (if slot = some true then 2 else 0) + (if slot.isNone then 4 else 0) + (if r.degraded then 16 else 0)
    + r.profiles.toNat * 256)

/-- The spare-line map and the bank-retire bitmap of every tile are rebuilt from the journal (R373). -/
def State.rebuildMaps (s : State) : State := (List.range 68).foldl (fun a p => (a.applyBanks p).applyLines p) s

/-- The structure of a full rig is written (R259 step 3, R415 step 7), and the rig shadow (R258). The tile map changes with no task in
flight and no packet on the mesh for any tile, so that its fences (R21) stand for no time. -/
def State.writeRig (s : State) (slot : Option Bool) (r : Rig) (phys role : List Nat) : State :=
  let s1 := { s with tmap := (List.range 68).map fun l => (l, { phys := phys.getD l l, role := role.getD l 0 }) }
  let s2 := ((s1.tileDomains r).rebuildMaps).markShadow
  let s3 := ((List.range 68).filter fun l => s2.pd (s2.physOf l) == 2).foldl (fun a l => a.writeStore r l)
    { s2 with rig := r, shadow := r, bights := [] }
  let s4 := (List.range 256).foldl (fun a h => a.loadHitch r h) s3
  let out := s4.exp.list.any fun c => (s4.chan c).train == .out
  { s4 with
    svc := { s4.svc with rigActive := activeWord slot r }
    glb := { s4.glb with degRig := r.degraded, degChan := out, avail := 7 } }

/-- The device serves: HELD and BOOT give way to READY or DEGRADED, and the other nodes hear of it (R5, R357). HALTED stays (R3). -/
def State.serve (s : State) : State := if s.glb.st = .halted then s else ((s.setDev s.servingState).announce).settleTurns

/-- A whole rig load ends (R259 steps 3 to 5). Where the flash fails to take the ACTIVATE record, the command has failed: the rig that ran
runs on, and the slot is marked BAD (R260). -/
def State.finishWhole (s : State) (d : DrainSt) (slot : Option Bool) (flashOk : Bool) : State :=
  let s1 := match d.set with
    | some (w, t) => s.applySet w t s.exp.chCap
    | none => s.refuseIllegalSet
  let load := fun (_ : Unit) => (s1.writeRig slot d.rig d.phys d.role).serve
  match slot with
  | none => ((load ()).rigEnd noErr).settleTurns
  | some n =>
    if flashOk then (((load ()).commit [recActivate n false d.rig.version]).rigEnd noErr).settleTurns
    else ((s.commit [recBad n 0x0F]).rigEnd { reason := 0x0F }).settleTurns

/-- `SVC_RIG_ACTIVE` after a partial image. -/
def State.modified (s : State) : State := { s with svc := { s.svc with rigActive := s.svc.rigActive ||| 8 } }

/-- Tasks of other lays that hold a FILLING slot in a bight of lay `n` end with status 0x06 (R261 step 3). -/
def State.endFillers (s : State) (n : Nat) : State :=
  s.taskList.foldl (fun a e =>
    match e.2.st with
    | .running p k =>
      let x := a.strand p k
      let mine := fun (b : Nat) => match Tab.get none s.rig.bights b with | some d => d.lay == n | none => false
      let streams := ((a.tile p).ctxList.filter fun c => c.strand == k && !c.fills.isEmpty && !c.stopped).any fun c => mine c.desc.bight
      if e.2.lay ≠ n ∧ ((x.claims.any fun c => mine c.bight) ∨ (x.held.any fun h => !h.rd && mine h.bight) ∨ streams) then
        a.endTask p k 0x06
      else a
    | _ => a) s

/-- A lay load ends (R261 steps 3 to 6). -/
def State.finishLay (s : State) (d : DrainSt) (n : Nat) : State :=
  let s0 := s.endFillers n
  let s1 := d.mine.foldl (fun a l => a.tileOn (a.physOf l)) s0
  let bs := (List.range 256).filter fun b => s.resetsBight d b
  let hs := (List.range 256).filter fun h => s.resetsHitch d h
  let s2 := { s1.markShadow with rig := d.rig, shadow := d.rig, bights := bs.foldl Tab.drop s1.bights }
  let s3 := d.mine.foldl (fun a l => a.writeStore d.rig l) s2
  ((hs.foldl (fun a h => a.loadHitch d.rig h) s3).modified).rigEnd noErr |>.settleTurns

/-- A tile load ends (R262 steps 3 and 4). -/
def State.finishTile (s : State) (d : DrainSt) (l : Nat) : State :=
  (((({ s with rig := d.rig, shadow := d.rig }).writeStore d.rig l).modified).rigEnd noErr).settleTurns

/-- The tasks being drained have ended, and the load goes on (R259, R261, R262). -/
def execDrainEnd (flashOk : Bool) (s : State) : Ans :=
  .next <| match s.svc.drain with
  | none => s
  | some d =>
    if !s.drainDone d || s.glb.st == .halted then s
    else
      match d.kind with
      | .whole slot => s.finishWhole d slot flashOk
      | .lay n => s.finishLay d n
      | .tile l => s.finishTile d l

end Sys2Proof.Machine
end

