-- ==== Sys2Proof/Machine/Power.lean ====
section
/-! DEFINITION. Profiles and supplies (R402 to R406, R432), power domains (R407 to R411), throttling (R401, R412, R413) and the
watchdog (R428). -/

namespace Sys2Proof.Machine

/-! ## Ladder -/

/-- The TCLK divisors (R400). -/
def ladder : List Nat := [4, 5, 6, 8, 12, 16]

/-- Divisor of a profile at a throttle level (R402, R412). -/
def divOf (profile level : Nat) : Nat := if level = 3 then 16 else ladder.getD (profile + level) 16

/-- Memory channels a profile allows (R402). -/
def profileChans (p : Nat) : Nat := if p < 2 then 8 else if p = 2 then 4 else 2

/-- A divisor is to take effect at the next common edge (R401). -/
def State.askDiv (s : State) (profile level : Nat) : State := { s with svc := { s.svc with divNext := some (divOf profile level) } }

/-! ## Power commands -/

/-- The outcome of a power command in `SVC_PWR_STATUS`; a bit that rises raises the service interrupt (R442). -/
def State.pwrReport (s : State) (reason : Nat) : State :=
  let ok := reason == 0
  let rises := if ok then !s.svc.pwrDone else !s.svc.pwrErr
  let s1 := { s with svc := { s.svc with
    pwrDone := s.svc.pwrDone || ok, pwrErr := s.svc.pwrErr || !ok, pwrReason := BitVec.ofNat 3 reason } }
  if rises then s1.irq 1 else s1

/-- A power command ends. -/
def State.pwrEnd (s : State) (reason : Nat) : State := { s with svc := { s.svc with pwrBusy := false } }.pwrReport reason

/-- A write of a power command of kind `kind` to `SVC_PWR_CMD` (R411, R418). -/
def State.pwrCmd (s : State) (fn : Nat) (v : Word) (kind : Bool) (act : State → State) : State :=
  if !s.pfWrites fn pwrCmdOff || !v.getLsbD 31 || v.getLsbD 0 != kind then s
  else if s.svcBusy then s.pwrReport 6
  else if s.svc.romMode || !(s.glb.st.serving || s.glb.st == .held) then s.pwrReport 5
  else act s

/-- Change `SUPPLY_REQ` (R432). -/
def State.askSupply (s : State) (p : BitVec 2) : State :=
  if s.pins.supplyReq = p then s else { s with pins := { s.pins with supplyReq := p, ackLow := false } }

/-- Why a profile change to `t` is refused (R403); 0 when it is accepted. -/
def State.profileRefused (s : State) (t : BitVec 2) : Nat :=
  if s.svc.rigActive.getLsbD 0 && !s.rig.profiles.getLsbD t.toNat then 1
  else if profileChans t.toNat < s.exp.list.length then 2
  else if t = 3 ∧ 32 < s.rig.placed.length then 3
  else 0

/-- A profile change takes effect with the next divisor (R404). -/
def State.changeProfile (s : State) (t : BitVec 2) : State :=
  ({ s with svc := { s.svc with pwrBusy := true, profNext := some t } }).askDiv t.toNat s.svc.level.toNat

/-- `SVC_PWR_CMD` with `KIND` PROFILE (R403, R404): toward a higher-numbered profile the divisor changes first; toward a
lower-numbered one the supply is awaited. -/
def execProfileCommand (fn : Nat) (v : Word) (s : State) : Ans :=
  .next (s.pwrCmd fn v false fun s =>
    let t := BitVec.ofNat 2 (getFld v 1 2)
    match s.profileRefused t with
    | 0 =>
      if t = s.svc.profile then s.pwrReport 0
      else if s.svc.profile.toNat < t.toNat then s.changeProfile t
      else ({ s with svc := { s.svc with pwrBusy := true, supplyWait := some t } }).askSupply t
    | r => s.pwrReport r)

/-- A sample of SUPPLY_ACK (R432): the first high sample after a low one since the change of the request acknowledges it. -/
def execSupplyAck (level : Bool) (s : State) : Ans :=
  .next (
    if s.glb.st = .off then s
    else if !level then { s with pins := { s.pins with ackLow := true } }
    else
      match s.svc.supplyWait with
      | some t => if s.pins.ackLow then ({ s with svc := { s.svc with supplyWait := none } }).changeProfile t else s
      | none => s)

/-- No acknowledgement within 1 ms (R404): the profile in force stays, and its supply is requested again. -/
def execSupplyTimeout (s : State) : Ans :=
  .next <| match s.svc.supplyWait with
  | some _ => (({ s with svc := { s.svc with supplyWait := none } }).askSupply s.svc.profile).pwrEnd 4
  | none => s

/-- Every unplaced ACTIVE tile goes OFF on entry to P3 (R404). -/
def State.unplacedOff (s : State) : State :=
  (List.range 68).foldl (fun a l =>
    if (a.mapEnt l).role = 0 ∧ (a.rig.placeOf l).isNone ∧ a.pd (a.physOf l) ≠ 0 then a.tileOff (a.physOf l) else a) s

/-- The divisor takes effect at a common edge (R401), and with it a profile under way (R404). -/
def execTclkDivisorChange (s : State) : Ans :=
  .next <| match s.svc.divNext with
  | none => s
  | some d =>
    if s.glb.st = .off ∨ s.glb.st = .halted then s
    else
      let laps := s.tiles.map fun (e : Nat × Tile) =>
        (e.1, { e.2 with lapCount := e.2.lapCount + (s.glb.time - e.2.lapMark) * 48 / s.svc.div, lapMark := s.glb.time })
      let s1 := { s with tiles := laps, svc := { s.svc with div := d, divNext := none, levelShown := s.svc.level } }
      match s.svc.profNext with
      | none => s1
      | some t =>
        let s2 := { s1 with svc := { s1.svc with profile := t, profNext := none } }
        ((if t = 3 then s2.unplacedOff else s2).askSupply t).pwrEnd 0

/-! ## Domains -/

/-- Why a domain command is refused (R408); 0 when it is accepted. -/
def State.domainRefused (s : State) (d t : Nat) : Nat :=
  if 80 ≤ d ∨ t = 3 then 5
  else if d < 68 then
    let l := s.logOf d
    if (s.mapEnt l).role ≠ 0 ∨ (s.rig.placeOf l).isSome then 5 else if s.svc.profile = 3 ∧ t ≠ 0 then 3 else 0
  else if d < 76 then (if s.exp.list.contains (d - 68) then 5 else 0)
  else if t = 2 then 0
  else if (s.port (d - 76)).ctl.getLsbD 0 || (s.port (d - 76)).st != .down then 5 else 0

/-- `SVC_PWR_CMD` with `KIND` DOMAIN (R408, R410): the transition begins. -/
def execDomainCommand (fn : Nat) (v : Word) (s : State) : Ans :=
  .next (s.pwrCmd fn v true fun s =>
    let d := getFld v 3 7
    let t := getFld v 10 2
    match s.domainRefused d t with
    | 0 =>
      if s.pd d = t then s.pwrReport 0
      else
        let s1 := s.setPd d 3
        { s1 with svc := { s1.svc with pwrBusy := true, pdNext := Tab.put s1.svc.pdNext d (BitVec.ofNat 2 t) } }
    | r => s.pwrReport r)

/-- A tile in RET (R407): scratchpad and program store are kept; strands, banks and stream contexts are empty. -/
def Tile.retained (t : Tile) : Tile :=
  { t with strands := [], units := [], ctxs := [], tb0 := { st := .active }, tb1 := {}, acc0 := {}, acc1 := {}, row0 := false, row31 := false
           swapBusy := false, launch := none, turn := none, closed := false, outReads := 0 }

/-- A channel whose domain goes OFF (R407, R319): its DRAM and its share of the map are lost. The always-on core keeps its training values
(R419). -/
def Chan.unpowered (c : Chan) : Chan := { saved := c.saved, tTrain := c.tTrain }

/-- A channel in RET (R407): its splice-cache share is invalid, and its tag-cache share has been written back. -/
def Chan.retained (c : Chan) : Chan := { c with sets := [], fills := [], tagLines := [] }

/-- A channel goes ON (R407, R410, R419): from self-refresh on its kept values, with one re-centre, else trained with result `r`. -/
def Chan.powered (c : Chan) (r : TrainResult) (ok : Bool) : Chan :=
  if c.train = .trained then { c with tNow := r.temp }.recentred else c.trainFull r ok

/-- A domain's transition ends (R407, R410), and with it the command. -/
def execDomainTransitionEnd (d : Nat) (train : TrainResult) (s : State) : Ans :=
  .next (
    if s.pd d ≠ 3 ∨ 80 ≤ d then s
    else
      let t := (Tab.get (0 : BitVec 2) s.svc.pdNext d).toNat
      let s1 := { s with svc := { s.svc with pdNext := Tab.drop s.svc.pdNext d } }
      let s2 :=
        if d < 68 then
          if t = 2 then (s1.setPd d 2).startClock d else if t = 1 then (s1.refillAll.modTile d Tile.retained).setPd d 1 else s1.refillAll.tileOff d
        else if d < 76 then
          let c := d - 68
          if t = 2 then (s1.setPd d 2).modChan c fun x => x.powered train (train.ok && (s.exp.mapped == 0 || train.cap == s.exp.chCap))
          else if t = 1 then (s1.setPd d 1).modChan c Chan.retained
          else (s1.setPd d 0).modChan c Chan.unpowered
        else
          let p := d - 76
          if t = 2 then (s1.setPd d 2).train p
          else if t = 1 then s1.setPd d 1
          else (s1.setPd d 0).modPort p fun x => { x with key := 0, keyData := 0, keyNew := false, txCtr := 0, held := [] }
      if s2.svc.pwrBusy then s2.pwrEnd 0 else s2)

/-! ## Temperature and watchdog -/

/-- Entry and exit temperatures of the throttle levels (R412). -/
def enterTemp (l : Nat) : Int := if l = 1 then 95 else if l = 2 then 100 else 105
@[inherit_doc enterTemp] def exitTemp (l : Nat) : Int := if l = 1 then 90 else if l = 2 then 95 else 100

/-- The throttle level after a sample (R412): the highest level entered, else the level below when the sample is under the exit
temperature. -/
def nextLevel (l : Nat) (tj : Int) : Nat :=
  let up := if enterTemp 3 ≤ tj then 3 else if enterTemp 2 ≤ tj then 2 else if enterTemp 1 ≤ tj then 1 else 0
  if l < up then up else if 1 ≤ l ∧ tj < exitTemp l then l - 1 else l

/-- A signed byte in degrees C, held to its range. -/
def tempByte (t : Int) : BitVec 8 := BitVec.ofInt 8 (max (-128) (min 127 t))

/-- The highest of the readings of a sample (R412). -/
def hottest (first : Int) (others : List Int) : Int := others.foldl max first

/-- A sample of the 24 sensors (R412, R413): Tj and the sensor that gave it, of several the first (notes/assumptions/74.md); its maximum, the throttle level with its divisor, and THERM_N, whose change is reported
(R442); at the second sample in a row of 110 degrees or more the device halts (R5). -/
def execThermalSample (first : Int) (others : List Int) (s : State) : Ans :=
  .next (
    if s.glb.st = .off then s
    else
      let tj := hottest first others
      let sensor := (first :: others).idxOf tj
      let l := nextLevel s.svc.level.toNat tj
      let b := tempByte tj
      let hot := if 110 ≤ tj then s.svc.hot + 1 else 0
      let s1 := { s with svc := { s.svc with
        tj := b, tjMax := if s.svc.tjMax.toInt < b.toInt then b else s.svc.tjMax, sensor := BitVec.ofNat 5 sensor, level := BitVec.ofNat 2 l, hot := hot } }
      let s2 := if l = s.svc.level.toNat then s1 else s1.askDiv ((s.svc.profNext.getD s.svc.profile).toNat) l
      let thermN := l == 0
      let s3 := if s2.pins.thermN = thermN then s2 else ({ s2 with pins := { s2.pins with thermN := thermN } }).irq 3
      if 2 ≤ hot then s3.halt 2 else s3)

/-- The watchdog of running firmware has gone 10 ms without service (R428): a fatal service-firmware error. -/
def execWatchdogExpiry (s : State) : Ans := .next (if s.svc.romMode ∨ s.glb.st = .off then s else s.halt 3)

end Sys2Proof.Machine
end

