-- ==== Sys2Proof/Machine/Boot.lean ====
section
/-! DEFINITION. Start-up (R415 to R419, R431), its fallbacks (R260, R406), power loss and warm reset (R35, R417, R445). -/

namespace Sys2Proof.Machine

/-! ## Steps 2 and 3 -/

/-- The image of a firmware slot. -/
def State.fwImage (s : State) (n : Bool) : List Byte := s.flashRead (fwBase n) 4194304

/-- Firmware slot `n` authenticates (R423). -/
def State.fwGood (s : State) (n : Bool) : Bool := (s.journal.fw n).st == .valid && (s.fwErrOf (s.fwImage n)).isNone

/-- The firmware slot the ROM starts (R415 step 3): the boot slot, else the other; none when both fail. -/
def State.pickFw (s : State) : Option Bool :=
  if s.fwGood s.journal.fwBoot then some s.journal.fwBoot
  else if s.fwGood (!s.journal.fwBoot) then some (!s.journal.fwBoot)
  else none

/-! ## Step 4 -/

/-- Ports that the straps enable (R431): none without a grommet or for a pair that R337 does not allow. -/
def strapPorts (grm : BitVec 6) : List Nat :=
  let X := grm.toNat % 16 + 1
  let Y := grm.toNat / 16 + 1
  if X = 1 then []
  else if Y = 1 then [0, 2]
  else if X ≤ 4 then [0, 1, 2, 3] else []

/-- Step 4 (R415, R431): the topology and the ports. A warm reset has kept `GRM_TOPO` (R35, R417; notes/assumptions/34.md). -/
def State.bootPorts (s : State) : State :=
  let g := s.pins.grm
  let s1 := { s with glb := { s.glb with avail := 4 }, grm := { s.grm with
    dimX := if s.glb.warm then s.grm.dimX else BitVec.ofNat 5 (g.toNat % 16 + 1)
    dimY := if s.glb.warm then s.grm.dimY else BitVec.ofNat 3 (g.toNat / 16 + 1) } }
  (strapPorts g).foldl (fun a p => (((a.setPd (76 + p) 2).modPort p fun x => { x with ctl := x.ctl ||| 1 }).train p)) s1

/-! ## Step 5 -/

/-- The channel set to apply at start-up: the next one if it is legal, else the one in force (R310, R313). -/
def Expander.bootSet (e : Expander) : BitVec 2 × BitVec 2 :=
  if (chanList e.waysNext.toNat e.setNext.toNat).isSome then (e.waysNext, e.setNext) else (e.ways, e.set)

/-- The profile of start-up and, where it is not the one asked for, why (R406, R432). -/
def State.bootProfile (s : State) (chans : Nat) (supplyOk : Bool) : BitVec 2 × Nat :=
  if profileChans s.svc.bootProf.toNat < chans then (1, 2)
  else if s.svc.bootProf = 0 ∧ !supplyOk then (1, 4)
  else (s.svc.bootProf, 0)

/-- The profile and its divisor are set (R404, R415). -/
def State.setProfile (s : State) (p : BitVec 2) (why : Nat) : State :=
  let s1 := { s with svc := { s.svc with profile := p, div := divOf p.toNat s.svc.level.toNat, levelShown := s.svc.level } }.askSupply p
  if why = 0 then s1 else s1.pwrReport why

/-- A channel restores its saved training values, and one re-centre verifies them (R417). -/
def Chan.verified (x : Chan) (temp : Int) : Chan := { x with train := .trained, tNow := temp, deferred := false, due := false }.recentred

/-- Step 5 (R415, R417, R419, R309): the channels of the set to apply go ON and train, after a warm reset only those without saved values
that verify; all succeed, with one capacity, or start-up fails. The flag says whether it went on. -/
def State.bootMemory (s : State) (env : BootEnv) : State × Bool :=
  let set := s.exp.bootSet
  let l := (chanList set.1.toNat set.2.toNat).getD []
  let p := s.bootProfile l.length env.supplyOk
  let s1 := s.setProfile p.1 p.2
  let res := fun (c : Nat) => env.train.getD c ⟨false, 0, 0⟩
  let cap := (res (l.headD 0)).cap
  let kept := fun (c : Nat) => s.glb.warm && (s.chan c).saved && env.verify.getD c false
  let good := fun (c : Nat) => (kept c || (res c).ok) && (res c).cap == cap
  let s2 := l.foldl (fun a c =>
    if kept c && good c then (a.setPd (68 + c) 2).modChan c fun x => x.verified (res c).temp else a.trainChan c (res c) (good c)) s1
  let s3 := s2.refuseIllegalSet
  if l.all good then (({ s3 with glb := { s3.glb with avail := 5 } }).applySet set.1 set.2 cap, true)
  else ({ s3 with svc := { s3.svc with memFail := true } }, false)

/-! ## Steps 6 to 8 -/

/-- A rig slot validates at start-up (R246, R249). -/
def State.slotCheck (s : State) (n : Bool) : Except ImgErr (Rig × List Nat × List Nat) :=
  if (s.journal.rig n).st = .valid then s.checkFull (s.slotImage n) else .error { reason := 0x01 }

/-- Start-up ends in HELD (R5). HALTED stays (R3). -/
def State.toHeld (s : State) : State := if s.glb.st = .halted then s else s.setDev .held

/-- MARK_BAD of a slot that fails validation; none for a slot that is BAD already (R260). -/
def State.badRecord (s : State) (n : Bool) (e : ImgErr) : List (Nat × List Byte) :=
  if (s.journal.rig n).st = .bad then [] else [recBad n e.reason]

/-- Steps 6 to 8 (R415, R260): the boot slot, on failure the other with AUTO, on failure of both HELD. -/
def State.bootRig (s : State) : State :=
  let b := s.journal.boot
  let run := fun (x : State) (n : Bool) (r : Rig × List Nat × List Nat) => (x.writeRig (some n) r.1 r.2.1 r.2.2).serve
  match s.slotCheck b with
  | .ok r => run s b r
  | .error e =>
    match s.slotCheck (!b) with
    | .ok r => run (s.commit (s.badRecord b e ++ [recActivate (!b) true r.1.version])) (!b) r
    | .error e' =>
      match s.badRecord b e ++ s.badRecord (!b) e' with
      | [] => s.toHeld
      | l => (s.commit l).toHeld

/-- Start-up from step 4. -/
def State.bootFrom4 (s : State) (env : BootEnv) : State :=
  match (s.bootPorts).bootMemory env with
  | (a, true) => a.bootRig
  | (a, false) => a.toHeld

/-- Start-up from step 2 (R415): the journal is replayed, an erase that a compaction left undone is repeated (R255), and the maps of the
tiles' memories are rebuilt (R373). Without the flash no firmware authenticates. -/
def State.boot (s : State) (env : BootEnv) : State :=
  let s1 := { s with
    journal := if env.flashOk then replayJournal s.flash else {}, flash := if env.flashOk then repeatErase s.flash else s.flash }.rebuildMaps
  match if env.flashOk then s1.pickFw else none with
  | none => ({ s1 with svc := { s1.svc with romMode := true } }).toHeld
  | some n => ({ s1 with svc := { s1.svc with runSlot := n, fwVersion := imgVersion (s1.fwImage n) } }).bootFrom4 env

/-! ## Cold reset and power loss -/

/-- What survives without power: the flash, and what is not of the device (R250, R430). -/
def State.unpowered (s : State) : State :=
  { State.reset with flash := s.flash, out := s.out, fresh := s.fresh, pending := s.pending, glb := { State.reset.glb with fuseRev := s.glb.fuseRev } }

/-- The always-on core after PWR_GOOD rises (R415 step 1, R430, R431): the Reset values, the straps, the fuses. -/
def State.coldStart (s : State) (env : BootEnv) : State :=
  let u := s.unpowered
  { u with
    glb := { u.glb with serial := env.serial, stepping := env.stepping, fuses := env.fuses, started := true }
    grm := { u.grm with node := env.nodeId }
    pins := { u.pins with nodeId := env.nodeId, grm := env.grm, bmAddr := env.bmAddr, perst := s.pins.perst, alertN := false } }

/-- PWR_GOOD rises (R415): from OFF, or from the state right after cold reset, to READY, DEGRADED or HELD. -/
def execPowerGood (env : BootEnv) (s : State) : Ans :=
  .next (if s.glb.st = .off ∨ (s.glb.st = .boot ∧ !s.glb.started) then (s.coldStart env).boot env else s)

/-- PWR_GOOD falls (R430): OFF at once, every output high-impedance. -/
def execPowerLoss (s : State) : Ans :=
  .next (
    let u := s.unpowered
    { u with glb := { u.glb with st := .off }, pins := { u.pins with pwrGood := false, hiZ := true, clkreqN := true, perst := s.pins.perst } })

/-! ## Warm reset -/

/-- A channel through a warm reset (R417, R419, R319, R454): the always-on core keeps its training values; its DRAM, tags and map share are
kept by one that is in service, its share of the tag cache having been written back (R407). -/
def Chan.warm (c : Chan) (inService : Bool) : Chan :=
  if inService then
    { dram := c.dram, tags := c.tags, lostTags := c.lostTags, badWords := c.badWords, written := c.written, lostWpm := c.lostWpm
      saved := c.saved, tTrain := c.tTrain }
  else { saved := c.saved, tTrain := c.tTrain }

/-- The hold logic through a warm reset (R35): its agreed state, a latched discrepancy fault and its RWS fields. -/
def Hold.warm (h : Hold) : Hold := { discMs := h.discMs, agreed := h.agreed, disc := h.disc, cnt := h.cnt, max := h.max }

/-- A function through a reset that keeps the configuration space (R445): Bus Master Enable, Memory Space Enable, the power state and the
MSI-X table stay. -/
def Func.warm (f : Func) : Func := { bme := f.bme, mse := f.mse, d3 := f.d3, msix := f.msix }

/-- The expander's configuration through a warm reset (R454). -/
def Expander.warm (e : Expander) : Expander :=
  { ways := e.ways, set := e.set, waysNext := e.waysNext, setNext := e.setNext, chCap := e.chCap, mapped := e.mapped, regions := e.regions
    clrBase := e.clrBase, clrSize := e.clrSize, tables := e.tables, keys := e.keys, keyEn := e.keyEn, hostWin := e.hostWin }

/-- What a warm reset keeps (R35, R417, R454): RWS fields, the error log, the timebase, the saved training values, the hold logic, the kept
fields of `GLB_STATE`, the expander's configuration and the DRAM. `pcie`: the link and the configuration space are kept (R445). -/
def State.warmBase (s : State) (pcie : Bool) : State :=
  let z := State.reset
  { z with
    glb := { z.glb with
      haltCause := s.glb.haltCause, degRig := s.glb.degRig, degChan := s.glb.degChan, time := s.glb.time, stepping := s.glb.stepping
      serial := s.glb.serial, fuses := s.glb.fuses, fuseRev := s.glb.fuseRev, started := true, warm := true, linkUp := s.glb.linkUp
      vfEn := pcie && s.glb.vfEn }
    pins := { s.pins with supplyReq := 1, ackLow := false, alertN := false, thermN := true, faultN := !s.hold.disc }
    hold := s.hold.warm
    funcs := if pcie then s.funcs.map fun e => (e.1, e.2.warm) else []
    svc := { z.svc with bootProf := s.svc.bootProf, tjMax := s.svc.tjMax }
    flash := s.flash
    elog := { s.elog with mirLo := 0, mirHi := 0, mirPos := 0 }
    chans := (List.range 8).map fun c => (c, (s.chan c).warm (s.pd (68 + c) == 2))
    exp := s.exp.warm
    grm := { z.grm with node := s.grm.node, dimX := s.grm.dimX, dimY := s.grm.dimY }
    out := s.out, fresh := s.fresh, pending := s.pending }

/-- A warm reset (R417). -/
def State.warmReset (s : State) (env : BootEnv) (pcie : Bool) : State := (s.warmBase pcie).boot env

/-- PERST# is asserted while PWR_GOOD is high (R417): the link goes down and a warm reset runs. -/
def execPerstAssert (env : BootEnv) (s : State) : Ans :=
  .next (
    if s.glb.st = .off ∨ !s.glb.started then s
    else ({ s with pins := { s.pins with perst := true }, glb := { s.glb with linkUp := false } }).warmReset env false)

/-- PERST# is deasserted: the host link trains (R34, R415 step 1). -/
def execPerstDeassert (s : State) : Ans :=
  .next (if s.glb.st = .off then s else { s with pins := { s.pins with perst := false }, glb := { s.glb with linkUp := true } })

/-- A PCIe hot reset: a warm reset (R417). -/
def execHotReset (env : BootEnv) (s : State) : Ans := .next (if s.glb.st = .off ∨ !s.glb.linkUp then s else s.warmReset env false)

/-- `GLB_RESET.WARM` with its key (R417, R445). -/
def execGlbResetWarm (fn : Nat) (v : Word) (env : BootEnv) (s : State) : Ans :=
  .next (if !s.pfWrites fn 0x20 || !v.getLsbD 0 || getFld v 16 16 != 0xA55A then s else s.warmReset env true)

end Sys2Proof.Machine
end

