-- ==== Sys2Proof/Machine/Errors.lean ====
section
/-! DEFINITION. Re-reads of uncorrectable words (R362, R363), heal tests (R367), the scrubber (R370 to R372) and the error log
(R387 to R393). -/

namespace Sys2Proof.Machine

/-! ## Re-reads -/

/-- The error proved transient (R363): the word may be read again. -/
def transientErr : Ecc → Bool
  | .clean => true
  | .correctable => true
  | _ => false

/-- UE_TRANSIENT in a tile: flagged, counted, logged. -/
def State.tileTransient (s : State) (p : Nat) (loc : BitVec 64) : State :=
  (s.modTile p fun t => ({ t with eccCnt := satAdd t.eccCnt 16 8 1 }).eccFlag 1).logEv (srcTile p) .ueTransient loc none none

/-- POISON_SCRUB is logged for word `w` of tile `p`, with the PF's error interrupt (R372). -/
def State.scrubPoison (s : State) (p w : Nat) : State := (s.logEv (srcTile p) .poisonScrub ((s.tile p).locOf w) none none).irq 0

/-- A scratchpad word is read again (R363, R364, R372). -/
def State.rereadSpad (s : State) (p w : Nat) (o : Ecc) : State :=
  match Tab.get none ((s.tile p).rereads.map fun e => (e.1, some e.2)) w with
  | none => s
  | some scrub =>
    let s1 := s.modTile p fun t => { t with rereads := Tab.drop t.rereads w }
    let loc := (s.tile p).locOf w
    if transientErr o = true then (s1.modTile p fun t => t.setEcc w o).tileTransient p loc
    else
      let s2 := s1.poisonWord p w
      if scrub then s2.scrubPoison p w else s2

/-- Tile `p` meets a lasting error in its state or its program store. -/
def State.stateUe (s : State) (p kind : Nat) (own : Option (List Nat)) : State :=
  (s.modTile p fun t => t.eccFlag 5).tileFault p kind own

/-- A correctable error in the program store or the state of a tile (R366). -/
def State.tileCe (s : State) (p : Nat) : State :=
  (s.modTile p fun t => ({ t with eccCnt := satAdd t.eccCnt 0 16 1 }).eccFlag 0).logEv (srcTile p) .ce 0 none
    (some (BitVec.ofNat 32 (s.tile p).scrubLap.toNat))

/-- A word of memory `m` other than a scratchpad's checks as correctable when it is met (R363, R366). The scratchpads note theirs where
they are read. -/
def State.memCe (s : State) (m : MemRef) : State :=
  let ce := fun (src : BitVec 16) => s.logEv src .ce 0 none none
  let chan := fun (c : Nat) => if 8 ≤ c then s else ce (srcChan c)
  match m with
  | .scratchpad _ _ => s
  | .programStore p => if s.tileUpNow p then s.tileCe p else s
  | .tileState p _ => if s.tileUpNow p then s.tileCe p else s
  | .splice c _ _ => chan c
  | .tagCache c _ => chan c
  | .writtenMap c _ => chan c
  | .schedTask _ => ce srcSched
  | .schedHitch _ => ce srcSched
  | .meshPacket _ => s

/-- A task whose state is lost retires with status 0x0F (R362). -/
def State.loseTask (s : State) (u : Nat) : State :=
  match s.task u with
  | none => s
  | some t =>
    match t.st with
    | .retired => s
    | .running p k => (s.endTask p k 0x0F).settleTurns
    | _ => ((s.logEv srcSched .taskStatus 0 (some t.tag) (some 0x0F)).retire u 0x0F).settleTurns

/-- An uncorrectable error of a link or a router marks packet `i` of the mesh bad (R362). -/
def State.markBad (s : State) (i : Nat) : State :=
  match s.mesh[i]? with
  | some q => { s with mesh := s.mesh.set i { q with bad := true } }
  | none => s

/-- A word checks as `o.met` when it is read (R363): a correctable one is corrected and noted (R366); an uncorrectable one is read again and
checks as `o.again`: a transient error is logged, a lasting one has the effect the memory gives it (R362). A scratchpad's words are those that
wait for their re-read; of a lost tile, they are read through its router (R380). -/
def execReread (m : MemRef) (o : RereadEcc) (s : State) : Ans :=
  .next <|
  if s.glb.st = .off ∨ o.met = .clean then s
  else if o.met = .correctable then s.memCe m
  else
    let tr := fun (src : BitVec 16) => s.logEv src .ueTransient 0 none none
    match m with
    | .scratchpad p w => if s.tileUpNow p then s.rereadSpad p w o.again else s
    | .programStore p => if !s.tileRuns p then s else if transientErr o.again = true then s.tileTransient p 0 else s.stateUe p 3 none
    | .tileState p k =>
      if !s.tileRuns p then s
      else if transientErr o.again = true then s.tileTransient p 0
      else s.stateUe p 2 (k.map fun k => if (s.strand p k).st = StrandSt.free then [] else [(s.strand p k).uid])
    | .splice c set way =>
      if 8 ≤ c then s
      else if transientErr o.again = true then tr (srcChan c)
      else s.modChan c fun x => { x with sets := Tab.put x.sets set ((Tab.get [] x.sets set).eraseIdx way) }
    | .tagCache c pg =>
      if 8 ≤ c then s
      else if transientErr o.again = true then tr (srcChan c)
      else s.modChan c fun x => { x with
        lostTags := (List.range 128).foldl (fun a i => a.add (128 * pg + i)) x.lostTags
        tagLines := x.tagLines.filter fun l => !(l.host == none && l.key == pg) }
    | .writtenMap c w =>
      if 8 ≤ c then s
      else if transientErr o.again = true then tr (srcChan c)
      else s.modChan c fun x => { x with lostWpm := (List.range 64).foldl (fun a i => a.add (64 * w + i)) x.lostWpm }
    | .schedTask u => if transientErr o.again = true then tr srcSched else s.loseTask u
    | .schedHitch h => if 256 ≤ h then s else if transientErr o.again = true then tr srcSched else (s.resetHitch h).settleTurns
    | .meshPacket i => s.markBad i

/-! ## Heal tests -/

/-- The heal test of a candidate (R367): corrected, written back and read again. -/
def execHealTest (tile word : Nat) (o : Ecc) (s : State) : Ans :=
  .next (
    let t := s.tile tile
    if !s.tileRuns tile ∨ !t.heals.has (t.place word) then s
    else
      let s1 := s.modTile tile fun t => { t with heals := t.heals.del (t.place word) }
      let set := fun (e : Ecc) => s1.modTile tile fun t => t.setEcc word e
      let loc := t.locOf word
      if !t.valid.has word then s1
      else
        match t.wordEcc word with
        | .poisoned => s1
        | .uncorrectable => s1.modTile tile fun t => t.askReread (8 * word) 8
        | _ =>
          match o with
          | .clean => (set .clean).logEv (srcTile tile) .ceHealed loc none none
          | .correctable => ((set .correctable).modTile tile fun t => t.eccFlag 3).logEv (srcTile tile) .ceHard loc none none
          | .uncorrectable => (set .uncorrectable).modTile tile fun t => t.askReread (8 * word) 8
          | .poisoned => s1.poisonWord tile word)

/-! ## Scrubber -/

/-- Place of a scratchpad word in the scrubber's order (R370): bank by bank, line by line. -/
def Tile.scrubKey (t : Tile) (w : Nat) : Nat :=
  let nb := t.banks.length
  (w / 4 % nb * 2048 + w / 4 / nb) * 4 + w % 4

/-- The valid word whose place is the first at or after `pos`. -/
def Tile.nextScrub (t : Tile) (pos : Nat) : Option Nat :=
  t.valid.foldl (fun a w =>
    if t.scrubKey w < pos then a
    else
      match a with
      | some b => if t.scrubKey w < t.scrubKey b then some w else a
      | none => some w) none

/-- Words of the scratchpad in service, the program store's first place in the scrubber's order. -/
def Tile.scrubEnd (t : Tile) : Nat := t.banks.length * 8192

/-- TCLK the lap under way has used, from the timebase and the divisor in force. -/
def State.lapUsed (s : State) (t : Tile) : Nat := t.lapCount + (s.glb.time - t.lapMark) * 48 / s.svc.div

/-- A lap ends (R371). -/
def State.lapEnd (s : State) (p : Nat) : State :=
  let t := s.tile p
  s.modTile p fun x => { x with
    lapTclk := BitVec.ofNat 64 (s.lapUsed t), lapUs := BitVec.ofNat 32 ((s.glb.time - t.lapStart) / 100), scrubLap := t.scrubLap + 1
    lapStart := s.glb.time, lapMark := s.glb.time, lapCount := 0, scrubPos := 0, alarmed := false }

/-- The tile scrubs (R370): a tile that is ON and no SPARE. -/
def State.scrubs (s : State) (p : Nat) : Bool := s.tileRuns p && (s.tile p).scrubCtl.getLsbD 0

/-- The scrubber checks the next word, which checks as `o` (R370 to R372): a valid scratchpad word, then the words of the program
store, then the lap ends. A word that is poisoned already stays so, and is a lasting error at once (R364). -/
def execScrub (tile : Nat) (o : Ecc) (s : State) : Ans :=
  .next (
    let t := s.tile tile
    if !s.scrubs tile then s
    else
      match t.nextScrub t.scrubPos with
      | some w =>
        let s1 := s.modTile tile fun x => { x with scrubPos := t.scrubKey w + 1 }
        if t.wordEcc w = .poisoned then s1.scrubPoison tile w
        else
          let s2 := s1.modTile tile fun x => x.setEcc w o
          match o with
          | .clean => s2
          | .correctable => s2.ceEvent tile w
          | .uncorrectable => s2.modTile tile fun x => { x with rereads := Tab.put x.rereads w true }
          | .poisoned => (s1.poisonWord tile w).scrubPoison tile w
      | none =>
        let i := max t.scrubPos t.scrubEnd - t.scrubEnd
        let s1 := s.modTile tile fun x => { x with scrubPos := t.scrubEnd + i + 1 }
        let s2 := if o = .correctable then s1.tileCe tile else if o = .poisoned then s1.stateUe tile 3 none else s1
        if 8191 ≤ i then s2.lapEnd tile else s2)

/-- The lap alarm threshold in microseconds; 0 acts as 1 ms. -/
def Tile.alarmUs (t : Tile) : Nat := max 1 (getFld t.scrubCtl 16 16) * 1000

/-- The lap under way has lasted `lapUs` microseconds, longer than the alarm threshold (R371). A command that names another length than the
timebase gives does nothing (notes/assumptions/40.md). -/
def execScrubAlarm (tile lapUs : Nat) (s : State) : Ans :=
  .next (
    let t := s.tile tile
    if !s.scrubs tile ∨ t.alarmed ∨ lapUs ≠ (s.glb.time - t.lapStart) / 100 ∨ lapUs ≤ t.alarmUs then s
    else
      (s.modTile tile fun x => { x with scrubAlarm := true, alarmed := true }).logEv (srcTile tile) .scrubAlarm 0
        (some (BitVec.ofNat 32 lapUs)) none)

/-! ## Error log -/

/-- Event `a` is committed before event `b` (R390). -/
def LogEvent.before (a b : LogEvent) : Bool := decide (a.time < b.time) || (a.time == b.time && decide (a.source.toNat < b.source.toNat))

/-- The place in the queue of the event to commit next. -/
def nextEvent (l : List LogEvent) : Option Nat :=
  (List.range l.length).find? fun i =>
    match l[i]? with
    | none => false
    | some e => (List.range l.length).all fun j =>
        match l[j]? with
        | none => true
        | some f => !f.before e && (decide (i ≤ j) || e.before f)

/-- Store an entry (R391): the first 896 are kept, later ones go round the ring. -/
def ErrLog.store (g : ErrLog) (x : LogStored) : ErrLog :=
  if g.first.length < 896 then { g with first := g.first ++ [x] }
  else if g.rcount < 128 then { g with ring := Tab.put g.ring ((g.rhead + g.rcount) % 128) x, rcount := g.rcount + 1 }
  else { g with ring := Tab.put g.ring g.rhead x, rhead := (g.rhead + 1) % 128, ovf := true }

/-- The 32 bytes of an entry (R387). -/
def LogStored.bytes (x : LogStored) : List Byte :=
  let e := x.ev
  leBytes 8 e.time ++ leBytes 2 e.source.toNat ++ leBytes 2 (if x.lost then 0xFFFF else e.event.toNat)
    ++ [e.sev, if e.late then 1 else 0] ++ leBytes 2 x.seq.toNat ++ leBytes 8 e.loc.toNat ++ leBytes 4 e.info0.toNat ++ leBytes 4 e.info1.toNat

/-- Mirror base (R392). -/
def ErrLog.mirror (g : ErrLog) : Nat := g.mirHi.toNat % 256 * 2 ^ 32 + g.mirLo.toNat / 2 ^ 15 * 2 ^ 15

/-- Service firmware writes an event to the mirror in host memory, with the PF's rights (R392). -/
def State.mirrorEvent (s : State) (x : LogStored) : State :=
  if !s.elog.mirLo.getLsbD 0 || s.svc.romMode then s
  else
    let a := s.elog.mirror + s.elog.mirPos * 32
    let s1 := { s with elog := { s.elog with mirPos := (s.elog.mirPos + 1) % 1024 } }
    if a < 0xC000000000 ∨ s.hostPermit 0 a true ≠ 0 then s1
    else
      match s.hostAddr 0 a with
      | some h => s1.emit (.hostWrite 0 h x.bytes)
      | none => s1

/-- The event to commit next is committed, 10 microseconds after its `TIME` (R390 to R393). `copiesOk`: at least two copies match
what was written; `readOk`: a read finds two copies equal. -/
def execLogCommit (copiesOk readOk : Bool) (s : State) : Ans :=
  .next (
    match (nextEvent s.elog.queue).bind fun i => (s.elog.queue[i]?).map fun e => (i, e) with
    | none => s
    | some (i, e) =>
      if s.glb.time < e.time + 1000 ∨ s.glb.st = .off then s
      else
        let g := { s.elog with queue := s.elog.queue.eraseIdx i, seq := s.elog.seq + 1 }
        let x : LogStored := { ev := { e with late := decide (e.time + 1000 < s.glb.time) }, seq := BitVec.ofNat 16 g.seq, lost := !readOk }
        let g1 := g.store x
        let bad := !copiesOk || !readOk
        let g2 := if bad then { g1 with loss := true, lostCount := satAdd g1.lostCount 0 32 1 } else g1
        let s1 := ({ s with elog := g2 }).mirrorEvent x
        if bad || g2.irqSev.getLsbD e.sev.toNat || decide (3 ≤ e.sev.toNat) then s1.irq 0 else s1)

/-- A write to `LOG_CTL` (R391, R393). -/
def ErrLog.ctl (g : ErrLog) (v : Word) : ErrLog :=
  let g1 := { g with irqSev := BitVec.ofNat 5 (getFld v 8 5) }
  if v.getLsbD 0 then { g1 with first := [], ring := [], rhead := 0, rcount := 0, ovf := false, seq := 0 } else g1

/-- Writing 1 to `LOG_CTL.CLEAR` empties the log (R391). -/
def execLogClear (fn : Nat) (v : Word) (s : State) : Ans :=
  .next (if !s.pfWrites fn 0x900004 || !v.getLsbD 0 then s else { s with elog := s.elog.ctl v })

end Sys2Proof.Machine
end

