-- ==== Sys2Proof/Machine/Faults.lean ====
section
/-! DEFINITION. Retirements (R373 to R376), lost tiles (R377), the recovery of the fault in latch entry 0 (R379 to R386), and the
re-centring of memory channels (R420 to R422). -/

namespace Sys2Proof.Machine

/-! ## Retirement command -/

/-- Service register `SVC_RETIRE_CMD`. -/
def retireCmdOff : Nat := 0x10600

/-- The outcome of a retirement in `SVC_RETIRE_STATUS`; a bit that rises raises the service interrupt (R442). -/
def State.retireReport (s : State) (reason : Nat) : State :=
  let ok := reason == 0
  let rises := if ok then !s.svc.retireDone else !s.svc.retireErr
  let s1 := { s with svc := { s.svc with
    retireDone := s.svc.retireDone || ok, retireErr := s.svc.retireErr || !ok, retireReason := BitVec.ofNat 3 reason } }
  if rises then s1.irq 1 else s1

/-- A write of a retirement of kind `kind` (R373): discarded with reason BUSY while one is in progress; BAD_ARG for a tile that does
not exist, and where the service controller takes no retirement. -/
def State.retireCmd (s : State) (fn : Nat) (v : Word) (kind : Nat) (act : State → Nat → State) : State :=
  let p := getFld v 2 7
  if !s.pfWrites fn retireCmdOff || !v.getLsbD 31 || getFld v 0 2 != kind then s
  else if s.svc.retireBusy then s.retireReport 5
  else if 68 ≤ p ∨ s.svc.romMode ∨ s.glb.st = .halted then s.retireReport 3
  else act s p

/-- The RETIRE record of a line, a bank or a tile. -/
def recRetire (kind tile bank line : Nat) : Nat × List Byte :=
  (0x06, [BitVec.ofNat 8 kind, BitVec.ofNat 8 tile, BitVec.ofNat 8 bank, 0] ++ leBytes 2 line)

/-- RETIRED is logged: the kind, and the spare used where there is one. -/
def State.logRetired (s : State) (p kind : Nat) (spare : Option Nat) : State :=
  s.logEv (srcTile p) .retired 0 (some (BitVec.ofNat 32 kind)) (spare.map (BitVec.ofNat 32))

/-- LINE (R374): the line is copied to the lowest free spare line of its bank, unchanged, so that no word of the scratchpad changes. -/
def execLineRetirement (fn : Nat) (v : Word) (flashOk : Bool) (s : State) : Ans :=
  .next (s.retireCmd fn v 0 fun s p =>
    let bank := getFld v 9 6
    let line := getFld v 15 11
    match addSpare (s.tile p).spare bank line with
    | none => s.retireReport 1
    | some (m, k) =>
      let s1 := (s.modTile p fun t => { t with spare := m }).logRetired p 0 (some k)
      if flashOk then (s1.commit [recRetire 0 p bank line]).retireReport 0 else s1.retireReport 4)

/-- The retirement of tile `p` waits for the recovery of the tile (R373, R376). -/
def State.retireTileOf (s : State) (p : Nat) (flashOk : Bool) : State :=
  ({ s with svc := { s.svc with retireBusy := true, retireTile := some p, retireFlash := flashOk } }).loseTile p

/-- BANK (R375, R376): recorded; the bitmap takes it at the next whole load. A placed tile left with fewer banks than its `MINB` is
retired too. -/
def execBankRetirement (fn : Nat) (v : Word) (flashOk : Bool) (s : State) : Ans :=
  .next (s.retireCmd fn v 1 fun s p =>
    let bank := getFld v 9 6
    if !flashOk then s.retireReport 4
    else
      let s1 := (s.commit [recRetire 1 p bank 0]).logRetired p 1 none
      let l := s1.logOf p
      if (s1.rig.placeOf l).isSome ∧ (s1.mapEnt l).role = 0 ∧ s1.usableBanks p < s1.rig.minBanks l then s1.retireTileOf p true
      else s1.retireReport 0)

/-- TILE (R373, R377): the tile is lost; one that is retired already stays so. -/
def execTileRetirement (fn : Nat) (v : Word) (flashOk : Bool) (s : State) : Ans :=
  .next (s.retireCmd fn v 2 fun s p => if s.journal.tiles.has p then s.retireReport 0 else s.retireTileOf p flashOk)

/-- A tile in ON has sent no heartbeat for 0.5 microseconds; or `supply`: its domain, in whatever state, reports a supply or isolation
fault (R377). -/
def execTileLost (tile : Nat) (supply : Bool) (s : State) : Ans :=
  .next (
    let up := decide (tile < 68) && s.glb.st != .halted && s.glb.st != .off && !(s.tile tile).lost
    if up && (supply || s.pd tile == 2) then s.loseTile tile else s)

/-! ## Recovery -/

/-- Update latch entry `i`. -/
def State.modFault (s : State) (i : Nat) (g : FaultEnt → FaultEnt) : State :=
  { s with svc := { s.svc with faults := s.svc.faults.modify i g } }

/-- The fault in entry `i` has been acted on and ended tasks `us`; its window closes when they have retired (R379 step 7, R383). -/
def State.actedOn (s : State) (i : Nat) (us : List Nat) : State :=
  (s.modFault i fun f => { f with acted := true, uids := f.uids ++ us }).closeWindow

/-- A task ends on its own tile, to run again (R382): its slots return (R215, R220), no record is formed, and it is ready when its
strand is free. -/
def State.evict (s : State) (p k : Nat) : State :=
  (s.endTaskWith p k 0x09 false).modTask (s.strand p k).uid fun t => { t with lostTo := true }

/-- TILE_STATE and PSTORE (R383): the owning task, or every task of the tile, ends and runs again; PSTORE rewrites the program
store. A task whose end is under way is not concerned. -/
def State.recoverState (s : State) (i : Nat) (f : FaultEnt) (p : Nat) : State :=
  let concerns := fun (u : Nat) => f.kind == 3 || (match f.own with | some l => l.contains u | none => true)
  let es := s.taskList.filterMap fun e => match e.2.st with
    | .running q k => if q == p && concerns e.1 && (s.strand p k).st != .ending then some (e.1, k) else none
    | _ => none
  let s1 := es.foldl (fun a e => a.evict p e.2) s
  let s2 := if f.kind = 3 then s1.writeStore s1.shadow (s1.logOf p) else s1
  s2.actedOn i (es.map (·.1))

/-- CHANNEL (R383, R386): the channel's outstanding requests complete with status 0x01, those that the mesh still holds for it when they
reach it (R314); the recovery ends once none is left. -/
def State.recoverChan (s : State) (i c : Nat) : State :=
  let x := s.chan c
  let s1 := x.fills.foldl (fun a f => f.2.waiters.foldl (fun b w => b.respond (.chan c) w.2.2 [] 1) a) s
  let s2 := x.bufs.foldl (fun a b => b.2.acks.foldl (fun d w => d.ackTo (.chan c) w 1) a) s1
  let s3 := s2.modChan c fun y => { y with fills := [], bufs := [] }
  if s3.mesh.any fun q => q.dests.contains (.chan c) then s3 else s3.actedOn i []

/-- The tasks in flight on physical tile `p`, or in its launch slot, end without a record and are ready again (R379 step 2, R382);
their slots return or are abandoned (R215, R220), and the replays they made are counted (R303). -/
def State.endAllOn (s : State) (p : Nat) : State × List Nat :=
  (s.onTile p).foldl (fun (a : State × List Nat) e =>
    match e.2.st with
    | .running _ k => ((a.1.endSlots p k 0x09).modTask e.1 fun t => (t.counted (s.strand p k)).again, a.2 ++ [e.1])
    | _ => (a.1.modTask e.1 Task.again, a.2 ++ [e.1])) (s, [])

/-- Bights of this node that logical tile `l` consumes. -/
def State.consumedOn (s : State) (l : Nat) : List (Nat × BightDecl) := s.rig.bights.filterMap fun e =>
  match e.2 with
  | some d => if d.cnode = s.node ∧ d.ctile = l then some (e.1, d) else none
  | none => none

/-- The slots of the bights a lost tile consumes (R380): those of ended tasks become EMPTY with their credits returned, a DRAINING
one becomes FULL and is marked returned. -/
def State.settleSlots (s : State) (l : Nat) (ended : List Nat) : State :=
  (s.consumedOn l).foldl (fun a e => (List.range e.2.slots).foldl (fun x j =>
    let sl := x.slotAt e.1 j
    let gone := match sl.prod, sl.puid with
      | some q, some u => q.1 == x.node && ended.contains u
      | _, _ => false
    if sl.st = .empty then x
    else if gone then x.freeSlot e.1 j
    else if sl.st = .draining then x.setSlot e.1 j { sl with st := .full, returned := true, holder := none }
    else x) a) s

/-- The words of the slots that are not EMPTY. -/
def State.liveWords (s : State) (l : Nat) : List Nat :=
  (s.consumedOn l).flatMap fun e => ((List.range e.2.slots).filter fun j => (s.slotAt e.1 j).st != .empty).flatMap fun j =>
    wordsOf (e.2.slotOff j) (e.2.slotsz * 64)

/-- A copied word can be read (R381). -/
def Tile.wordReads (t : Tile) (w : Nat) : Bool := transientErr (t.wordEcc w)

/-- The words of live slots are copied from tile `p` to tile `q` (R380); correctable ones are corrected on the way and noted (R366). -/
def State.copyWords (s : State) (p q : Nat) (ws : List Nat) : State :=
  let src := s.tile p
  (ws.foldl (fun a w => a.noteCe p (8 * w) 8) s).modTile q fun t =>
    (ws.filter src.valid.has).foldl (fun a w => a.storeWord w (bytesAt (8 * w) (src.bytes (8 * w) 8))) t

/-- What a consumer shows of a bight (R380): the read pointer, and each slot's state and returned mark. The consumer of this node shows its
own; one of another node, what the service controller has from it. -/
def State.bightView (s : State) (views : List BightView) (b : Nat) (d : BightDecl) : Option BightView :=
  if d.cnode = s.node then
    some { bight := b, rd := (s.bight b).rd
           slots := (List.range d.slots).map fun j =>
             let x := s.slotAt b j
             (match x.st with | .empty => 0 | .filling => 1 | .full => 2 | .draining => 3, x.returned) }
  else views.find? fun v => v.bight == b

/-- The producer of rank `r` as it follows from the consumer's view (R380): its credits and its next slot. -/
def producerOf (v : BightView) (d : BightDecl) (r : Nat) : Nat × Nat :=
  let at_ := fun j => v.slots.getD j (0, false)
  let mine := ((List.range d.slots).map fun i => (v.rd + i) % d.slots).filter fun j => j % d.nprod == r
  let used := mine.filter fun j => (at_ j).1 != 0
  let fresh := mine.filter fun j => (at_ j).1 == 1 || ((at_ j).1 == 2 && !(at_ j).2)
  (d.depth - used.length, match (if fresh.isEmpty then used else fresh).getLast? with
    | some j => d.after j
    | none => mine.headD r)

/-- The bights that logical tile `l` of this node produces into, each with its rank. -/
def State.producedBy (s : State) (l : Nat) : List (Nat × BightDecl × Nat) := s.rig.bights.filterMap fun e =>
  match e.2 with
  | some d => (d.rank (s.node, l)).map fun r => (e.1, d, r)
  | none => none

/-- Every consumer that the producer state of logical tile `l` is to be rebuilt from shows its bight. -/
def State.viewsKnown (s : State) (views : List BightView) (l : Nat) : Bool :=
  (s.producedBy l).all fun e => (s.bightView views e.1 e.2.1).isSome

/-- The producer state of logical tile `l` is rebuilt from the consumers (R380), and the credits that the fence held for it are
discarded. -/
def State.rebuild (s : State) (views : List BightView) (l : Nat) : State :=
  (s.producedBy l).foldl (fun a e =>
    match a.bightView views e.1 e.2.1 with
    | none => a
    | some v =>
      let n := producerOf v e.2.1 e.2.2
      let b := a.modBight e.1 fun y => { y with credit := Tab.put y.credit e.2.2 n.1, nextWr := Tab.put y.nextWr e.2.2 n.2 }
      { b with mesh := b.mesh.filter fun p => !(p.dst == .fenced l && p.body == .credit e.1 e.2.2) }) s

/-- The router of a lost tile discards what it would deliver (R379 step 1), and the slot messages the tile sent to itself are gone
with it. -/
def State.discard (s : State) (p l : Nat) : State :=
  { s with mesh := s.mesh.filter fun x => !(x.dst == .tile p) && !(x.src == .tile p && x.dst == .fenced l) }

/-- The retirement of tile `p` is recorded and logged (R373), with the spare used. -/
def State.recordTile (s : State) (p : Nat) (spare : Option Nat) : State :=
  let s1 := if s.svc.retireTile = some p ∧ !s.svc.retireFlash then s else s.commit [recRetire 2 p 0 0]
  let s2 := s1.logRetired p 2 spare
  if s.svc.retireTile = some p then
    ({ s2 with svc := { s2.svc with retireBusy := false, retireTile := none, retireFlash := true } }).retireReport
      (if spare.isNone ∧ (s.rig.placeOf (s.logOf p)).isSome then 2 else if s.svc.retireFlash then 0 else 4)
  else s2

/-- The spare that serves a lost tile (R379 step 3): the lowest spare logical tile that qualifies. -/
def State.chooseSpare (s : State) (l : Nat) : Option Nat := (List.range 68).find? fun n =>
  let e := s.mapEnt n
  e.role == 1 && !s.journal.tiles.has e.phys && !(s.tile e.phys).lost && decide (s.rig.minBanks l ≤ s.usableBanks e.phys)

/-- The fence of every spare tile clears, and the packets held for it go on (R21). -/
def State.freeSpares (s : State) : State :=
  (List.range 68).foldl (fun a n =>
    if (a.mapEnt n).role = 1 ∧ (a.mapEnt n).fenced then (a.setMap n { a.mapEnt n with fenced := false }).release n else a) s

/-- No spare qualifies, or the tile's state cannot be read (R381), for the fault in latch entry `i`. -/
def State.noSpare (s : State) (i p l : Nat) (ended : List Nat) : State :=
  let exhausted := !((List.range 68).any fun n => (s.mapEnt n).role == 1)
  let s1 := (s.consumedOn l).foldl (fun a e => { a with bights := Tab.drop a.bights e.1 }) (s.discard p l)
  let s2 := ((s1.recordTile p none).setMap l { phys := p, role := 2 }).tileOff p
  let s3 := s2.logSev (srcTile p) .fault (if exhausted then 4 else 3) 0 (some 1) (some 0)
  let s4 := ended.foldl (fun a u => a.retire u 0x09) (s3.release l)
  s4.freeSpares.actedOn i []

/-- Steps 1 and 2 of R379 for physical tile `p`, which serves logical tile `l`: the fence stands, the tasks end and are remembered in latch
entry `i`, and the tile's packets are discarded. -/
def State.fenceLost (s : State) (i p l : Nat) : State :=
  let r := ((s.setMap l { s.mapEnt l with fenced := true }).modTile p fun t => { t with deadRouter := true }).endAllOn p
  let s1 := r.1.modFault i fun f => { f with uids := f.uids ++ r.2 }
  (s1.settleSlots l (((s1.svc.faults[i]?).map (·.uids)).getD [])).discard p l

/-- Steps 4 to 6 of R379: physical tile `q`, which serves logical tile `n`, takes over from tile `p`, which serves `l`. -/
def State.takeOver (s : State) (p l q n : Nat) (ws : List Nat) (producer : ProducerSrc) : State :=
  let s2 := (s.tileOn q).copyWords p q ws
  let s3 := match producer with
    | .readable => s2
    | .views v => s2.rebuild v l
  let s4 := (s3.recordTile p (some q)).tileOff p
  let s5 := ((s4.setMap l { phys := q, role := 0 }).setMap n { phys := p, role := 2 }).writeStore s4.shadow l
  (s5.release l).release n

/-- The producer state of logical tile `l` can be had: read, or rebuilt from what the consumers show (R380). -/
def State.producerKnown (s : State) (l : Nat) (x : ProducerSrc) : Bool :=
  match x with
  | .readable => true
  | .views v => s.viewsKnown v l

/-- TILE_LOST (R379 to R381) for physical tile `p`, latched in entry `i`. `readable`: the tile's bight state can be read; `producer`:
how its producer state is known. The recovery waits, with the tile fenced, for the re-reads of words it is to copy (R363), for the consumers of
other nodes from which it rebuilds producer state, and, with the spare fenced too, until the mesh holds no packet for the spare (R21). -/
def State.recoverLost (s : State) (i p : Nat) (readable : Bool) (producer : ProducerSrc) : State :=
  let l := s.logOf p
  if (s.rig.placeOf l).isNone ∨ (s.mapEnt l).role ≠ 0 then
    ((((s.recordTile p none).setMap l { phys := p, role := 2 }).release l).tileOff p).actedOn i []
  else
    let s1 := s.fenceLost i p l
    let us := ((s1.svc.faults[i]?).map (·.uids)).getD []
    let ws := s1.liveWords l
    match s1.chooseSpare l with
    | none => s1.noSpare i p l us
    | some n =>
      let t := s1.tile p
      let q := s1.physOf n
      if !readable then s1.noSpare i p l us
      else if ws.any fun w => t.wordEcc w == .uncorrectable then s1.modTile p fun t => ws.foldl (fun a w => a.askReread (8 * w) 8) t
      else if !ws.all t.wordReads then s1.noSpare i p l us
      else if !s1.producerKnown l producer then s1
      else
        let s2 := (s1.setMap n { s1.mapEnt n with fenced := true }).modFault i fun f => { f with spare := some q }
        if !s2.meshClear q then s2
        else (s2.takeOver p l q n ws producer).actedOn i []

/-- The fault in latch entry `i` is recovered (R379 to R386). -/
def State.recover (s : State) (i : Nat) (f : FaultEnt) (readable : Bool) (producer : ProducerSrc) : State :=
  let n := f.source.toNat % 4096
  (match f.kind.toNat with
   | 1 => s.recoverLost i n readable producer
   | 4 => s.recoverChan i n
   | _ => s.recoverState i f n).settle.settleTurns

/-- The fault in latch entry 0 is recovered (R379 to R386). Once it has been acted on, one in entry 1 waits until its window closes (R385),
but for the loss of the spare it has chosen, with which the recovery goes on at step 3 (R384). -/
def execFaultRecovery (readable : Bool) (producer : ProducerSrc) (s : State) : Ans :=
  .next (
    if s.glb.st = .halted ∨ s.glb.st = .off then s
    else
      match s.svc.faults with
      | f :: rest =>
        if !f.acted then s.recover 0 f readable producer
        else
          match rest with
          | g :: _ =>
            if !g.acted && g.kind == 1 && f.spare == some (g.source.toNat % 4096) then s.recover 1 g readable producer
            else s
          | [] => s
      | [] => s)

/-! ## Re-centring -/

/-- The timebase stands at channel `chan`'s re-centre slot (R420). -/
def State.atSlot (s : State) (chan : Nat) : Bool := s.glb.time % 100000 == 12500 * chan

/-- The re-centre slot of a channel at PHY temperature `temp` (R420 to R422): deferred while a recovery window is open; a full
retrain at 15 degrees or more from the training point, or where one is due from an earlier slot, unless another channel retrains; else a
re-centre. -/
def execRecentre (chan : Nat) (temp : Int) (s : State) : Ans :=
  .next (
    let x := s.chan chan
    if 8 ≤ chan ∨ !s.atSlot chan ∨ s.pd (68 + chan) ≠ 2 ∨ x.train ≠ .trained ∨ x.busy ∨ x.retrain ∨ s.glb.st = .off then s
    else if !s.svc.faults.isEmpty then s.modChan chan fun x => { x with deferred := true }
    else
      let full := x.due || decide (15 ≤ (temp - x.tTrain).natAbs)
      let other := (List.range 8).any fun c => c != chan && (s.chan c).retrain
      s.modChan chan fun x => { x with tNow := temp, busy := true, retrain := full && !other, due := full && other, deferred := false })

/-- A re-centre ends: the channel serves again. -/
def execRecentreEnd (chan : Nat) (s : State) : Ans :=
  .next (
    let x := s.chan chan
    if !x.busy || x.retrain then s else s.modChan chan fun x => { x with busy := false, trainCnt := satAdd x.trainCnt 0 16 1 })

/-- A full retrain ends (R421): success sets the training point, and failure takes the channel out of service (R386). A fault that is
latched during it has ended it before (State.latchFault). -/
def execFullRetrainEnd (chan : Nat) (ok : Bool) (s : State) : Ans :=
  .next (
    if !(s.chan chan).retrain then s
    else
      let s1 := s.modChan chan fun x => { x with busy := false, retrain := false }
      if ok then s1.modChan chan fun x => { x with tTrain := x.tNow, trainCnt := satAdd x.trainCnt 16 16 1 }
      else s1.channelOut chan)

end Sys2Proof.Machine
end

