-- ==== Sys2Proof/Machine/Firmware.lean ====
section
/-! DEFINITION. Service firmware (R423 to R428): writing a slot, switching with its hand-over, the boot slot, and the ROM's LOAD (R418). -/

namespace Sys2Proof.Machine

/-! ## Command register and status -/

/-- The outcome of a firmware command in `SVC_FW_STATUS`; a bit that rises raises the service interrupt (R442). -/
def State.fwReport (s : State) (reason : Nat) : State :=
  let ok := reason == 0
  let rises := if ok then !s.svc.fwDone else !s.svc.fwErr
  let s1 := { s with svc := { s.svc with
    fwDone := s.svc.fwDone || ok, fwErr := s.svc.fwErr || !ok, fwReason := BitVec.ofNat 8 reason } }
  if rises then s1.irq 1 else s1

/-- A firmware command ends. -/
def State.fwEnd (s : State) (reason : Nat) : State :=
  { s with svc := { s.svc with fwBusy := false, fwWait := none, fwAlive := none } }.fwReport reason

/-- A write of command `code` to `SVC_FW_CMD` (R411, R418, R425). `rom`: the ROM takes it; `fw`: the firmware does. -/
def State.fwCmd (s : State) (fn : Nat) (v : Word) (code : Nat) (rom fw : Bool) (act : State → State) : State :=
  if !s.pfWrites fn fwCmdOff || getFld v 0 4 != code then s
  else if s.svcBusy then s.fwReport 0x0D
  else if !(if s.svc.romMode then rom else fw) || !(s.glb.st.serving || s.glb.st == .held) then s.fwReport 0x0C
  else act s

/-! ## Journal payloads (R424) -/

/-- BEGIN. -/
def recFwBegin (n : Bool) (ver : Word) : Nat × List Byte := (0x05, [1, if n then 1 else 0] ++ leBytes 4 ver.toNat)
/-- DONE. -/
def recFwDone (n : Bool) (ver : Word) (digest : List Byte) (key : Nat) : Nat × List Byte :=
  (0x05, [2, if n then 1 else 0] ++ leBytes 4 ver.toNat ++ digest ++ [BitVec.ofNat 8 key])
/-- ACTIVATE. -/
def recFwActivate (n : Bool) (ver : Word) : Nat × List Byte := (0x05, [3, if n then 1 else 0] ++ leBytes 4 ver.toNat)
/-- BAD. -/
def recFwBad (n : Bool) (ver : Word) (reason : Byte) : Nat × List Byte := (0x05, [4, if n then 1 else 0] ++ leBytes 4 ver.toNat ++ [reason])

/-! ## WRITE_SLOT, SET_BOOT -/

/-- Largest firmware image (R423). -/
def fwSize : Nat := 4194304

/-- The running firmware comes from slot `n`. -/
def State.runsFw (s : State) (n : Bool) : Bool := !s.svc.romMode && !s.svc.fwMem && s.svc.runSlot == n

/-- Write an image into firmware slot `n` as R254 gives (R424): BEGIN, erase and program, read back and validate, DONE or BAD; BAD too where
the flash device fails to erase, program or read back. -/
def State.storeFw (s : State) (n : Bool) (b : List Byte) (flashOk : Bool) : State × Nat :=
  let s1 := s.commit [recFwBegin n (imgVersion b)]
  if !flashOk then (s1.commit [recFwBad n (imgVersion b) 0x0F], 0x0F)
  else
  let erased := (b.length + sectorSize - 1) / sectorSize * sectorSize
  let s2 := { s1 with flash := flashPut s1.flash (fwBase n) erased b }
  let back := s2.flashRead (fwBase n) b.length
  match s2.fwErrOf back with
  | some e => (s2.commit [recFwBad n (imgVersion back) (BitVec.ofNat 8 e.reason)], e.reason)
  | none => (s2.commit [recFwDone n (imgVersion back) (imgDigest back) (imgKey back)], 0)

/-- `WRITE_SLOT` of `SVC_FW_CMD` (R424, R425): the slot of the running firmware is never written, nor is the boot slot while it is VALID
(R254). -/
def execFwWriteSlot (fn : Nat) (v : Word) (io : SourceIo) (s : State) : Ans :=
  .next (s.fwCmd fn v 1 true true fun s =>
    let n := slotOf v
    if s.runsFw n || (s.journal.fwBoot == n && (s.journal.fw n).st == .valid) then s.fwReport 0x0C
    else
      match s.source io fwSize with
      | none => s.fwReport 0x0E
      | some (s1, b) =>
        let r := s1.storeFw n b io.flashOk
        r.1.fwReport r.2)

/-- `SET_BOOT` of `SVC_FW_CMD` (R425). -/
def execFwSetBoot (fn : Nat) (v : Word) (io : SourceIo) (s : State) : Ans :=
  .next (s.fwCmd fn v 3 false true fun s =>
    let n := slotOf v
    let x := s.journal.fw n
    if x.st ≠ .valid ∨ !s.runsFw n then s.fwReport 0x0C
    else if !io.flashOk then s.fwReport 0x0F
    else (s.commit [recFwActivate n x.ver]).fwReport 0)

/-! ## SWITCH -/

/-- The quiet state of R426 step 2: the fault latch is empty, no retrain runs, and no other service command runs. -/
def State.fwQuiet (s : State) : Bool :=
  s.svc.faults.isEmpty && !((List.range 8).any fun c => (s.chan c).retrain) && !s.svc.pwrBusy && !s.svc.rigBusy && !s.svc.retireBusy

/-- The hand-over (R426 step 3), in a quiet state: the new firmware starts; everything else runs on. -/
def State.handOver (s : State) : State :=
  match s.svc.fwWait with
  | none => s
  | some n =>
    if !s.fwQuiet then s
    else { s with svc := { s.svc with
      fwWait := none, fwAlive := some (s.svc.runSlot, s.svc.fwVersion, s.svc.fwMem, n), runSlot := n, fwMem := false
      fwVersion := (s.journal.fw n).ver } }

/-- `SWITCH` (R425, R426): the slot is validated in the standby code bank; then the command waits for a quiet state. -/
def execSwitch (fn : Nat) (v : Word) (io : SourceIo) (s : State) : Ans :=
  .next (s.fwCmd fn v 2 false true fun s =>
    let n := slotOf v
    let x := s.journal.fw n
    if x.st ≠ .valid ∨ s.runsFw n then s.fwReport 0x0C
    else if !io.flashOk then (s.commit [recFwBad n x.ver 0x0F]).fwReport 0x0F
    else
      match s.fwErrOf (s.fwImage n) with
      | some e => (s.commit [recFwBad n x.ver (BitVec.ofNat 8 e.reason)]).fwReport e.reason
      | none => ({ s with svc := { s.svc with fwBusy := true, fwWait := some n } }).handOver)

/-- No quiet state within 100 ms (R426 step 2). -/
def execSwitchWaitTimeout (s : State) : Ans :=
  .next (if s.svc.fwWait.isNone || s.fwQuiet then s else s.fwEnd 0x0D)

/-- The new firmware is alive, and ACTIVATE is committed (R426 step 4). -/
def execFwAlive (flashOk : Bool) (s : State) : Ans :=
  .next (
    let s := s.handOver
    match s.svc.fwAlive with
    | none => s
    | some (_, _, _, n) => if flashOk then (s.commit [recFwActivate n (s.journal.fw n).ver]).fwEnd 0 else s.fwEnd 0x0F)

/-- The new firmware is not alive within 100 us of the hand-over (R427): the old firmware runs again, REVERTED is set and the slot is BAD.
The manual names no reason code for it: the byte is free. -/
def execFwAliveTimeout (flashOk : Bool) (s : State) : Ans :=
  .next <| match s.svc.fwAlive with
  | none => s
  | some (old, ver, mem, n) =>
    let r := s.freeByte
    let s1 := { r.2 with svc := { r.2.svc with runSlot := old, fwVersion := ver, fwMem := mem, fwReverted := true } }
    let s2 := if flashOk then s1.commit [recFwBad n (s1.journal.fw n).ver r.1] else s1
    let s3 := { s2 with svc := { s2.svc with fwBusy := false, fwAlive := none, fwErr := true, fwReason := r.1 } }
    if s.svc.fwErr then s3 else s3.irq 1

/-! ## LOAD -/

/-- `LOAD` of `SVC_FW_CMD` (R418): in ROM mode, an image from the host range that authenticates runs, and start-up goes on at step 4. -/
def execFwLoad (fn : Nat) (v : Word) (io : SourceIo) (env : BootEnv) (s : State) : Ans :=
  .next (s.fwCmd fn v 4 true false fun s =>
    match s.source io fwSize with
    | none => s.fwReport 0x0E
    | some (s1, b) =>
      match s1.fwErrOf b with
      | some e => s1.fwReport e.reason
      | none =>
        (({ s1 with svc := { s1.svc with romMode := false, fwMem := true, fwVersion := imgVersion b } }).fwReport 0).bootFrom4 env)

end Sys2Proof.Machine
end

