-- ==== Sys2Proof/Machine/Csr.lean ====
section
/-! DEFINITION. The register map (R443, R444): what each register of BAR0 reads, and what a write changes of each register that has no
row of its own in the opcode table. -/

namespace Sys2Proof.Machine

/-! ## Words -/

/-- Low word of a 64-bit quantity. -/
def lo32 (n : Nat) : Word := BitVec.ofNat 32 n
/-- High word of a 64-bit quantity. -/
def hi32 (n : Nat) : Word := BitVec.ofNat 32 (n / 2 ^ 32)
/-- One field of a register: `v` in `n` bits from bit `lo`. -/
def at_ (lo n v : Nat) : Nat := v % 2 ^ n * 2 ^ lo
/-- A bit of a register. -/
def bit_ (lo : Nat) (b : Bool) : Nat := if b then 2 ^ lo else 0
/-- A register made of fields. -/
def csrOf (l : List Nat) : Word := BitVec.ofNat 32 (l.foldl (· + ·) 0)
/-- The low or the high word of a pair is replaced. -/
def putLo {w : Nat} (x : BitVec w) (v : Nat) : BitVec w := BitVec.ofNat w (x.toNat / 2 ^ 32 * 2 ^ 32 + v)
@[inherit_doc putLo] def putHi {w : Nat} (x : BitVec w) (v : Nat) : BitVec w := BitVec.ofNat w (x.toNat % 2 ^ 32 + v * 2 ^ 32)

/-! ## Encodings -/

/-- `GLB_STATE.STATE` (R3). -/
def DevState.code : DevState → Nat
  | .off => 0 | .boot => 1 | .held => 2 | .ready => 3 | .running => 4 | .degraded => 5 | .halted => 6
/-- R72. -/
def TBankSt.code : TBankSt → Nat
  | .free => 0 | .building => 1 | .ready => 2 | .active => 3 | .ripple => 4
/-- R127. -/
def ABankSt.code : ABankSt → Nat
  | .free => 0 | .filling => 1 | .ready => 2 | .draining => 3 | .replay => 4
/-- R168. -/
def StrandSt.code : StrandSt → Nat
  | .free => 0 | .loading => 1 | .issuing => 2 | .waiting => 3 | .ending => 4
/-- R169. -/
def Reason.code : Reason → Nat
  | .none_ => 0 | .waitu => 1 | .unit => 2 | .tbank => 3 | .abank => 4 | .codebook => 5 | .stream => 6 | .sctx => 7 | .slot => 8
  | .credit => 9 | .hitch => 10 | .mset => 11 | .end_ => 12
/-- R267. -/
def QSt.code : QSt → Nat
  | .disabled => 0 | .active => 1 | .error => 2 | .flushing => 3
/-- `GRM_PORT_STATUS.STATE`. -/
def PortSt.code : PortSt → Nat
  | .down => 0 | .training => 1 | .hello => 2 | .up => 3 | .heldDown => 4
/-- `MEM_TRAIN_STATUS.STATE`. -/
def TrainSt.code : TrainSt → Nat
  | .untrained => 0 | .trained => 1 | .failed => 2 | .out => 3

/-! ## Global and hold -/

/-- `GLB_ID`. -/
def State.glbId (s : State) : Word := csrOf [0x0040, at_ 16 8 s.glb.stepping.toNat]
/-- `GLB_STATE`. -/
def State.glbState (s : State) : Word :=
  csrOf [s.glb.st.code, bit_ 4 s.outputHold, at_ 8 3 s.glb.haltCause.toNat, bit_ 12 s.glb.degRig, bit_ 13 s.glb.degChan]
/-- `GLB_TILE_MAP_n` (R19). -/
def State.tileMapReg (s : State) (n : Nat) : Word :=
  let e := s.mapEnt n
  csrOf [at_ 0 7 e.phys, at_ 16 2 e.role, bit_ 18 e.fenced]
/-- The global block. -/
def State.rdGlb (s : State) (o : Nat) : Word :=
  if 0x400 ≤ o ∧ o < 0x510 then s.tileMapReg ((o - 0x400) / 4)
  else Tab.get 0 [
    (0x00, s.glbId), (0x04, s.glbState),
    (0x08, csrOf [at_ 0 2 s.svc.profile.toNat, at_ 2 2 s.svc.levelShown.toNat, at_ 4 5 s.svc.div]),
    (0x0C, csrOf [at_ 0 4 s.pins.nodeId.toNat, at_ 4 6 s.pins.grm.toNat, at_ 10 2 s.pins.bmAddr.toNat]),
    (0x10, lo32 s.glb.time), (0x14, hi32 s.glb.time),
    (0x30, s.glb.irq.setWidth 32), (0x34, s.glb.mask.setWidth 32),
    (0x800, s.hold.discMs.setWidth 32),
    (0x804, csrOf [bit_ 0 s.hold.a, bit_ 1 s.hold.b, bit_ 2 s.hold.agreed, bit_ 3 s.hold.disagree, bit_ 4 s.hold.disc, bit_ 5 s.outputHold]),
    (0x808, s.hold.cnt.setWidth 32), (0x80C, s.hold.max)] o

/-! ## Service -/

/-- Slot registers of the rig and the firmware slots. -/
def FSlot.word (x : FSlot) : Word := csrOf [x.st.code, if x.st = .valid then at_ 2 2 x.key.toNat else 0]
/-- `SVC_FAULT_n`. -/
def State.faultReg (s : State) (n : Nat) : Word := match s.svc.faults[n]? with
  | some f => csrOf [at_ 0 16 f.source.toNat, at_ 16 4 f.kind.toNat, 2 ^ 31]
  | none => 0
/-- `SVC_PD_STATE_n`. -/
def State.pdReg (s : State) (n : Nat) : Word := csrOf ((List.range 16).map fun k => at_ (2 * k) 2 (s.pd (16 * n + k)))
/-- The service block. -/
def State.rdSvc (s : State) (o : Nat) : Word :=
  let slotReg := fun (x : FSlot) => x.word ||| csrOf [if x.st = .bad then at_ 8 8 x.reason.toNat else 0]
  if 0x440 ≤ o ∧ o < 0x480 then s.rig.layVer ((o - 0x440) / 4)
  else if 0x710 ≤ o ∧ o < 0x724 then s.pdReg ((o - 0x710) / 4)
  else Tab.get 0 [
    (0x400, if s.svc.rigActive.getLsbD 0 then s.rig.version else 0),
    (0x404, s.svc.rigActive ||| csrOf [bit_ 5 s.journal.boot]),
    (0x408, slotReg s.journal.rig0), (0x40C, s.journal.rig0.ver), (0x410, slotReg s.journal.rig1), (0x414, s.journal.rig1.ver),
    (0x420, lo32 s.svc.rigSrc.toNat), (0x424, hi32 s.svc.rigSrc.toNat), (0x428, s.svc.rigLen),
    (0x430, csrOf [bit_ 0 s.svc.rigBusy, bit_ 1 s.svc.rigDone, bit_ 2 s.svc.rigErr, at_ 8 8 s.svc.rigReason.toNat, at_ 16 8 s.svc.rigSect.toNat]),
    (0x434, s.svc.rigEntry.setWidth 32), (0x438, s.svc.drainLimit.setWidth 32),
    (0x480, csrOf [at_ 0 7 s.journalUsed]), (0x484, lo32 s.journal.comm),
    (0x488, csrOf ((List.range 4).map (fun k => bit_ k (s.glb.fuses.getD k none).isSome) ++ [at_ 4 4 (s.journal.revoked ||| s.glb.fuseRev).toNat])),
    (0x604, csrOf [bit_ 0 s.svc.retireBusy, bit_ 1 s.svc.retireDone, bit_ 2 s.svc.retireErr, at_ 8 3 s.svc.retireReason.toNat]),
    (0x620, s.faultReg 0), (0x624, s.faultReg 1),
    (0x704, csrOf [bit_ 0 s.svc.pwrBusy, bit_ 1 s.svc.pwrDone, bit_ 2 s.svc.pwrErr, at_ 8 3 s.svc.pwrReason.toNat, at_ 16 2 s.svc.profile.toNat,
      at_ 18 2 s.svc.bootProf.toNat]),
    (0x780, csrOf [at_ 0 8 s.svc.tj.toNat, at_ 8 2 s.svc.level.toNat, bit_ 10 (!s.pins.thermN), at_ 11 5 s.svc.sensor.toNat, at_ 16 8 s.svc.tjMax.toNat]),
    (0x804, csrOf [bit_ 0 s.svc.fwBusy, bit_ 1 s.svc.fwDone, bit_ 2 s.svc.fwErr, bit_ 3 s.svc.fwReverted, bit_ 4 s.svc.romMode, bit_ 5 s.svc.runSlot,
      bit_ 6 s.journal.fwBoot, at_ 8 8 s.svc.fwReason.toNat]),
    (0x808, s.journal.fw0.word), (0x80C, s.journal.fw0.ver), (0x810, s.journal.fw1.word), (0x814, s.journal.fw1.ver),
    (0x818, if s.svc.romMode then 0 else s.svc.fwVersion)] o

/-! ## Tiles -/

/-- Half of `TILE_TABLE_BANK`. -/
def TableBank.word (b : TableBank) : Nat := b.st.code + bit_ 3 b.owner.isSome + at_ 4 3 (b.owner.getD 0) + at_ 8 3 b.mode
/-- Half of `TILE_ACC_BANK`. -/
def AccBank.word (b : AccBank) : Nat := b.st.code + bit_ 3 b.owner.isSome + at_ 4 3 (b.owner.getD 0) + at_ 8 4 b.groups.length
/-- `TILE_CODEBOOK_n`. -/
def Codebook.word (c : Codebook) : Word := csrOf [c.id.toNat, bit_ 16 c.valid, bit_ 17 c.dim8, bit_ 18 c.loading]
/-- `TILE_STRAND_n`. -/
def Strand.word (x : Strand) : Word := csrOf [x.st.code, at_ 4 4 x.reason.code, at_ 8 12 x.next, at_ 20 6 x.kernel]
/-- `TILE_STRAND_LOG_n`. -/
def Strand.logWord (x : Strand) : Word := csrOf [at_ 0 9 x.log.length, bit_ 9 x.logOver]
/-- Slots of bight `b` in state `st`. -/
def BightSt.count (b : BightSt) (st : SlotSt) : Nat := (b.slots.filter fun e => e.2.st == st).length
/-- `TILE_BIGHT_INFO` of physical tile `p` for the bight selected; the fields of a role the tile does not have read zero. -/
def State.bightInfo (s : State) (p : Nat) : Word :=
  let b := (s.tile p).bightSel.toNat
  match s.bightDecl b with
  | none => 0
  | some d =>
    let x := s.bight b
    let cons := d.consumer (s.me p)
    let role := (if cons then 1 else 0) + (if (d.rank (s.me p)).isSome then 2 else 0)
    csrOf ((if cons then [at_ 0 6 x.rd, at_ 6 7 (x.count .full), at_ 13 7 (x.count .filling), at_ 20 7 (x.count .draining)] else []) ++ [at_ 27 2 role])
/-- `TILE_BIGHT_CREDIT` of physical tile `p` for the bight selected. -/
def State.bightCredit (s : State) (p : Nat) : Word :=
  let b := (s.tile p).bightSel.toNat
  match s.bightDecl b with
  | none => 0
  | some d =>
    match d.rank (s.me p) with
    | none => 0
    | some r => csrOf [at_ 0 7 (s.credit b d r), at_ 7 6 (s.nextWr b r), at_ 13 4 r]
/-- `TILE_SPARE_LINE_k` of the bank selected. -/
def Tile.spareReg (t : Tile) (k : Nat) : Word :=
  match Tab.get none (t.spare.map fun e => (e.1, some e.2)) (t.spareSel.toNat * 4 + k) with
  | some line => csrOf [at_ 0 11 line, 2 ^ 31]
  | none => 0
/-- A tile's block. -/
def State.rdTile (s : State) (p o : Nat) : Word :=
  let t := s.tile p
  if 0x80 ≤ o ∧ o < 0xC0 then (if o % 8 = 0 then (t.strand ((o - 0x80) / 8)).word else (t.strand ((o - 0x80) / 8)).logWord)
  else if 0x520 ≤ o ∧ o < 0x530 then t.spareReg ((o - 0x520) / 4)
  else Tab.get 0 [
    (0x00, csrOf [at_ 0 7 p, at_ 8 7 (s.logOf p)]), (0x10, csrOf [at_ 0 7 t.banks.length]), (0x14, t.arbCyc),
    (0xC0, t.boundOff), (0xC4, t.boundInfo),
    (0x200, t.arraySt ||| csrOf [bit_ 3 t.swapBusy, bit_ 4 t.row0, bit_ 5 t.row31]), (0x204, t.invalidInfo),
    (0x208, csrOf [t.tb0.word, t.tb1.word * 2 ^ 16]), (0x20C, csrOf [t.tb0.present.toNat, t.tb1.present.toNat * 2 ^ 16]),
    (0x210, t.setLimit.setWidth 32), (0x214, t.injectCyc), (0x218, t.swapCyc), (0x21C, t.setwaitCyc),
    (0x220, t.cb0.word), (0x224, t.cb1.word), (0x240, t.quantSt),
    (0x260, csrOf [t.acc0.word, t.acc1.word * 2 ^ 16]), (0x264, t.satSt), (0x268, t.satInfo), (0x26C, t.replayCnt), (0x280, t.vecSt),
    (0x300, t.pstoreAddr.setWidth 32), (0x304, lo32 (leNat (t.psRead (4 * t.pstoreAddr.toNat) 4))),
    (0x380, csrOf ([at_ 0 7 t.outReads] ++ (List.range 16).map fun c => bit_ (16 + c) (t.ctx c).isSome)), (0x384, t.streamErr),
    (0x388, lo32 t.streamErrAddr.toNat), (0x38C, hi32 t.streamErrAddr.toNat),
    (0x400, t.bightLimit.setWidth 32), (0x404, t.bightSt), (0x408, t.bightSel.setWidth 32), (0x40C, s.bightInfo p), (0x410, s.bightCredit p),
    (0x500, t.eccSt), (0x504, t.eccCnt), (0x510, lo32 t.retire.toNat), (0x514, hi32 t.retire.toNat), (0x518, t.spareSel.setWidth 32),
    (0x540, t.scrubCtl), (0x544, csrOf [t.scrubLap.toNat, bit_ 16 t.scrubAlarm]),
    (0x548, lo32 t.lapTclk.toNat), (0x54C, hi32 t.lapTclk.toNat), (0x550, t.lapUs)] o

/-! ## Channels, ports, expander -/

/-- A temperature as a signed byte. -/
def tempField (t : Int) : Nat := (BitVec.ofInt 8 t).toNat
/-- A memory channel's block. -/
def State.rdMem (s : State) (c o : Nat) : Word :=
  let x := s.chan c
  Tab.get 0 [
    (0x800, csrOf [bit_ 0 x.spliceEn, bit_ 2 x.flushing]), (0x804, x.hit), (0x808, x.miss), (0x80C, x.merge),
    (0x820, x.eccCnt), (0x824, csrOf [at_ 0 18 x.written.length]),
    (0x840, csrOf [x.train.code, bit_ 2 (x.busy || x.retrain), bit_ 3 x.deferred, at_ 8 8 (tempField x.tTrain), at_ 16 8 (tempField x.tNow)]),
    (0x844, x.trainCnt)] o
/-- A grommet port's block, with the node-wide registers at 0xF000. -/
def State.rdPort (s : State) (p o : Nat) : Word :=
  let x := s.port p
  let g := s.grm
  if 0xF040 ≤ o ∧ o < 0xF080 then Tab.get 0 (if o % 8 = 0 then g.codeA else g.codeB) (o % 64 / 8)
  else Tab.get 0 [
    (0x0, x.ctl &&& 5),
    (0x4, csrOf [x.st.code, bit_ 3 x.nbValid, at_ 4 4 x.nb.toNat, at_ 8 5 x.flags.toNat]), (0x8, x.cnt),
    (0xF000, g.node.setWidth 32), (0xF004, csrOf [g.dimX.toNat, at_ 5 3 g.dimY.toNat]), (0xF008, g.epoch.num),
    (0xF00C, csrOf [g.epoch.up.toNat, at_ 16 16 g.epoch.transit.toNat]), (0xF010, csrOf [g.member.toNat, at_ 16 4 g.leader.toNat]),
    (0xF014, lo32 g.allow.toNat), (0xF018, hi32 g.allow.toNat), (0xF020, g.aperLo), (0xF024, g.aperHi), (0xF028, g.timeout.setWidth 32)] o
/-- The expander's block. -/
def State.rdExp (s : State) (o : Nat) : Word :=
  let e := s.exp
  if 0x1000 ≤ o ∧ o < 0x1400 then
    let r := s.region (o % 0x1000 / 16)
    if o % 16 = 0 then r.base.setWidth 32 else if o % 16 = 4 then r.size.setWidth 32 else if o % 16 = 8 then r.ctl else r.tag
  else if 0x2000 ≤ o ∧ o < 0x2200 then
    let w := Tab.get ({} : HostWin) e.hostWin (o % 0x2000 / 8)
    if o % 8 = 0 then w.lo else w.hi
  else Tab.get 0 [
    (0x00, csrOf [e.ways.toNat, at_ 2 2 e.set.toNat, at_ 4 2 e.waysNext.toNat, at_ 6 2 e.setNext.toNat, at_ 8 2 e.chCap.toNat, bit_ 10 e.nextBad,
      at_ 16 16 e.mapped.toNat]),
    (0x10, e.clrBase.setWidth 32), (0x14, e.clrSize.setWidth 32), (0x18, csrOf [bit_ 1 e.clrBusy]),
    (0x20, lo32 e.tblSrc.toNat), (0x24, hi32 e.tblSrc.toNat), (0x2C, csrOf [bit_ 1 e.tblErr, at_ 2 2 e.tblReason.toNat]),
    (0x40, csrOf [e.keyFunc.toNat, bit_ 6 e.keyEnBit]), (0x48, lo32 e.keyEn.toNat), (0x4C, hi32 e.keyEn.toNat),
    (0x80, e.dmgInfo), (0x84, lo32 e.dmgAddr.toNat), (0x88, hi32 e.dmgAddr.toNat)] o

/-! ## Scheduler and log -/

/-- A queue register of the queue function `fn` selects; zero for another function's queue (R265). -/
def State.rdQueue (s : State) (fn o : Nat) : Word :=
  if o = 0 then (s.func fn).qsel.setWidth 32
  else if s.qFunc (s.selQ fn) ≠ fn then 0
  else
    let x := s.queue (s.selQ fn)
    Tab.get 0 [
      (0x04, lo32 x.sqBase.toNat ||| x.sqLog.setWidth 32), (0x08, hi32 x.sqBase.toNat),
      (0x0C, lo32 x.cqBase.toNat ||| x.cqLog.setWidth 32), (0x10, hi32 x.cqBase.toNat ||| csrOf [at_ 8 11 x.vector.toNat]),
      (0x14, x.cfg), (0x18, x.head), (0x1C, x.tail), (0x20, x.cqTail), (0x24, x.cqHead),
      (0x28, csrOf [x.st.code, at_ 4 4 x.err.toNat, at_ 16 15 (s.queueTasks (s.selQ fn)).length])] o
/-- The scheduler's block. -/
def State.rdSch (s : State) (fn o : Nat) : Word :=
  if o < 0x30 then s.rdQueue fn o
  else if o = 0x100 then csrOf [at_ 0 15 s.taskList.length, at_ 16 8 ((List.range 68).filter fun p => (s.tile p).turn.isSome).length]
  else if 0x200 ≤ o ∧ o < 0x310 then
    let t := s.tile ((o - 0x200) / 4)
    csrOf [at_ 0 8 (t.turn.getD 0), bit_ 8 t.turn.isSome, bit_ 9 t.closed, bit_ 10 t.launch.isSome]
  else if 0x1000 ≤ o ∧ o < 0x2000 then
    let n := o % 0x1000 / 16
    let g := s.qgroup n
    if o % 16 = 0 then g.cfg else if o % 16 = 4 then g.strand else if o % 16 = 8 then g.bw
    else csrOf [at_ 0 10 (s.groupUse n), at_ 16 15 (s.taskList.filter fun e => s.groupOf e.2 == n).length]
  else if 0x4000 ≤ o ∧ o < 0x4800 then
    let h := s.hitch (o % 0x4000 / 8)
    if o % 8 = 0 then csrOf [at_ 0 16 h.target, at_ 16 4 h.lay, bit_ 20 h.alloc, bit_ 21 h.ovf] else csrOf [h.count.toNat, at_ 16 16 h.gen.toNat]
  else 0
/-- Entry `i` of the log (R391). -/
def ErrLog.entry (g : ErrLog) (i : Nat) : Option LogStored :=
  if i < 896 then g.first[i]? else Tab.get none (g.ring.map fun e => (e.1, some e.2)) (i - 896)
/-- The log's block. -/
def State.rdLog (s : State) (o : Nat) : Word :=
  let g := s.elog
  if 0x1000 ≤ o ∧ o < 0x9000 then
    match g.entry (o / 32 - 0x80) with
    | some x => lo32 (fieldAt x.bytes (o % 32) 4)
    | none => 0
  else Tab.get 0 [
    (0x00, csrOf [at_ 0 11 (g.first.length + g.rcount), bit_ 11 g.ovf, at_ 12 7 g.rhead, bit_ 19 g.loss]), (0x04, csrOf [at_ 8 5 g.irqSev.toNat]),
    (0x08, g.lostCount), (0x10, g.mirLo), (0x14, g.mirHi)] o
/-- The MSI-X table and the Pending Bit Array of a function (R441). -/
def State.rdMsix (s : State) (fn o : Nat) : Word :=
  if o < 0x200 then
    let m := Tab.get {} (s.func fn).msix (o / 16)
    if o % 16 = 0 then lo32 m.addr.toNat else if o % 16 = 4 then hi32 m.addr.toNat else if o % 16 = 8 then m.data else csrOf [bit_ 0 m.masked]
  else if o = 0x1000 then (s.func fn).pba else 0

/-! ## Reads -/

/-- A register of the PF's BAR0 (R443, R438, R416). -/
def State.pfReg (s : State) (o : Nat) : Word :=
  if !s.blockUp o then 0
  else if o < 0x1000 then s.rdGlb o
  else if 0x10000 ≤ o ∧ o < 0x20000 then s.rdSvc (o % 0x10000)
  else if 0x100000 ≤ o ∧ o < 0x540000 then s.rdTile (o / 0x10000 - 0x10) (o % 0x10000)
  else if 0x600000 ≤ o ∧ o < 0x680000 then s.rdMem (o / 0x10000 - 0x60) (o % 0x10000)
  else if 0x700000 ≤ o ∧ o < 0x740000 then s.rdPort (o / 0x10000 - 0x70) (o % 0x10000)
  else if 0x740000 ≤ o ∧ o < 0x750000 then s.rdExp (o % 0x10000)
  else if 0x800000 ≤ o ∧ o < 0x900000 then s.rdSch 0 (o % 0x100000)
  else if 0x900000 ≤ o ∧ o < 0x910000 then s.rdLog (o % 0x10000)
  else if 0xA00000 ≤ o ∧ o < 0xA02000 then s.rdMsix 0 (o % 0x10000)
  else 0

/-- A register of BAR0 as function `fn` sees it now (R443, R444). -/
def State.csr (s : State) (fn o : Nat) : Word :=
  if fn = 0 then s.pfReg o
  else if o = 0 ∨ o = 4 ∨ o = 0x10 ∨ o = 0x14 then s.rdGlb o
  else if 0x1000 ≤ o ∧ o < 0x1030 then (if s.blockUp 0x800000 then s.rdQueue fn (o % 0x1000) else 0)
  else if 0x8000 ≤ o ∧ o < 0xA000 then s.rdMsix fn (o % 0x8000)
  else 0

/-- Offset `o` of function `fn`'s BAR0 is the low word of a 64-bit quantity (R13): the registers that the manual gives in pairs, and `TIME`
and `LOC` of a log entry. -/
def latches (fn o : Nat) : Bool :=
  if fn ≠ 0 then o == 0x10 || o == 0x1004 || o == 0x100C
  else if o < 0x100000 then o == 0x10 || o == 0x10420
  else if o < 0x540000 then o % 0x10000 == 0x388 || o % 0x10000 == 0x510 || o % 0x10000 == 0x548
  else if o < 0x740000 then decide (0x700000 ≤ o) && (o % 0x10000 == 0xF014 || o % 0x10000 == 0xF020)
  else if o < 0x800000 then
    o == 0x740020 || o == 0x740048 || o == 0x740084 || (decide (0x742000 ≤ o) && decide (o < 0x742200) && o % 8 == 0)
  else if o < 0x900000 then o == 0x800004 || o == 0x80000C
  else o == 0x900010 || (decide (0x901000 ≤ o) && decide (o < 0x909000) && o % 16 == 0)

/-- The latch of the 64-bit register whose low word lies at offset `o` of function `fn`'s BAR0 (R13): the four copies of a node-wide register
are one, and each queue has registers of its own. -/
def State.latchOf (s : State) (fn o : Nat) : Nat :=
  if fn = 0 ∧ 0x700000 ≤ o ∧ o < 0x740000 then 0x700000 + o % 0x10000
  else if fn = 0 ∧ 0x800000 ≤ o ∧ o < 0x900000 ∨ fn ≠ 0 ∧ 0x1000 ≤ o then 0x1000000 + s.selQ fn * 0x30 + o % 0x1000
  else o

/-- A 4-byte read of BAR0 at offset `o` (R13): the low word of a 64-bit register captures the high word for this requester, and a read
of the high word returns the value captured; a read of `TILE_PSTORE_DATA` advances `WORD` (R176). -/
def State.readWord (s : State) (fn o : Nat) : Word × State :=
  if 4 ≤ o ∧ latches fn (o - 4) then
    ((Tab.get none ((s.func fn).latch.map fun e => (e.1, some e.2)) (s.latchOf fn (o - 4))).getD (s.csr fn o), s)
  else
    let v := s.csr fn o
    if latches fn o then (v, s.modFunc fn fun f => { f with latch := Tab.put f.latch (s.latchOf fn o) (s.csr fn (o + 4)) })
    else if fn = 0 ∧ 0x100000 ≤ o ∧ o < 0x540000 ∧ o % 0x10000 = 0x304 ∧ s.blockUp o then
      (v, s.modTile (o / 0x10000 - 0x10) fun t => { t with pstoreAddr := t.pstoreAddr + 1 })
    else (v, s)

/-- Sizes and alignments that BAR0 accepts (R438). -/
def goodAccess (off size : Nat) : Bool := (size == 4 && off % 4 == 0) || (size == 8 && off % 8 == 0)

/-- A read of BAR0 (R13, R438, R439): the completion carries the word, or the low and the high word. -/
def State.csrRead (s : State) (fn off size : Nat) : State :=
  if s.glb.st = .off then s
  else if !s.barOpen fn then s.emit (.unsupported fn)
  else if !goodAccess off size then s
  else
    let r := s.readWord fn off
    if size = 4 then r.2.emit (.completion fn (leBytes 4 r.1.toNat))
    else
      let h := r.2.readWord fn (off + 4)
      h.2.emit (.completion fn (leBytes 4 r.1.toNat ++ leBytes 4 h.1.toNat))

/-- No two copies of entry `i` of the log are equal when it is read (R392): it is counted as lost, once. -/
def State.failEntry (s : State) (i : Nat) : State :=
  match s.elog.entry i with
  | none => s
  | some x =>
    if x.lost then s
    else
      let g := s.elog
      let y := { x with lost := true }
      ({ s with elog := { g with
        first := if i < 896 then g.first.set i y else g.first, ring := if i < 896 then g.ring else Tab.put g.ring (i - 896) y
        loss := true, lostCount := satAdd g.lostCount 0 32 1 } }).irq 0

/-- A read of a register of BAR0: the low word of a 64-bit register captures the high word (R13, R438); a read of a log
entry of which no two copies are equal fails it (R392). -/
def execLowWordRead (fn off : Nat) (rd : RegRead) (s : State) : Ans :=
  .next (
    let entry := fn == 0 && s.barOpen 0 && goodAccess off rd.size && decide (0x901000 ≤ off) && decide (off < 0x909000)
    (if entry && !rd.readOk then s.failEntry (off % 0x10000 / 32 - 0x80) else s).csrRead fn off rd.size)

/-- A read of `TILE_PSTORE_DATA` (R176). -/
def execPstoreDataRead (fn tile : Nat) (s : State) : Ans :=
  .next (if 68 ≤ tile then s else s.csrRead fn (0x100304 + tile * 0x10000) 4)

/-- A read of BAR0 of another size or alignment (R438). -/
def execCompleterAbort (fn off size : Nat) (s : State) : Ans :=
  .next (
    if s.glb.st = .off ∨ goodAccess off size then s
    else if !s.barOpen fn then s.emit (.unsupported fn)
    else (s.logDrop srcHost off).emit (.abort fn))

/-! ## Writes -/

/-- A write to the global block. -/
def State.wrGlb (s : State) (o : Nat) (v : Word) : State :=
  if o = 0x30 then { s with glb := { s.glb with irq := s.glb.irq &&& ~~~(v.setWidth 4) } }
  else if o = 0x800 then { s with hold := { s.hold with discMs := v.setWidth 8 } }
  else if o = 0x808 then { s with hold := { s.hold with cnt := v.setWidth 16 } }
  else if o = 0x80C then { s with hold := { s.hold with max := v } }
  else s

/-- A write to the service block. The command registers take here only the codes that are reserved (R256, R373, R425). -/
def State.wrSvc (s : State) (o : Nat) (v : Word) : State :=
  let c := s.svc
  if o = 0x420 then { s with svc := { c with rigSrc := putLo c.rigSrc v.toNat } }
  else if o = 0x424 then { s with svc := { c with rigSrc := putHi c.rigSrc (v.toNat % 256) } }
  else if o = 0x428 then { s with svc := { c with rigLen := v } }
  else if o = 0x42C then
    if 1 ≤ getFld v 0 4 ∧ getFld v 0 4 ≤ 9 then s else if s.svcBusy then s.rigReport { reason := 0x0D } else s.rigReport { reason := 0x0C }
  else if o = 0x430 then { s with svc := { c with rigDone := c.rigDone && !v.getLsbD 1, rigErr := c.rigErr && !v.getLsbD 2 } }
  else if o = 0x438 then { s with svc := { c with drainLimit := v.setWidth 16 } }
  else if o = 0x600 then
    if !v.getLsbD 31 ∨ getFld v 0 2 ≠ 3 then s else if c.retireBusy then s.retireReport 5 else s.retireReport 3
  else if o = 0x604 then { s with svc := { c with retireDone := c.retireDone && !v.getLsbD 1, retireErr := c.retireErr && !v.getLsbD 2 } }
  else if o = 0x704 then { s with svc := { c with
    pwrDone := c.pwrDone && !v.getLsbD 1, pwrErr := c.pwrErr && !v.getLsbD 2, bootProf := BitVec.ofNat 2 (getFld v 18 2) } }
  else if o = 0x780 then { s with svc := { c with tjMax := BitVec.ofNat 8 (getFld v 16 8) } }
  else if o = 0x800 then
    if 1 ≤ getFld v 0 4 ∧ getFld v 0 4 ≤ 4 then s else if s.svcBusy then s.fwReport 0x0D else s.fwReport 0x0C
  else if o = 0x804 then { s with svc := { c with
    fwDone := c.fwDone && !v.getLsbD 1, fwErr := c.fwErr && !v.getLsbD 2, fwReverted := c.fwReverted && !v.getLsbD 3 } }
  else s

/-- A write to a tile's block. -/
def Tile.wr (t : Tile) (o : Nat) (v : Word) : Tile :=
  if o = 0x14 then { t with arbCyc := v }
  else if o = 0xC4 then { t with boundInfo := rw1c t.boundInfo v 1 }
  else if o = 0x200 then t.clearArray v
  else if o = 0x210 then { t with setLimit := v.setWidth 16 }
  else if o = 0x214 then { t with injectCyc := v }
  else if o = 0x218 then { t with swapCyc := v }
  else if o = 0x21C then { t with setwaitCyc := v }
  else if o = 0x240 then { t with quantSt := rw1c t.quantSt v 7 }
  else if o = 0x264 then t.clearSat v
  else if o = 0x26C then { t with replayCnt := v }
  else if o = 0x280 then { t with vecSt := rw1c t.vecSt v 7 }
  else if o = 0x300 then { t with pstoreAddr := v.setWidth 14 }
  else if o = 0x384 then { t with streamErr := rw1c t.streamErr v 1 }
  else if o = 0x400 then { t with bightLimit := v.setWidth 16 }
  else if o = 0x404 then { t with bightSt := rw1c t.bightSt v 3 }
  else if o = 0x408 then { t with bightSel := v.setWidth 8 }
  else if o = 0x500 then { t with eccSt := rw1c t.eccSt v 0x3F }
  else if o = 0x504 then { t with eccCnt := v }
  else if o = 0x518 then { t with spareSel := v.setWidth 6 }
  else if o = 0x540 then { t with scrubCtl := v &&& 0xFFFF0001 }
  else if o = 0x544 then { t with scrubAlarm := t.scrubAlarm && !v.getLsbD 16 }
  else t

/-- A write to a memory channel's block. -/
def Chan.wr (x : Chan) (o : Nat) (v : Word) : Chan :=
  if o = 0x804 then { x with hit := v }
  else if o = 0x808 then { x with miss := v }
  else if o = 0x80C then { x with merge := v }
  else if o = 0x820 then { x with eccCnt := v }
  else if o = 0x844 then { x with trainCnt := v }
  else x

/-- Every grommet port is DOWN. -/
def State.portsDown (s : State) : Bool := (List.range 4).all fun p => (s.port p).st == .down

/-- A write to a port's own registers; a key is taken only while the port is DOWN (R349). -/
def Port.wr (x : Port) (o : Nat) (v : Word) : Port :=
  if o = 0x4 then { x with flags := x.flags &&& ~~~(BitVec.ofNat 5 (getFld v 8 5)) }
  else if o = 0x8 then { x with cnt := v }
  else if 0x10 ≤ o ∧ o < 0x20 ∧ x.st = .down then
    let k := o / 4 - 4
    { x with keyData := BitVec.ofNat 128 (x.keyData.toNat % 2 ^ (32 * k) + v.toNat * 2 ^ (32 * k) + x.keyData.toNat / 2 ^ (32 * k + 32) * 2 ^ (32 * k + 32))
             keyNew := true }
  else x

/-- A write to the node-wide grommet registers; ports that a new topology makes legal train (R337). -/
def State.wrNode (s : State) (o : Nat) (v : Word) : State :=
  let g := s.grm
  if o = 0xF000 then (if s.portsDown then { s with grm := { g with node := v.setWidth 4 } } else s)
  else if o = 0xF004 then
    if s.portsDown then
      (List.range 4).foldl State.train { s with grm := { g with dimX := v.setWidth 5, dimY := BitVec.ofNat 3 (getFld v 5 3) } }
    else s
  else if o = 0xF014 then { s with grm := { g with allow := putLo g.allow v.toNat } }
  else if o = 0xF018 then { s with grm := { g with allow := putHi g.allow v.toNat } }
  else if o = 0xF020 then { s with grm := { g with aperLo := v &&& 0xFFFFF001 } }
  else if o = 0xF024 then { s with grm := { g with aperHi := v &&& 0x3FFF } }
  else if o = 0xF028 then { s with grm := { g with timeout := v.setWidth 16 } }
  else if 0xF040 ≤ o ∧ o < 0xF080 then
    let n := o % 64 / 8
    if o % 8 = 0 then { s with grm := { g with codeA := Tab.put g.codeA n (v &&& 0xE001FFFF) } }
    else { s with grm := { g with codeB := Tab.put g.codeB n (v &&& 0xFF01FFFF) } }
  else s

/-- A write to the expander's block (R313, R317, R331, R334). -/
def State.wrExp (s : State) (o : Nat) (v : Word) : State :=
  let e := s.exp
  if 0x1000 ≤ o ∧ o < 0x1400 then
    let n := o % 0x1000 / 16
    let r := s.region n
    let put := fun (x : Region) => { s with exp := { e with regions := Tab.put e.regions n x } }
    if r.en ∨ o % 16 = 8 then s
    else if o % 16 = 0 then put { r with base := v.setWidth 24 }
    else if o % 16 = 4 then put { r with size := v.setWidth 24 }
    else put { r with tag := v &&& 0x0FFFFFFF }
  else if 0x2000 ≤ o ∧ o < 0x2200 then
    let n := o % 0x2000 / 8
    let w := Tab.get ({} : HostWin) e.hostWin n
    { s with exp := { e with hostWin := Tab.put e.hostWin n (if o % 8 = 0 then { w with lo := v &&& 0xFFFFF003 } else { w with hi := v }) } }
  else if o = 0x00 then { s with exp := { e with
    waysNext := BitVec.ofNat 2 (getFld v 4 2), setNext := BitVec.ofNat 2 (getFld v 6 2), nextBad := e.nextBad && !v.getLsbD 10 } }
  else if o = 0x10 then { s with exp := { e with clrBase := v.setWidth 24 } }
  else if o = 0x14 then { s with exp := { e with clrSize := v.setWidth 24 } }
  else if o = 0x20 then { s with exp := { e with tblSrc := putLo e.tblSrc (v.toNat / 64 * 64) } }
  else if o = 0x24 then { s with exp := { e with tblSrc := putHi e.tblSrc (v.toNat % 256) } }
  else if o = 0x2C then { s with exp := { e with tblErr := e.tblErr && !v.getLsbD 1 } }
  else if 0x50 ≤ o ∧ o < 0x70 then
    let k := (o - 0x50) / 4
    { s with exp := { e with keyData := BitVec.ofNat 256 (e.keyData.toNat % 2 ^ (32 * k) + v.toNat * 2 ^ (32 * k)
        + e.keyData.toNat / 2 ^ (32 * k + 32) * 2 ^ (32 * k + 32)) } }
  else if o = 0x80 then { s with exp := { e with dmgInfo := rw1c e.dmgInfo v 1 } }
  else s

/-- A queue register is written (R265, R268): its configuration only while the queue is DISABLED. -/
def Queue.wr (x : Queue) (o : Nat) (v : Word) : Queue :=
  if x.st ≠ .disabled then x
  else if o = 0x04 then { x with sqLog := v.setWidth 5, sqBase := putLo x.sqBase (v.toNat / 64 * 64) }
  else if o = 0x08 then { x with sqBase := putHi x.sqBase (v.toNat % 256) }
  else if o = 0x0C then { x with cqLog := v.setWidth 5, cqBase := putLo x.cqBase (v.toNat / 64 * 64) }
  else if o = 0x10 then { x with cqBase := putHi x.cqBase (v.toNat % 256), vector := BitVec.ofNat 11 (getFld v 8 11) }
  else x

/-- A write of function `fn` to a queue register other than `SCH_Q_CFG` and `SCH_Q_CTL`. -/
def State.wrQueue (s : State) (fn o : Nat) (v : Word) : State :=
  if o = 0 then (if s.barOpen fn && s.blockUp 0x800000 then s.modFunc fn fun f => { f with qsel := v.setWidth 15 } else s)
  else if o = 0x14 ∨ o = 0x2C then s
  else s.onQueue fn o fun q => s.modQueue q fun x => x.wr o v

/-- A write to the scheduler's block (R264, R223): a change of a queue group can change the claims on tiles (R297). -/
def State.wrSch (s : State) (o : Nat) (v : Word) : State :=
  if o < 0x30 then s.wrQueue 0 o v
  else if 0x1000 ≤ o ∧ o < 0x2000 then
    (s.refillAll.modGroup (o % 0x1000 / 16) fun g =>
      if o % 16 = 0 then { g with cfg := v &&& 0x7FFF077F }
      else if o % 16 = 4 then { g with strand := v &&& 0x03FF03FF }
      else if o % 16 = 8 then { g with bw := v }
      else g).settleTurns
  else if 0x4000 ≤ o ∧ o < 0x4800 ∧ o % 8 = 0 then
    let n := o % 0x4000 / 8
    let h := s.hitch n
    if v.getLsbD 21 ∧ h.ovf then s.setHitch n { h with ovf := false } else s
  else s

/-- A write to the log's block; one with `CLEAR` has a row of its own. -/
def State.wrLog (s : State) (o : Nat) (v : Word) : State :=
  let g := s.elog
  if o = 0x00 then { s with elog := { g with loss := g.loss && !v.getLsbD 19 } }
  else if o = 0x04 then (if v.getLsbD 0 then s else { s with elog := g.ctl v })
  else if o = 0x08 then { s with elog := { g with lostCount := v } }
  else if o = 0x10 then { s with elog := { g with mirLo := v &&& 0xFFFF8001 } }
  else if o = 0x14 then { s with elog := { g with mirHi := v &&& 0xFF } }
  else s

/-- A write to the MSI-X table of a function (R441): a message that waits for a mask that clears goes. -/
def State.wrMsix (s : State) (fn o : Nat) (v : Word) : State :=
  if 0x200 ≤ o then s
  else
    let s1 := s.modFunc fn fun f =>
      let m := Tab.get {} f.msix (o / 16)
      { f with msix := Tab.put f.msix (o / 16) (
          if o % 16 = 0 then { m with addr := putLo m.addr v.toNat }
          else if o % 16 = 4 then { m with addr := putHi m.addr v.toNat }
          else if o % 16 = 8 then { m with data := v }
          else { m with masked := v.getLsbD 0 }) }
    s1.flushPba fn

/-- A 4-byte write to BAR0 at offset `o` (R15, R443, R444). A port's own registers are out of reach while its domain is not ON. -/
def State.csrWord (s : State) (fn o : Nat) (v : Word) : State :=
  if fn ≠ 0 then
    if 0x1000 ≤ o ∧ o < 0x1030 then s.wrQueue fn (o % 0x1000) v
    else if 0x8000 ≤ o ∧ o < 0xA000 then s.wrMsix fn (o % 0x8000) v
    else s
  else if !s.blockUp o then s
  else if o < 0x1000 then s.wrGlb o v
  else if 0x10000 ≤ o ∧ o < 0x20000 then s.wrSvc (o % 0x10000) v
  else if 0x100000 ≤ o ∧ o < 0x540000 then s.modTile (o / 0x10000 - 0x10) fun t => t.wr (o % 0x10000) v
  else if 0x600000 ≤ o ∧ o < 0x680000 then s.modChan (o / 0x10000 - 0x60) fun x => x.wr (o % 0x10000) v
  else if 0x700000 ≤ o ∧ o < 0x740000 then
    let p := o / 0x10000 - 0x70
    if 0xF000 ≤ o % 0x10000 then s.wrNode (o % 0x10000) v
    else if s.pd (76 + p) ≠ 2 then s.logDrop srcHost o
    else s.modPort p fun x => x.wr (o % 0x10000) v
  else if 0x740000 ≤ o ∧ o < 0x750000 then s.wrExp (o % 0x10000) v
  else if 0x800000 ≤ o ∧ o < 0x900000 then s.wrSch (o % 0x100000) v
  else if 0x900000 ≤ o ∧ o < 0x910000 then s.wrLog (o % 0x10000) v
  else if 0xA00000 ≤ o ∧ o < 0xA02000 then s.wrMsix 0 (o % 0x10000) v
  else s

/-- A write to a register of BAR0 that has no row of its own (R15, R438): 8 bytes are two writes, low offset first; one of another size
or alignment is dropped and logged. -/
def execCsrWrite (fn off size : Nat) (v : BitVec 64) (s : State) : Ans :=
  .next (
    if !s.barOpen fn then s
    else if !goodAccess off size then s.logDrop srcHost off
    else
      let s1 := s.csrWord fn off (v.setWidth 32)
      if size = 4 then s1 else s1.csrWord fn (off + 4) ((v >>> 32).setWidth 32))

/-- A write to `GLB_IRQ_MASK` (R442): a mask bit written 0 while its status bit is 1 sends the message of its vector; output hold holds it
(R396). -/
def execIrqMaskWrite (fn : Nat) (v : Word) (s : State) : Ans :=
  .next (
    if !s.pfWrites fn 0x34 then s
    else
      (List.range 4).foldl (fun a i => if !v.getLsbD i && a.glb.irq.getLsbD i then a.msix 0 i a.outputHold else a)
        { s with glb := { s.glb with mask := v.setWidth 4 } })

end Sys2Proof.Machine
end

