-- ==== Sys2Proof/Machine/Lookup.lean ====
section
/-! DEFINITION. Lookup passes: LPASS, the lookups of a segment, chunks and promotion, saturation, replay and clamping (R43
to R47, R53, R56, R57, R63, R74, R75, R83, R100, R101, R122 to R137, R174, R181). A segment's lookups are done when it
retires (notes/assumptions/16.md). -/

namespace Sys2Proof.Machine

/-! ## Lookups -/

/-- One lookup in a slot's stored table (R53, R56, R57, R61): the value, and whether the index is invalid. -/
def lookupIdx (mode idx : Nat) (tab : List Int) : Int × Bool :=
  if mode = 2 then
    if 243 ≤ idx then (0, true) else if 121 < idx then (- tab.getD (242 - idx) 0, false) else (tab.getD idx 0, false)
  else if isV mode then (tab.getD idx 0, false)
  else
    let top := 2 ^ (groupWidth mode - 1)
    if top ≤ idx then (- tab.getD (2 * top - 1 - idx) 0, false) else (tab.getD idx 0, false)

/-- Size of an index block (R44, R100). -/
def blockSize (mode : Nat) : Nat := if mode = 0 then 256 else 512
/-- Bytes of one row in an index block (R100). -/
def rowBytes (mode : Nat) : Nat := if mode = 0 then 8 else 16
/-- The index of cell `s` in a row's bytes (R100). -/
def cellIdx (mode : Nat) (row : List Byte) (s : Nat) : Nat :=
  if mode = 0 then (row.getD (s / 2) 0).toNat / 16 ^ (s % 2) % 16 else (row.getD s 0).toNat

/-- The sum of one plane's 16 lookups (R47), and the first invalid index as (value, slot). -/
def planeSum (mode : Nat) (slots : List (List Int)) (row : List Byte) : Int × Option (Nat × Nat) :=
  (List.range 16).foldl (fun a s =>
    let i := cellIdx mode row s
    let r := lookupIdx mode i (slots.getD s [])
    (a.1 + r.1, match a.2 with
      | some x => some x
      | none => if r.2 then some (i, s) else none)) (0, none)

/-- The value of one row in one array cycle from its planes' bytes (R47). -/
def rowValue (mode : Nat) (slots : List (List Int)) : Nat → List (List Byte) → Int × Option (Nat × Nat)
  | _, [] => (0, none)
  | p, r :: rs =>
    let a := planeSum mode slots r
    let b := rowValue mode slots (p + 1) rs
    (a.1 * 2 ^ p + b.1, match a.2 with
      | some x => some x
      | none => b.2)

/-- Row blocks per TCLK for a plane count (R45). -/
def blocksPerCycle (np : Nat) : Nat := if np = 1 then 4 else if np = 2 then 2 else 1

/-- Plane count and modes of a weight format (R83). -/
def formatOk (wfmt mode np : Nat) : Bool :=
  if 4 ≤ wfmt ∧ wfmt ≤ 7 then (mode == 0 || mode == 1) && np == wfmt - 3
  else if wfmt = 8 then mode == 2 && np == 1
  else if wfmt = 9 then mode == 3 && np == 1
  else if wfmt = 10 then mode == 4 && np == 1
  else if wfmt = 11 ∨ wfmt = 12 then mode == 0 && np == 4
  else false

/-! ## Accumulator entries -/

/-- Accumulator bank 0 or 1. -/
def Tile.abank (t : Tile) (b : Nat) : AccBank := if b = 1 then t.acc1 else t.acc0
/-- Write an accumulator bank. -/
def Tile.setAbank (t : Tile) (b : Nat) (x : AccBank) : Tile := if b = 1 then { t with acc1 := x } else { t with acc0 := x }

/-- Promotion (R122, R123, R131): the total in 34 bits, the guard judged; an entry with guard overflow keeps its total. -/
def AccEntry.promote (e : AccEntry) : AccEntry :=
  if e.guard then { e with chunk := 0, count := 0 }
  else
    let v := e.total + e.chunk
    if 2 ^ 33 ≤ v then { e with total := 2 ^ 33 - 1, chunk := 0, count := 0, guard := true }
    else if v ≤ -(2 ^ 33) then { e with total := -(2 ^ 33), chunk := 0, count := 0, guard := true }
    else { e with total := v, chunk := 0, count := 0 }

/-- A total lies in the 32 visible bits (R131). -/
def inS32 (v : Int) : Bool := decide (-(2 ^ 31) ≤ v) && decide (v ≤ 2 ^ 31 - 1)

/-- The promotion on FINAL also judges the range, unless the group's PART flag is set (R131). An entry whose promotion on FINAL is
itself a guard overflow meets both cases of R131; the manual does not say which flags it sets, and the model sets GUARD alone
(notes/assumptions/51.md). -/
def AccEntry.finish (e : AccEntry) (part : Bool) : AccEntry :=
  let e' := e.promote
  if !part && !e'.guard && !inS32 e'.total then { e' with sat := true } else e'

/-- A value joins the entry's chunk, which ends at its eighth value (R122). -/
def AccEntry.deliver (e : AccEntry) (v : Int) : AccEntry :=
  let e' := { e with chunk := e.chunk + v, count := e.count + 1 }
  if e'.count = 8 then e'.promote else e'

/-- The clamped total (R137). -/
def AccEntry.clamp (e : AccEntry) : AccEntry :=
  if e.guard then { e with total := if e.total < 0 then -(2 ^ 31) else 2 ^ 31 - 1 }
  else if 2 ^ 31 - 1 < e.total then { e with total := 2 ^ 31 - 1 }
  else if e.total < -(2 ^ 31) then { e with total := -(2 ^ 31) }
  else e

/-! ## LPASS issue -/

/-- The replay log's entry of an LPASS step (R174, R181). `sum`: the first segment of its pass that names its group. -/
def lpassEnt (x : Strand) (e : LogEnt) (redo : Bool) : LogEnt :=
  if redo then e
  else
    let w := e.word
    let seen := if flag w 20 then [] else x.pass.getD []
    { e with tok := tokOpnd x (fld w 109 7), o1 := spadOpnd x (fld w 50 20), sum := !seen.contains (fld w 17 3) }

/-- The accumulator bank a segment adds into (R128): `some none` when it must wait for a FREE one, `none` when a segment
without FIRST has no open bank. -/
def Tile.passBank (t : Tile) (k : Nat) (first : Bool) : Option (Option Nat) :=
  let mine := fun (b : AccBank) => b.owner == some k && (b.st == .filling || b.st == .replay)
  if mine t.acc0 then some (some 0)
  else if mine t.acc1 then some (some 1)
  else if !first then none
  else if t.acc0.st = .free then some (some 0)
  else if t.acc1.st = .free then some (some 1)
  else some none

/-- Two ranges of entries overlap. -/
def rangesMeet (a n b m : Nat) : Bool := decide (a < b + m) && decide (b < a + n)

/-- The set a segment will look up, or the reason it waits (R71, R74). -/
def Tile.passSet (t : Tile) (k : Nat) (swap : Bool) : Except Reason TableBank :=
  let mine := (t.unit 1).filter fun y => y.strand == k && !y.skipped
  if mine.any fun y => flag y.ent.word 21 then .error .tbank
  else
    let pending := mine.any fun y => flag y.ent.word 20 && !y.run
    if swap then
      if pending || t.shadow.owner != some k then .error .tbank
      else
        match t.shadow.st with
        | .ready => .ok t.shadow
        | .building => if t.shadow.share.isSome then .error .mset else .ok t.shadow
        | _ => .error .tbank
    else if pending then .ok t.shadow
    else if t.active.st = .active ∧ t.active.owner = some k then .ok t.active
    else .error .tbank

/-- Row count of the group that a segment names: as its FIRST gives it, or as it was opened (R126). -/
def passRows (w : BitVec 128) (bank : AccBank) : Nat :=
  if flag w 22 then fld w 94 14
  else ((Tab.get none (bank.groups.map fun c => (c.1, some c.2)) (fld w 17 3)).map (·.rows)).getD 0

/-- The checks of an LPASS segment at issue (R14, R63, R83, R101, R105, R126, R181). -/
def lpassChecks (w : BitVec 128) (set : TableBank) (bank : AccBank) : List Nat :=
  let mode := fld w 12 3
  let np := fld w 15 2 + 1
  let g := fld w 17 3
  let first := flag w 22
  let base := fld w 86 8 * 32
  let rows := passRows w bank
  let rb := fld w 36 9
  let isOpen := (Tab.get none (bank.groups.map fun c => (c.1, some c.2)) g).isSome
  [ need (fld w 116 12 == 0) 0x0B,
    need (formatOk (fld w 24 4) mode np) 0x0B,
    need (decide (1 ≤ rb) && decide (rb ≤ 256)) 0x0B,
    need (first || isOpen) 0x0B,
    need (!first || (decide (1 ≤ rows) && decide (rows ≤ 8192) && decide (base + rows ≤ 8192))) 0x0B,
    need (!first || !bank.groups.any fun c => c.1 != g && rangesMeet c.2.base c.2.rows base rows) 0x0B,
    need (decide (fld w 28 8 + rb ≤ ceilDiv rows 32)) 0x0B,
    need (set.mode == mode) 0x0F,
    need (set.mapId.toNat == fld w 70 16) 0x0F ]

/-- Rows of row block `i` of a segment that are not masked (R46, R126). -/
def activeRows (rb i lastRows rbStart rows : Nat) : Nat :=
  let a := if i + 1 = rb ∧ lastRows ≠ 0 then lastRows else 32
  min a (rows - 32 * (rbStart + i))

/-- The extent of a segment, checked whole (R165, R181), of which only the indices of rows that are not masked are read (R46). -/
def lpassAcc (e : LogEnt) (rows : Nat) : Access :=
  let w := e.word
  let mode := fld w 12 3
  let np := fld w 15 2 + 1
  let I := blockSize mode
  let rb := fld w 36 9
  { o := e.o1, len := rb * np * I, align := I
    only := some ((List.range rb).flatMap fun i => (List.range np).map fun p =>
      ((i * np + p) * I, activeRows rb i (fld w 45 5) (fld w 28 8) rows * rowBytes mode)) }

/-- Issue of LPASS (R74, R126, R128, R132, R143, R181). A skipped segment does no work; a skipped FINAL segment still
retires, so that its row group is judged (R132). -/
def lpassBody (p k : Nat) (e0 : LogEnt) (redo : Bool) (s0 : State) : Issued :=
  let x := s0.strand p k
  let e := lpassEnt x e0 redo
  let w := e.word
  let g := fld w 17 3
  let first := flag w 22
  let notePass := fun (a : State) => if redo then a else
    a.modStrand p k fun x => { x with pass := some (g :: (if flag w 20 then [] else x.pass.getD [])) }
  if x.suppressed e.tok then .go (notePass s0)
  else
    match s0.joinGroup p k e false redo with
    | none => .wait .none_ s0
    | some s1 =>
      if (s1.strand p k).skipping e.tok then
        if flag w 23 then
          .go ((notePass s1).pushUnit p 1
            { strand := k, uid := x.uid, ent := e, skipped := true, bank := (((s1.tile p).passBank k false).getD none).getD 0 })
        else .go (notePass s1)
      else
        let t := s1.tile p
        match t.passSet k (flag w 20) with
        | .error r => .wait r s0
        | .ok set =>
          match t.passBank k first with
          | some none => .wait .abank s0
          | none => s1.stopAt p k e [lpassAcc e 0] (0x0B :: lpassChecks w set {})
          | some (some b) =>
            let bank := t.abank b
            match s1.prep p k e [lpassAcc e (passRows w bank)] (lpassChecks w set bank) with
            | .bad st s' => .stop st s'
            | .hold s' => .wait .none_ (s0.modTile p fun t => { t with rereads := (s'.tile p).rereads })
            | .ok s2 =>
              let base := fld w 86 8 * 32
              let rows := fld w 94 14
              let bank1 : AccBank := if bank.st = .free then { st := .filling, owner := some k, tok := e.tok } else bank
              let bank2 := if first then { bank1 with
                  groups := Tab.put bank1.groups g { base := base, rows := rows, wfmt := fld w 24 4, part := flag w 108 }
                  entries := bank1.entries.filter fun c => c.1 < base || base + rows ≤ c.1 } else bank1
              .go (((notePass s2).modTile p fun t => t.setAbank b bank2).pushUnit p 1
                { strand := k, uid := x.uid, ent := e, run := !flag w 20, bank := b })

/-! ## The lookups of a segment -/

/-- What the lookups of a segment leave: the entries, the first invalid index as (value, slot, port, row), the first
saturated entry with whether it is a guard overflow, and whether each kind of saturation was met. -/
structure SegOut where
  entries : Tab AccEntry
  invalid : Option (Nat × Nat × Nat × Nat) := none
  sat     : Option (Nat × Bool) := none
  anyGuard : Bool := false
  anyFinal : Bool := false
deriving DecidableEq, Repr

/-- Keep the first of two captures. -/
def firstOf {α : Type} (a b : Option α) : Option α :=
  match a with
  | some x => some x
  | none => b

/-- A change of an entry seen as a saturation of entry `n`. -/
def satSeen (old new : AccEntry) (n : Nat) : Option (Nat × Bool) :=
  if new.guard && !old.guard then some (n, true) else if new.sat && !old.sat then some (n, false) else none

/-- Update an entry and note a saturation. -/
def SegOut.upd (o : SegOut) (n : Nat) (f : AccEntry → AccEntry) : SegOut :=
  let old := Tab.get {} o.entries n
  let new := f old
  { o with entries := Tab.put o.entries n new, sat := firstOf o.sat (satSeen old new n),
           anyGuard := o.anyGuard || (new.guard && !old.guard), anyFinal := o.anyFinal || (new.sat && !old.sat) }

/-- The lookups of a segment on a table set (R46, R47, R57, R122). Two points the manual leaves open. Every segment's row blocks start
at port 0: R45 and R80 speak of the ports that the last cycle of a whole pass leaves idle (notes/assumptions/52.md). The invalid index
met first is the first by row block, then row, then slot: `TILE_INVALID_INFO` orders the indices of one TCLK, and rows take their
indices in different ones (R76; notes/assumptions/53.md). -/
def runSegment (rd : Nat → Nat → List Byte) (w : BitVec 128) (slots : List (List Int)) (c : GroupCtx) (entries : Tab AccEntry) : SegOut :=
  let mode := fld w 12 3
  let np := fld w 15 2 + 1
  let I := blockSize mode
  let rb := fld w 36 9
  let rbStart := fld w 28 8
  let o := (List.range rb).foldl (fun a i =>
    (List.range (activeRows rb i (fld w 45 5) rbStart c.rows)).foldl (fun (a : SegOut) r =>
      let planes := (List.range np).map fun p => rd ((i * np + p) * I + r * rowBytes mode) (rowBytes mode)
      let v := rowValue mode slots 0 planes
      let inv := v.2.map fun e => (e.1, e.2, i % blocksPerCycle np, r)
      { a.upd (c.base + 32 * (rbStart + i) + r) (fun e => e.deliver v.1) with invalid := firstOf a.invalid inv }) a)
    { entries := entries : SegOut }
  if flag w 23 then
    (o.entries.filter fun e => decide (c.base ≤ e.1) && decide (e.1 < c.base + c.rows)).foldl
      (fun a e => a.upd e.1 fun y => y.finish c.part) o
  else o

/-! ## Retirement -/

/-- Every open group's FINAL segment has retired. -/
def AccBank.allFinal (b : AccBank) : Bool := b.groups.all fun c => c.2.final
/-- Any entry of the row group is saturated (R131). -/
def AccBank.saturated (b : AccBank) : Bool := b.entries.any fun e => e.2.guard || e.2.sat

/-- Replay shift in force for a token (R91). -/
def Strand.shiftOf (x : Strand) (tok : Nat) : Nat := match Tab.get none (x.recs.map fun r => (r.1, some r.2)) tok with
  | some r => r.shift
  | none => 0

/-- The row group of the strand closes (R174). -/
def Strand.closeGroup (x : Strand) : Strand := { x with rg := none, log := [], logOver := false }

/-- The tile replays the row group (R134). A set that the strand has built ahead, in a shadow bank that is BUILDING or READY, is freed:
the manual does not say what becomes of it (notes/assumptions/54.md). -/
def State.replay (s : State) (p k b tok : Nat) : State :=
  let t := s.tile p
  let sh := if t.shadow.owner = some k ∧ (t.shadow.st = .building ∨ t.shadow.st = .ready) then {} else t.shadow
  let bank := t.abank b
  let t1 := (t.setTbank (!t.row0) sh).setAbank b
    { bank with st := .replay, groups := bank.groups.map fun c => (c.1, { c.2 with final := false }) }
  (s.setTile p { t1 with replayCnt := t1.replayCnt + 1 }).modStrand p k fun x =>
    { x with
      recs := x.recs.map fun r => if r.1 = tok then (r.1, { r.2 with shift := r.2.shift + 1 }) else r
      replays := x.replays + 1
      rg := x.rg.map fun g => { g with redo := some 0, skip := false } }

/-- The final pass of the row group in accumulator bank `b` retires (R129, R134, R137, R174): READY, sent as a part, a
replay, a clamp, or the end of the task when no replay log can be replayed. -/
def State.judge (s : State) (p k b : Nat) : State :=
  let t := s.tile p
  let x := t.strand k
  let bank := t.abank b
  let sh := x.shiftOf bank.tok
  let ready := fun (a : State) (y : AccBank) =>
    (a.modTile p fun t => t.setAbank b { y with st := .ready }).modStrand p k Strand.closeGroup
  if !bank.allFinal then s
  else if bank.groups.any (fun c => c.2.part) || !bank.saturated then ready s bank
  else if sh < 3 then
    if x.log.isEmpty || x.logOver then s.endTask p k 0x0F else s.replay p k b bank.tok
  else
    ready (s.modTile p fun t => t.satFlag k 2 sh)
      { bank with clamped := true, entries := bank.entries.map fun e => (e.1, e.2.clamp) }

/-- Mark a group's FINAL segment as seen. -/
def AccBank.markFinal (b : AccBank) (g : Nat) : AccBank :=
  { b with groups := b.groups.map fun c => if c.1 = g then (c.1, { c.2 with final := true }) else c }

/-- The segment at the head of the array's queue retires (R57, R75, R122, R129 to R134). -/
def State.passRetire (s : State) (p : Nat) : State :=
  let t := s.tile p
  match t.unit 1 with
  | [] => s
  | u :: rest =>
    let k := u.strand
    let w := u.ent.word
    let x := t.strand k
    let t0 := t.setUnit 1 rest
    if u.skipped || x.skipping u.ent.tok then
      if flag w 23 then
        (s.setTile p (t0.setAbank u.bank ((t0.abank u.bank).markFinal (fld w 17 3)))).judge p k u.bank
      else s.setTile p t0
    else if !u.run then s
    else
      let bank := t0.abank u.bank
      let g := fld w 17 3
      match Tab.get none (bank.groups.map fun c => (c.1, some c.2)) g with
      | none => s.setTile p t0
      | some c =>
        let set := t0.active
        let c1 := { c with suma := if u.ent.sum then c.suma + set.sums.foldl (· + ·) 0 else c.suma, final := c.final || flag w 23 }
        let o := runSegment (fun a n => t0.opBytes x.base (u.ent.o1.plus a) n) w set.slots c bank.entries
        let np := fld w 15 2 + 1
        let t1 := t0.setAbank u.bank { bank with groups := Tab.put bank.groups g c1, entries := o.entries }
        let t2 := { t1 with injectCyc := t1.injectCyc + BitVec.ofNat 32 (ceilDiv (fld w 36 9) (blocksPerCycle np)) }
        let sh := x.shiftOf u.ent.tok
        let t3 : Tile := match o.sat with
          | some (n, guard) =>
            let a := t2.saturate k n g sh guard false
            let b := if o.anyGuard && !guard then a.satFlag k 0 sh else a
            if o.anyFinal && guard then b.satFlag k 1 sh else b
          | none => t2
        let t4 : Tile := match o.invalid with
          | some (v, sl, port, r) => t3.invalidIndex k v sl port r
          | none => t3
        let t5 := if flag w 21 && t4.active.owner == some k then t4.setTbank t4.row0 { t4.active with owner := none } else t4
        let s1 := s.setTile p t5
        if o.invalid.isSome then s1.endTask p k 0x05
        else
          let s2 := if o.anyGuard then
              s1.modStrand p k fun x => { x with rg := x.rg.map fun r => { r with skip := true } } else s1
          if flag w 23 then s2.judge p k u.bank else s2

/-- PASS_RETIRE: the head segment of a tile's array retires. -/
def execPassRetire (tile : Nat) (s : State) : Ans := .next (if s.tileRuns tile then s.passRetire tile else s)

end Sys2Proof.Machine
end

