-- ==== Sys2Proof/Machine/Special.lean ====
section
/-! DEFINITION. The correctly rounded special functions of R187: each is evaluated in fixed point with 448 fraction bits
and rounded once (notes/assumptions/10.md). -/

namespace Sys2Proof.Machine

/-- Fraction bits of the fixed-point evaluation. -/
def fxP : Nat := 448

/-- One in fixed point. -/
def fxOne : Nat := 2 ^ fxP

/-- Σ over odd n of z^n / n (atanh) or its alternating form (atan); `pw` is the current power of z, `zz` is z². -/
def atSeries (alt : Bool) (zz : Int) : Nat → Int → Nat → Int
  | 0, _, _ => 0
  | fuel + 1, pw, n =>
    pw / (n : Int) + atSeries alt zz fuel ((if alt then -1 else 1) * (pw * zz / (fxOne : Int))) (n + 2)

/-- atanh z for |z| ≤ 1/3. -/
def fxAtanh (z : Int) : Int := atSeries false (z * z / (fxOne : Int)) 150 z 1

/-- ln 2 = 2 atanh (1/3). -/
def fxLn2 : Int := 2 * fxAtanh ((fxOne : Int) / 3)

/-- atan (1/n). -/
def fxAtanInv (n : Nat) : Int :=
  let z : Int := (fxOne : Int) / (n : Int)
  atSeries true (z * z / (fxOne : Int)) 110 z 1

/-- π by Machin's formula. -/
def fxPi : Int := 16 * fxAtanInv 5 - 4 * fxAtanInv 239

/-- √(8/π), twice the factor of R187's GELU. -/
def fxGeluC : Int := (isqrt (8 * fxOne * fxOne * fxOne / fxPi.toNat) : Int)

/-- Σ r^n / n! from the term `t` of index `n`. -/
def expSeries (r : Int) : Nat → Int → Nat → Int
  | 0, _, _ => 0
  | fuel + 1, t, n => t + expSeries r fuel (t * r / (fxOne : Int) / ((n : Int) + 1)) (n + 1)

/-- e^x for fixed-point x: a fixed-point mantissa and a power of two. -/
def fxExp (x : Int) : Int × Int :=
  let k := (2 * x + fxLn2) / (2 * fxLn2)
  let r := x - k * fxLn2
  (expSeries r 100 fxOne 0, k)

/-- e^x as a numerator and a denominator. -/
def expRat (x : Int) : Nat × Nat :=
  let (m, k) := fxExp x
  (m.toNat * (pow2 k).1, fxOne * (pow2 k).2)

/-- A finite FP32 operand in fixed point (exact: 448 fraction bits hold every FP32 value). -/
def fxOf (w : Word) : Int :=
  let (n, d) := ratOf w
  n * (fxOne : Int) / (d : Int)

/-- Round a signed quotient with a signed zero result for negatives. -/
def rneQ (num : Int) (den : Nat) : Word := roundRat false (decide (num < 0)) num.natAbs den

/-- R187 EXP. -/
def fexp (a : Word) : Word :=
  match fpOf a with
  | .nan => qnan
  | .inf n => if n then 0 else infW false
  | .zero _ => 0x3F800000
  | .fin _ _ _ =>
    let x := fxOf a
    if 128 * (fxOne : Int) ≤ x then infW false
    else if x ≤ -(128 * (fxOne : Int)) then 0
    else
      let (n, d) := expRat x
      rneQ n d

/-- ln of a positive value m × 2^e in fixed point. -/
def fxLn (m : Nat) (e : Int) : Int :=
  let l := m.log2
  let f : Int := m * fxOne / 2 ^ l
  let z := (f - fxOne) * (fxOne : Int) / (f + fxOne)
  (e + l) * fxLn2 + 2 * fxAtanh z

/-- R187 LOG. -/
def fln (a : Word) : Word :=
  match fpOf a with
  | .nan => qnan
  | .inf n => if n then qnan else infW false
  | .zero _ => infW true
  | .fin true _ _ => qnan
  | .fin false m e => rneQ (fxLn m e) fxOne

/-- R187 RECIP. -/
def frecip (a : Word) : Word := fdiv 0x3F800000 a

/-- R187 RSQRT. -/
def frsqrt (a : Word) : Word :=
  match fpOf a with
  | .nan => qnan
  | .inf n => if n then qnan else 0
  | .zero n => infW n
  | .fin true _ _ => qnan
  | .fin false m e => sqrtRat (pow2 e).2 (m * (pow2 e).1)

/-- R187 TANH: (e^2x − 1) / (e^2x + 1). -/
def ftanh (a : Word) : Word :=
  match fpOf a with
  | .nan => qnan
  | .inf n => if n then 0xBF800000 else 0x3F800000
  | .zero n => zeroW n
  | .fin neg _ _ =>
    let x := fxOf a
    if 64 * fxOne ≤ x.natAbs then (if neg then 0xBF800000 else 0x3F800000)
    else
      let (n, d) := expRat (2 * x)
      rneQ ((n : Int) - d) (n + d)

/-- 1 / (1 + e^−v) as a quotient, for |v| below 1,000. -/
def sigRat (v : Int) : Nat × Nat :=
  let (n, d) := expRat (-v)
  (d, d + n)

/-- R187 SIGMOID. -/
def fsigmoid (a : Word) : Word :=
  match fpOf a with
  | .nan => qnan
  | .inf n => if n then 0 else 0x3F800000
  | .zero _ => 0x3F000000
  | .fin neg _ _ =>
    let x := fxOf a
    if 200 * fxOne ≤ x.natAbs then (if neg then 0 else 0x3F800000)
    else
      let (n, d) := sigRat x
      rneQ n d

/-- x × σ(v), the common form of SILU (v = x) and GELU (v = 2u). -/
def xsig (a : Word) (v : Int) : Word :=
  let (xn, xd) := ratOf a
  let (n, d) := sigRat v
  rneQ (xn * n) (xd * d)

/-- σ(v) + x σ(v) (1 − σ(v)) v′ with v′ in fixed point: the derivative of x × σ(v(x)). -/
def xsigDeriv (a : Word) (v dv : Int) : Word :=
  let (xn, xd) := ratOf a
  let (n, d) := sigRat v
  rneQ ((n : Int) * d * xd * fxOne + xn * n * ((d : Int) - n) * dv) (d * d * xd * fxOne)

/-- R187 SILU. -/
def fsilu (a : Word) : Word :=
  match fpOf a with
  | .nan => qnan
  | .inf n => if n then zeroW true else infW false
  | .zero n => zeroW n
  | .fin neg _ _ =>
    if 200 * fxOne ≤ (fxOf a).natAbs then (if neg then zeroW true else fclean a)
    else xsig a (fxOf a)

/-- SILU′ of R187. -/
def fdsilu (a : Word) : Word :=
  match fpOf a with
  | .nan => qnan
  | .inf n => if n then zeroW true else 0x3F800000
  | .zero _ => 0x3F000000
  | .fin neg _ _ =>
    if 200 * fxOne ≤ (fxOf a).natAbs then (if neg then zeroW true else 0x3F800000)
    else xsigDeriv a (fxOf a) fxOne

/-- 2u = 2 √(2/π) (x + 0.044715 x³) in fixed point. -/
def geluV (x : Int) : Int :=
  let x3 := x * x / (fxOne : Int) * x / (fxOne : Int)
  fxGeluC * (x + 44715 * x3 / 1000000) / (fxOne : Int)

/-- The derivative of 2u. -/
def geluDv (x : Int) : Int :=
  fxGeluC * ((fxOne : Int) + 3 * 44715 * (x * x / (fxOne : Int)) / 1000000) / (fxOne : Int)

/-- R187 GELU in its tanh form: 0.5 x (1 + tanh u) = x σ(2u). -/
def fgelu (a : Word) : Word :=
  match fpOf a with
  | .nan => qnan
  | .inf n => if n then zeroW true else infW false
  | .zero n => zeroW n
  | .fin neg _ _ =>
    if 20 * fxOne ≤ (fxOf a).natAbs then (if neg then zeroW true else fclean a)
    else xsig a (geluV (fxOf a))

/-- GELU′ of R187. -/
def fdgelu (a : Word) : Word :=
  match fpOf a with
  | .nan => qnan
  | .inf n => if n then zeroW true else 0x3F800000
  | .zero _ => 0x3F000000
  | .fin neg _ _ =>
    if 20 * fxOne ≤ (fxOf a).natAbs then (if neg then zeroW true else 0x3F800000)
    else xsigDeriv a (geluV (fxOf a)) (geluDv (fxOf a))

/-- A special function with the status bits of R187 and R190: DIVZERO for an infinite result from a zero input. -/
def unaryR (f : Word → Word) (a : Word) : FR :=
  let r := f a
  if isZero a && isInf r then (r, 4) else (r, fflags [a] r)

end Sys2Proof.Machine
end

