-- ==== Sys2Proof/Machine/Epilogue.lean ====
section
/-! DEFINITION. The epilogue: OUTPUT, PARTIAL and COMBINE (R99, R113, R129, R137, R140 to R144, R147 to R155, R182, R218). -/

namespace Sys2Proof.Machine

/-- The step is EPI of form `f`. -/
def isEpi (f : Nat → Bool) (w : BitVec 128) : Bool := opcodeOf w == 0x05 && f (fld w 12 2)

/-- `FUNC` is a paired function (R150). -/
def pairedFn (w : BitVec 128) : Bool := fld w 14 3 == 4 || fld w 14 3 == 5
/-- The step reads two groups: a paired function, or a K8 pair (R150, R111). -/
def twoGroups (w : BitVec 128) : Bool := pairedFn w || flag w 92

/-! ## Dequantisation -/

/-- Weight bits b of the correction of R54 (R149): none for T5, V4 and V8. -/
def formatBits (wfmt : Nat) (k8 : Bool) : Option Nat :=
  if k8 || wfmt == 12 then some 8
  else if 4 ≤ wfmt ∧ wfmt ≤ 7 then some (wfmt - 3)
  else if wfmt = 11 then some 4
  else none

/-- One output value before the function (R149). -/
def epilogueValue (acc suma : Int) (bits : Option Nat) (zw : Nat) (sw sa : Word) (k : Nat) (osum bias : Word) : Word :=
  let x := match bits with
    | some b => rneRat (acc + ((2 ^ b : Nat) - 1 - 2 * (zw : Int)) * suma) 2
    | none => fofInt acc
  let se := fmul sa (fofInt (2 ^ k))
  fadd (fadd (fmul (fmul x sw) se) osum) bias

/-- The function of R150 on one value, or on a pair. -/
def epiFn (fn : Nat) (a b : Word) : Word :=
  if fn = 1 then fmax a 0
  else if fn = 2 then fsilu a
  else if fn = 3 then fgelu a
  else if fn = 4 then fmul (fsilu a) b
  else if fn = 5 then fmul (fgelu a) b
  else a

/-- A row record (R98): scale, zero point, mode and the bits above. -/
structure RowRec where
  scale : Word
  zero  : Nat
  mode  : Nat
  rest  : Nat
deriving DecidableEq, Repr

/-- A row record from its 8 bytes (R98). -/
def rowRecord (b : List Byte) : RowRec :=
  let w := fieldAt b 5 3
  { scale := BitVec.ofNat 32 (fieldAt b 0 4), zero := fieldAt b 4 1, mode := w % 2, rest := w / 2 }

/-- The check of R99 for a weight format (`m8`: the record of an M8 tensor). -/
def RowRec.ok (r : RowRec) (wfmt : Nat) : Bool :=
  let zmax := if 4 ≤ wfmt ∧ wfmt ≤ 7 then 2 ^ (wfmt - 3) - 1 else if wfmt = 11 then 15 else if wfmt = 12 then 255 else 0
  scaleOk r.scale && decide (r.zero ≤ zmax) && (r.mode == 0 || wfmt == 14) && r.rest == 0

/-- The bytes of a row record. -/
def RowRec.bytes (scale : Word) (zp mode : Nat) : List Byte := leBytes 8 (scale.toNat + zp * 2 ^ 32 + mode * 2 ^ 40)

/-! ## Side records -/

/-- The maximum of values under R154. -/
def maxOf (l : List Word) : Word := match l with
  | [] => 0xFF800000
  | a :: t => t.foldl fmax (fclean a)

/-- A side record (R153, R154) over output values widened to FP32; `L` and `n` give the split of R155 (n = 1: unsplit). -/
def sideRecord (v : List Word) (L n shift : Nat) (clamped : Bool) : List Byte :=
  let nan := v.any isNan
  let sums := fun l => (canonPart l L 0 (8 / n)).1
  let mx := if nan then qnan else maxOf v
  let sm := if nan then qnan else sums v
  let sq := if nan then qnan else sums (v.map fun y => fmul y y)
  leBytes 4 mx.toNat ++ leBytes 4 sm.toNat ++ leBytes 4 sq.toNat ++ leBytes 2 v.length
    ++ leBytes 2 (shift + (if v.any nonfinite then 4 else 0) + (if clamped then 8 else 0))

/-- The least multiple of 64 at or above `n`. -/
def up64 (n : Nat) : Nat := (n + 63) / 64 * 64

/-- Outputs converted to the step's format and their widened values (R151). -/
def convertOut (fp32 : Bool) (v : List Word) : List Byte × List Word :=
  if fp32 then (v.flatMap fun y => leBytes 4 y.toNat, v)
  else (v.flatMap fun y => leBytes 2 (toBf16 y).toNat, v.map fun y => ofBf16 (toBf16 y))

/-! ## Destination -/

/-- Where an epilogue step writes. `claim`: the slot is claimed by this step; `full`: FULL follows its last write (R218). -/
inductive Dest
  | spad (o : Opnd)
  | slot (b : Nat) (d : BightDecl) (off : Nat) (claim full : Bool)
deriving DecidableEq, Repr

/-- The unfinished slot of bight `b` that an EPI step of the strand claimed (R218). -/
def Strand.epiSlot (x : Strand) (b : Nat) : Option Nat := (x.claims.find? fun c => c.bight == b && c.epi).map (·.slot)

/-- Resolve `DEST`: a status, a wait for credit, or the destination (R182, R218, R221, R340, R455). -/
def State.epiDest (s : State) (p k : Nat) (w : BitVec 128) (tok : Nat) : Except (Option Nat) Dest :=
  let x := s.strand p k
  if !flag w 31 then .ok (.spad (spadOpnd x (fld w 32 20)))
  else
    let b := fld w 32 8
    match s.bightDecl b with
    | none => .error (some 0x06)
    | some d =>
      match d.rank (s.me p) with
      | none => .error (some 0x0B)
      | some r =>
        if fld w 40 12 ≠ 0 ∨ d.tps ≤ tok then .error (some 0x0B)
        else if worst [s.peerRefusal x.func d.cnode, need (s.isMember d.cnode) 0x0D] ≠ 0 then
          .error (some (worst [s.peerRefusal x.func d.cnode, need (s.isMember d.cnode) 0x0D]))
        else
          let off := tok * d.tstride * 64
          match x.epiSlot b with
          | some j => if tok = 0 then .error (some 0x0B) else .ok (.slot b d (d.slotOff j + off) false (tok + 1 == d.tps))
          | none =>
            if tok ≠ 0 then .error (some 0x0B)
            else if s.credit b d r = 0 ∨ s.layHeld d x.uid then .error none
            else .ok (.slot b d (d.slotOff (s.nextWr b r) + off) true (tok + 1 == d.tps))

/-- The accesses of a scratchpad destination of `n` rows of `es` bytes and its side record (R182). -/
def Dest.accs (d : Dest) (n es : Nat) : List Access :=
  match d with
  | .spad o =>
    let side := match o with
      | .spad off => .spad (up64 (off + n * es))
      | .pstore off => .pstore (up64 (off + n * es))
      | .none_ => .none_
    [{ o := o, len := n * es, write := true }, { o := side, len := 16, write := true, cap := o.off }]
  | _ => []

/-- Posted writes of a token of `len` bytes and its side record. -/
def Dest.posts (d : Dest) (len : Nat) : Nat :=
  match d with
  | .slot _ _ off _ _ => piecesOf meshPayload off len + 1
  | .spad _ => 0

/-- Write the outputs of a token and then its side record (R151, R218); the number is 0 or the status of a refusal. -/
def State.epiWrite (s : State) (p k : Nat) (d : Dest) (data side : List Byte) : State × Nat :=
  let x := s.strand p k
  match d with
  | .spad o =>
    let r := s.opWrite p k o data
    match o with
    | .spad off => if r.2 = 0 then r.1.opWrite p k (.spad (up64 (off + data.length))) side else r
    | _ => r
  | .slot b decl off claim full =>
    let rank := (decl.rank (s.me p)).getD 0
    let s1 := if claim then
        match s.claimSlot p b decl rank x.uid none with
        | some (s', j) => s'.modStrand p k fun x => { x with claims := x.claims ++ [{ bight := b, slot := j, epi := true }] }
        | none => s
      else s
    let j := ((s1.strand p k).epiSlot b).getD 0
    let who := Requester.step p k x.uid
    let r1 := s1.slotWrite p decl off meshPayload data who
    let r2 := r1.1.slotWrite p decl (up64 (off + data.length)) meshPayload side who
    let s2 := r2.1.modStrand p k fun x => { x with unacked := x.unacked + r1.2 + r2.2 }
    let s3 := if full then
        (s2.slotMsg p .full b decl j x.uid false none).modStrand p k
          fun x => { x with claims := x.claims.filter fun c => !(c.bight == b && c.epi) }
      else s2
    (s3, 0)

/-! ## Row operands -/

/-- A register operand as a window-relative scratchpad operand. -/
def regSpad (x : Strand) (r : Nat) : Option Opnd := (regOpt x r).map .spad

/-- The accesses of the row records, biases and outlier sums for `n` entries each (R98, R149, R182). -/
def epiRowAccs (x : Strand) (w : BitVec 128) (n : Nat) : List Access :=
  let a := fun r len al => match regSpad x r with
    | some o => [{ o := o, len := len, align := al : Access }]
    | none => []
  a (fld w 52 4) (8 * n) 8 ++ a (fld w 56 4) (n * (if flag w 60 then 4 else 2)) 1 ++ a (fld w 61 4) (4 * n) 1

/-- The bias of entry `i` (R149): +0 if none. -/
def biasAt (t : Tile) (x : Strand) (w : BitVec 128) (i : Nat) : Word :=
  match regSpad x (fld w 56 4) with
  | none => 0
  | some o => if flag w 60 then BitVec.ofNat 32 (leNat (t.opBytes x.base (o.plus (4 * i)) 4))
              else ofBf16 (BitVec.ofNat 16 (leNat (t.opBytes x.base (o.plus (2 * i)) 2)))

/-- The outlier sum of entry `i`: +0 if none. -/
def osumAt (t : Tile) (x : Strand) (w : BitVec 128) (i : Nat) : Word :=
  match regSpad x (fld w 61 4) with
  | none => 0
  | some o => BitVec.ofNat 32 (leNat (t.opBytes x.base (o.plus (4 * i)) 4))

/-- The row record of entry `i`; the fixed value record when `RREC` is 15 (R113, R182). -/
def rrecAt (t : Tile) (x : Strand) (w : BitVec 128) (wfmt i : Nat) : RowRec :=
  match regSpad x (fld w 52 4) with
  | none => { scale := 0x3F800000, zero := if wfmt = 11 then 8 else 128, mode := 0, rest := 0 }
  | some o => rowRecord (t.opBytes x.base (o.plus (8 * i)) 8)

/-- A token's outputs (R149, R150) from its totals: `a` and, for a paired function, `b`, each with its Σa′. Entries of group
B follow those of group A. The manual does not say what a paired function with `K8PAIR` set takes: the model combines the two halves as
the first operand, and takes group B alone as the second (notes/assumptions/56.md). -/
def epiValues (t : Tile) (x : Strand) (w : BitVec 128) (wfmt : Nat) (sa : Word) (sh : Nat) (a : List Int) (sumA : Int)
    (b : List Int) (sumB : Int) : List Word :=
  let n := a.length
  let bits := formatBits wfmt (flag w 92)
  let val := fun (acc suma : Int) (i : Nat) =>
    let r := rrecAt t x w wfmt i
    epilogueValue acc suma bits r.zero r.scale sa sh (osumAt t x w i) (biasAt t x w i)
  (List.range n).map fun r =>
    let ya := val (a.getD r 0) sumA r
    if pairedFn w then epiFn (fld w 14 3) ya (val (b.getD r 0) sumB (n + r)) else epiFn (fld w 14 3) ya 0

/-- Every row record that the step reads passes R99. -/
def rrecsOk (t : Tile) (x : Strand) (w : BitVec 128) (wfmt n : Nat) : Bool :=
  (regSpad x (fld w 52 4)).isNone || (List.range n).all fun i => (rrecAt t x w wfmt i).ok wfmt

/-- The split of R155: parts and total row count, or none when the tile's rows are not the eighths of its part. -/
def splitOf (w : BitVec 128) (n : Nat) : Option (Nat × Nat) :=
  let L := fld w 65 16
  if L = 0 then some (1, n)
  else
    let parts := 2 ^ fld w 84 2
    let q := fld w 81 3
    let e := ceilDiv L 8
    let lo := q * (8 / parts) * e
    let hi := (q + 1) * (8 / parts) * e
    if 2 ≤ parts ∧ q < parts ∧ n = min L hi - min L lo then some (parts, L) else none

/-! ## OUTPUT -/

/-- The bank an epilogue step of the strand reads: the one of its token that is READY or DRAINING, else another such bank;
`none` when it must wait for one that fills, `some none` when it owns none. -/
def Tile.drainBank (t : Tile) (k tok : Nat) : Option (Option Nat) :=
  let own := [0, 1].filter fun b => (t.abank b).owner == some k
  let rdy := fun b => (t.abank b).st == .ready || (t.abank b).st == .draining
  match own.filter fun b => (t.abank b).tok == tok with
  | b :: _ => if rdy b then some (some b) else none
  | [] =>
    match own.filter rdy with
    | b :: _ => some (some b)
    | [] => if own.isEmpty then some none else none

/-- A group context of a bank. -/
def AccBank.group (b : AccBank) (g : Nat) : Option GroupCtx := Tab.get none (b.groups.map fun c => (c.1, some c.2)) g

/-- The totals of a group in row order; an entry that has received nothing is a free value. -/
def State.totals (s : State) (b : AccBank) (c : GroupCtx) : List Int × State :=
  let l := (List.range c.rows).map fun r =>
    match Tab.get none (b.entries.map fun e => (e.1, some e.2)) (c.base + r) with
    | some e => e.total
    | none => (Config.freeTotal (s.fresh + r)).toInt
  (l, { s with fresh := s.fresh + c.rows })

/-- Mark groups as drained. -/
def AccBank.drain (b : AccBank) (gs : List Nat) : AccBank :=
  { b with st := .draining, groups := b.groups.map fun c => if gs.contains c.1 then (c.1, { c.2 with drained := true }) else c }

/-- The groups an epilogue step names. -/
def epiGroups (w : BitVec 128) : List Nat := if twoGroups w then [fld w 25 3, fld w 28 3] else [fld w 25 3]

/-- The checks of an epilogue step's fields (R14, R150, R182). -/
def epiChecks (w : BitVec 128) (wfmt : Nat) : List Nat :=
  [ need (fld w 93 35 == 0) 0x0B, need (decide (fld w 14 3 < 6)) 0x0B, need (fld w 12 2 != 3) 0x0B,
    need (fld w 52 4 != 15 || wfmt == 11 || wfmt == 12) 0x0B ]

/-- The checks of an epilogue step for a token of `n` rows (R10, R99, R155, R165, R182, R205): the step's answer when it stops or waits,
else its destination. `more`: the step's other checks. A step that waits leaves `s0`. -/
def State.epiGate (s0 s : State) (p k : Nat) (e : LogEnt) (tok wfmt n : Nat) (more : List Nat) : Except Issued (State × Dest) :=
  let w := e.word
  let x := s.strand p k
  let ne := if pairedFn w then 2 * n else n
  let es := if flag w 17 then 4 else 2
  let dest := s.epiDest p k w tok
  let dchk := match dest with
    | .error (some st) => st
    | _ => 0
  let daccs := match dest with
    | .ok d => d.accs n es
    | _ => []
  match s.prep p k e (epiRowAccs x w ne ++ daccs) (dchk :: need (splitOf w n).isSome 0x0B :: epiChecks w wfmt ++ more) with
  | .bad st s' => .error (.stop st s')
  | .hold s' => .error (s0.holdAt s' p)
  | .ok s1 =>
    match dest with
    | .error _ => .error (.wait .credit s0)
    | .ok d =>
      if !x.ackRoom (d.posts (n * es)) then .error (.wait .none_ s0)
      else if !rrecsOk (s1.tile p) x w wfmt ne then .error (.stop 0x0B (s1.modTile p fun t => t.quantFlag k 4))
      else .ok (s1, d)

/-- Emit a token's outputs: check the operands, compute, write (R149 to R155). `before`: what the step does once nothing holds or stops
it, ahead of its writes; `after` finishes it. -/
def State.epiEmit (s0 s : State) (p k : Nat) (e : LogEnt) (tok wfmt : Nat) (sa : Word) (sh : Nat) (clamped : Bool)
    (a : List Int) (sumA : Int) (b : List Int) (sumB : Int) (more : List Nat) (before after : State → State) : Issued :=
  let w := e.word
  match s0.epiGate s p k e tok wfmt a.length more with
  | .error i => i
  | .ok (s1, d) =>
    let sp := (splitOf w a.length).getD (1, a.length)
    let o := convertOut (flag w 17) (epiValues (s1.tile p) (s.strand p k) w wfmt sa sh a sumA b sumB)
    let r := (before s1).epiWrite p k d o.1 (sideRecord o.2 sp.2 sp.1 sh clamped)
    if r.2 ≠ 0 then .stop r.2 r.1 else .go (after r.1)

/-- OUTPUT (R129, R149 to R155, R182). -/
def outputBody (p k : Nat) (e : LogEnt) (_ : Bool) (s0 : State) : Issued :=
  let s := s0.endPass p k
  let w := e.word
  let t := s.tile p
  let x := t.strand k
  let tok := tokOpnd x (fld w 18 7)
  if x.suppressed tok && x.only.isSome && (t.drainBank k tok == some none) then .go s
  else
    let dchk := match s.epiDest p k w tok with
      | .error (some st) => st
      | _ => 0
    match t.drainBank k tok with
    | none => .wait .abank s0
    | some none => .stop (worst (0x0B :: dchk :: epiChecks w 11)) s
    | some (some b) =>
      let bank := t.abank b
      match bank.group (fld w 25 3) with
      | none => .stop (worst (0x0B :: dchk :: epiChecks w 11)) s
      | some ga =>
        let og := if twoGroups w then bank.group (fld w 28 3) else some ga
        let gb := og.getD ga
        let rec? := Tab.get none (x.recs.map fun r => (r.1, some r.2)) tok
        let rc := rec?.getD { scale := 0, zero := 0, fmt := false }
        let ra := s.totals bank ga
        let rb := if twoGroups w then ra.2.totals bank gb else ([], ra.2)
        let acc := if flag w 92 then (ra.1.zip rb.1).map fun q => q.1 + 16 * q.2 else ra.1
        s0.epiEmit rb.2 p k e tok ga.wfmt rc.scale rc.shift bank.clamped acc ga.suma rb.1 gb.suma
          [need (og.isSome && gb.rows == ga.rows && rec?.isSome) 0x0B] id fun a =>
            (a.modTile p fun t => t.setAbank b ((t.abank b).drain (epiGroups w))).pushUnit p 2
              { strand := k, uid := x.uid, ent := e, bank := b }

/-! ## PARTIAL -/

/-- A partial record (R140). -/
def partialRecord (suma : Int) (shift : Nat) (guard : Bool) (part grp wfmt red tok : Nat) (tscale : Word) (rows : List Int) : List Byte :=
  leBytes 4 ((suma % 2 ^ 32).toNat) ++ leBytes 1 (shift + if guard then 4 else 0) ++ leBytes 1 part ++ leBytes 1 grp
    ++ leBytes 1 wfmt ++ leBytes 4 rows.length ++ leBytes 2 red ++ leBytes 2 tok ++ leBytes 4 tscale.toNat
    ++ List.replicate 44 0 ++ rows.flatMap fun v => leBytes 8 ((v % 2 ^ 64).toNat)

/-- The partial records of every open group of a bank (R140), with `GUARD` set if any entry of the bank's row group suffered guard overflow,
since the skip of R132 leaves all of its groups incomplete. The manual does not say how a slot holds several groups' records: they lie
one after another from its start (notes/assumptions/55.md). -/
def State.partials (s : State) (bank : AccBank) (part red tok shift : Nat) (tscale : Word) : List Byte × State :=
  bank.groups.foldl (fun a c =>
    let r := a.2.totals bank c.2
    (a.1 ++ partialRecord c.2.suma shift (bank.entries.any fun e => e.2.guard) part c.1 c.2.wfmt red tok tscale r.1, r.2)) ([], s)

/-- PARTIAL (R140, R143, R218, R221, R340, R455). The manual gives no `TSCALE` for a token that the part holds no record of: it is written
0 (notes/assumptions/55.md). -/
def partialBody (p k : Nat) (e : LogEnt) (_ : Bool) (s0 : State) : Issued :=
  let s := s0.endPass p k
  let w := e.word
  let t := s.tile p
  let x := t.strand k
  let tok := tokOpnd x (fld w 18 7)
  let red := fld w 86 6
  if x.suppressed tok then .go s
  else
    match t.drainBank k tok with
    | none => .wait .abank s0
    | bk =>
      let bank := match bk with
        | some (some b) => t.abank b
        | _ => {}
      let b := ((bk.getD none).getD 0)
      let opens := (epiGroups w).map bank.group
      let rowsOk := (opens.map fun g => (g.map (·.rows)).getD 0).all (· == ((opens.getD 0 none).map (·.rows)).getD 0)
      let checks := [ need (fld w 93 35 == 0) 0x0B, need (decide (fld w 14 3 < 6)) 0x0B,
                      need (opens.all (·.isSome) && rowsOk) 0x0B ]
      match Tab.get none s.rig.reduce red with
      | none => .stop (worst (0x06 :: checks)) s
      | some g =>
        if !g.parts.contains (s.me p) then .stop (worst (0x0B :: checks)) s
        else
          match s.bightDecl g.cbight with
          | none => .stop (worst (0x06 :: checks)) s
          | some d =>
            match d.rank (s.me p), Tab.get none (x.recs.map fun r => (r.1, some r.2)) tok with
            | some r, rec =>
              let tscale := (rec.map (·.scale)).getD 0
              let pr := s.partials bank (g.parts.idxOf (s.me p)) red tok (x.shiftOf tok) tscale
              let st := worst (s.peerRefusal x.func d.cnode :: need (s.isMember d.cnode) 0x0D ::
                need (decide (pr.1.length ≤ d.slotsz * 64)) 0x0B :: checks)
              if st ≠ 0 then .stop st s
              else
                if !x.ackRoom (piecesOf meshPayload (d.slotOff (s.nextWr g.cbight r)) pr.1.length) then .wait .none_ s0
                else
                  match pr.2.claimSlot p g.cbight d r x.uid none with
                  | none => .wait .credit s0
                  | some (s1, j) =>
                    let wr := s1.slotWrite p d (d.slotOff j) meshPayload pr.1 (.step p k x.uid)
                    let s2 := wr.1.modStrand p k fun x => { x with unacked := x.unacked + wr.2 }
                    let s3 := s2.slotMsg p .full g.cbight d j x.uid false none
                    let s4 := s3.modTask x.uid fun y => { y with
                      sent := if y.sent.contains (red, tok) then y.sent else y.sent ++ [(red, tok)]
                      reds := if y.reds.contains red then y.reds else y.reds ++ [red] }
                    .go ((s4.modTile p fun t => t.setAbank b { t.abank b with st := .draining }).pushUnit p 2
                      { strand := k, uid := x.uid, ent := e, bank := b })
            | none, _ => .stop (worst (0x0B :: checks)) s

/-! ## COMBINE -/

/-- A partial record as it is read (R140). -/
structure PartRec where
  suma   : Int
  shift  : Nat
  guard  : Bool
  part   : Nat
  group  : Nat
  wfmt   : Nat
  rows   : Nat
  red    : Nat
  tok    : Nat
  tscale : Word
  resv   : Bool
  totals : List Int
deriving DecidableEq, Repr

/-- The record of group `g` in a slot's bytes, the records lying one after another; `fuel` bounds the search. -/
def findPartial (b : List Byte) (g : Nat) : Nat → Option PartRec
  | 0 => none
  | fuel + 1 =>
    let rows := fieldAt b 8 4
    if b.length < 64 + 8 * rows then none
    else if fieldAt b 6 1 = g then
      some { suma := signedOf 32 (fieldAt b 0 4), shift := fieldAt b 4 1 % 4, guard := fieldAt b 4 1 / 4 % 2 == 1
             part := fieldAt b 5 1, group := g, wfmt := fieldAt b 7 1 % 16, rows := rows, red := fieldAt b 12 2
             tok := fieldAt b 14 2, tscale := BitVec.ofNat 32 (fieldAt b 16 4)
             resv := fieldAt b 4 1 / 8 == 0 && fieldAt b 7 1 / 16 == 0 && allZero (slice b 20 44)
             totals := (List.range rows).map fun r => signedOf 64 (fieldAt b (64 + 8 * r) 8) }
    else findPartial (b.drop (64 + 8 * rows)) g fuel

/-- The sum nodes of one row, level by level from the leaves, and the root (R141). -/
def sumNodes : Nat → List Int → List Int
  | 0, _ => []
  | fuel + 1, l =>
    let rec pairUp : List Int → List Int
      | a :: b :: t => (a + b) :: pairUp t
      | _ => []
    if l.length ≤ 1 then [] else pairUp l ++ sumNodes fuel (pairUp l)

/-- The combined row: its root, whether it is a guard overflow, whether it is saturated, and its clamped value (R137,
R141). -/
def combineRow (partGuard : Bool) (l : List Int) : Int × Bool × Bool × Int :=
  let ns := sumNodes 3 l
  let root := l.foldl (· + ·) 0
  let bad := ns.find? fun v => decide (2 ^ 33 ≤ v) || decide (v ≤ -(2 ^ 33))
  let guard := partGuard || bad.isSome
  let bound := fun (v : Int) => if v < 0 then -(2 ^ 31) else (2 ^ 31 - 1 : Int)
  let cl := match bad with
    | some v => bound v
    | none => if inS32 root then root else bound root
  (root, guard, guard || !inS32 root, cl)

/-- The records of one group in part order, with the status of their checks (R141). -/
def combineCheck (recs : List (Option PartRec)) (red tok n : Nat) : List PartRec × List Nat :=
  let l := recs.filterMap id
  match l with
  | [] => ([], [0x0B])
  | f :: _ =>
    let agree := l.all fun r => r.red == red && r.tok == tok && r.group == f.group && r.wfmt == f.wfmt
      && r.tscale == f.tscale && r.rows == f.rows && r.resv
    let once := l.length == n && (List.range n).all fun i => (l.filter fun r => r.part == i).length == 1
    let sorted := (List.range n).filterMap fun i => l.find? fun r => r.part == i
    (sorted, [need (agree && once) 0x0B, need (l.all fun r => r.shift == f.shift) 0x0F])

/-- The combined rows of a group's records. -/
def combineRows (l : List PartRec) : List (Int × Bool × Bool × Int) :=
  let g := l.any (·.guard)
  (List.range ((l.map PartRec.rows).headD 0)).map fun r => combineRow g (l.map fun q => q.totals.getD r 0)

/-- The combined Σa′ in s32 (R141). -/
def combineSuma (l : List PartRec) : Int := signedOf 32 (((l.map PartRec.suma).foldl (· + ·) 0 % 2 ^ 32).toNat)

/-- Flags and capture of a combined judgement (R141). -/
def Tile.noteCombined (t : Tile) (k g sh : Nat) (rows : List (Int × Bool × Bool × Int)) : Tile :=
  (rows.zipIdx).foldl (fun a e =>
    if e.1.2.2.1 then a.saturate k e.2 g sh e.1.2.1 true else a) t

/-- Where the record of group `g` ends in a slot's bytes, the records lying one after another. -/
def partialEnd (b : List Byte) (g : Nat) : Nat → Option Nat
  | 0 => none
  | fuel + 1 =>
    let len := 64 + 8 * fieldAt b 8 4
    if b.length < len then none
    else if fieldAt b 6 1 = g then some len
    else (partialEnd (b.drop len) g fuel).map (· + len)

/-- Take the next slots in read order until `ok` holds of the slots taken; none if too few can be taken. -/
def State.takeUntil (s : State) (p k b : Nat) (d : BightDecl) (ok : List Nat → Bool) : Nat → List Nat → Option (State × List Nat)
  | 0, l => if ok l then some (s, l) else none
  | n + 1, l =>
    if ok l then some (s, l)
    else
      match s.takeable b d with
      | none => none
      | some j => (s.takeSlot p k b d j).takeUntil p k b d ok n (l ++ [j])

/-- A slot's records name token `tok` (R140). A word that does not check clean is left to the checks of the read. -/
def Tile.slotTok (t : Tile) (off tok : Nat) : Bool :=
  t.blocked (off + 8) 8 || t.poisonedIn (off + 8) 8 || fieldAt (t.bytes (off + 14) 2) 0 2 == tok

/-- The partials a COMBINE step takes (R142, R144): one slot for each part, in read order; after a REPLAY verdict, the slots that hold the
token's new partials, and those of other tokens that come before them are kept for the steps that combine them
(notes/assumptions/58.md). The answer has the slots to combine and those kept. -/
def State.takePartials (s : State) (p k red tok : Nat) (g : RedGroup) (d : BightDecl) : Option (State × List Nat × List Nat) :=
  let x := s.strand p k
  let mine := fun (l : List Nat) =>
    if x.again = some (red, tok) then l.filter fun j => (s.tile p).slotTok (d.slotOff j) tok else l
  let old := (x.kept.filter fun e => e.1 == g.cbight).map (·.2)
  (s.takeUntil p k g.cbight d (fun l => decide (g.n ≤ (mine l).length)) d.slots old).map fun r =>
    (r.1, (mine r.2).take g.n, r.2.filter fun j => !((mine r.2).take g.n).contains j)

/-- A COMBINE step reads the partials in the parts `ext` of its tile, notes what it found, sends its verdict `v`, and empties the slots `js`
(R141, R142, R366); the slots `keep` of bight `b` stay for other tokens. -/
def State.combined (s : State) (p k red tok b : Nat) (ext : List (Nat × Nat)) (js keep : List Nat) (note : Tile → Tile)
    (v : VerdictKind) : State :=
  let s1 := ((ext.foldl (fun a r => a.noteCe p r.1 r.2) s).modTile p note).sendVerdict p red tok v
  let s2 := s1.modStrand p k fun x =>
    { x with
      held := x.held.filter fun h => !(h.bight == b && js.contains h.slot && h.rd)
      kept := (x.kept.filter fun q => q.1 != b) ++ keep.map fun j => (b, j)
      again := if v = .replay then some (red, tok) else none }
  js.foldl (fun a j => a.freeSlot b j) s2

/-- COMBINE (R137, R141, R142, R144, R364, R366, R455): takes the partials of its token, one for each part, decides the token's verdict,
and applies the epilogue to the combined values. The verdict of a token that is not replayed is sent when nothing holds or stops its
epilogue. -/
def combineBody (p k : Nat) (e : LogEnt) (_ : Bool) (s0 : State) : Issued :=
  let s := s0.endPass p k
  let w := e.word
  let x := s.strand p k
  let tok := tokOpnd x (fld w 18 7)
  let red := fld w 86 6
  let checks := [need (fld w 93 35 == 0) 0x0B, need (decide (fld w 14 3 < 6)) 0x0B]
  match Tab.get none s.rig.reduce red with
  | none => .stop (worst (0x06 :: checks)) s
  | some g =>
    match s.bightDecl g.cbight with
    | none => .stop (worst (0x06 :: checks)) s
    | some d =>
      if g.comb ≠ s.me p ∨ worst checks ≠ 0 then .stop 0x0B s
      else
        match s.takePartials p k red tok g d with
        | none => .wait .slot s0
        | some (s1, js, keep) =>
          let t := s1.tile p
          let size := d.slotsz * 64
          let gs := epiGroups w
          let ext := js.map fun j =>
            (d.slotOff j, (gs.map fun q => (partialEnd (t.bytes (d.slotOff j) size) q 8).getD size).foldl max 0)
          if ext.any fun r => t.blocked r.1 r.2 then
            .wait .none_ (ext.foldl (fun a r => a.modTile p fun t => t.askReread r.1 r.2) s0)
          else
            match (ext.flatMap fun r => wordsOf r.1 r.2).find? fun q => t.wordEcc q == .poisoned with
            | some q => .stop 0x01 (s1.logEv (srcTile p) .poison (t.locOf q) (some (s.tagOf x)) (some 1))
            | none =>
              let blobs := ext.map fun r => t.bytes r.1 r.2
              let cs := gs.map fun q => combineCheck (blobs.map fun b => findPartial b q 8) red tok g.n
              let ca := (cs.getD 0 ([], [])).1
              let cb := (cs.getD 1 ([], [])).1
              let rowsA := ((ca.map (·.rows)).headD 0)
              let st := worst (need (!twoGroups w || ((cb.map (·.rows)).headD 0) == rowsA) 0x0B :: cs.flatMap (·.2))
              let sh := (ca.map (·.shift)).headD 0
              let ra := combineRows ca
              let rb := combineRows cb
              let sat := (ra ++ rb).any fun r => r.2.2.1
              let v := if !sat then VerdictKind.accept else if sh < 3 then .replay else .clamp
              let clamp := v == .clamp
              let note := fun (t : Tile) =>
                let y := (t.noteCombined k (fld w 25 3) sh ra).noteCombined k (fld w 28 3) sh rb
                if clamp then y.satFlag k 2 sh else y
              let decide_ := fun (a : State) => a.combined p k red tok g.cbight ext js keep note v
              let wf := (ca.map (·.wfmt)).headD 0
              if st = 0 ∧ v = .replay then
                match s0.epiGate s1 p k e tok wf rowsA [] with
                | .error (.stop st' s') => .stop st' s'
                | _ => .wait .slot ((decide_ s1).modStrand p k fun x => { x with st := .issuing, reason := .none_ })
              else
                let pick := fun (r : Int × Bool × Bool × Int) => if clamp then r.2.2.2 else r.1
                let a := ra.map pick
                let b := rb.map pick
                let acc := if flag w 92 then (a.zip b).map fun q => q.1 + 16 * q.2 else a
                let s2 := if cs.any fun c => c.2.contains 0x0F then s1.modTile p fun t => t.satFlag k 3 0 else s1
                s0.epiEmit s2 p k e tok wf ((ca.map (·.tscale)).headD 0) sh clamp acc (combineSuma ca) b (combineSuma cb) [st] decide_
                  fun y => y.pushUnit p 2 { strand := k, uid := x.uid, ent := e, clamped := clamp }

end Sys2Proof.Machine
end

