-- ==== Sys2Proof/Machine/Hold.lean ====
section
/-! DEFINITION. The hold input pair (R394 to R397). -/

namespace Sys2Proof.Machine

/-- Discrepancy time in samples (R395): `DISC_MS` of 0 acts as 1. -/
def Hold.limit (h : Hold) : Nat := (if h.discMs = 0 then 1 else h.discMs.toNat) * 1000

/-- What a change of `OUTPUT_HOLD` since state `old` brings (R396, R442): the state interrupt; and when it falls, the messages held go, and
tasks that are ready again contend for their tiles (R297). FAULT_N follows the discrepancy fault. -/
def State.holdEdge (s old : State) : State :=
  let s1 := s.syncFaultN
  if s1.outputHold = old.outputHold then s1
  else
    let s2 := s1.irq 3
    if s2.outputHold then s2 else ((s2.funcs.map (·.1)).foldl State.flushPba s2).settleTurns

/-- The hold logic after `n` samples of the pins (R394, R395): a run of disagreeing samples that reaches the discrepancy time latches
the fault, a shorter one that ends is counted; `OUTPUT_HOLD` follows the pins while they agree. -/
def Hold.sample (h : Hold) (a b : Bool) (n : Nat) : Hold :=
  if a = b then { h with a := a, b := b, disagree := true, run := h.run + n, disc := h.disc || decide (h.limit ≤ h.run + n) }
  else
    let short := decide (0 < h.run) && decide (h.run < h.limit)
    { h with
      a := a, b := b, disagree := false, run := 0, agreed := a
      cnt := if short ∧ h.cnt.toNat < 65535 then h.cnt + 1 else h.cnt
      max := if short ∧ h.max.toNat < h.run then BitVec.ofNat 32 h.run else h.max }

/-- `n` samples of the pins, and what they report (R395, R396). -/
def State.holdSample (s : State) (a b : Bool) (n : Nat) : State :=
  let h := s.hold
  let s1 := { s with hold := h.sample a b n }
  if a = b then
    if h.limit ≤ h.run + n ∧ (h.run < h.limit ∨ !h.disc) then
      (s1.logEv srcHold .holdDisc 0 (some (BitVec.ofNat 32 (h.run + n))) none).holdEdge s
    else s1
  else if h.agreed = a then s1
  else (s1.logEv srcHold .holdChange 0 (some (if a then 1 else 0)) none).holdEdge s

/-- A sample of the hold pair (R394): HOLD_A is active high, HOLD_B active low. -/
def execHoldChange (a b : Bool) (s : State) : Ans := .next (if s.glb.st = .off then s else s.holdSample a b 1)

/-- `n` more disagreeing samples complete a run of `DISC_MS` milliseconds, and the discrepancy fault is latched (R395). -/
def execDiscrepancyFault (a b : Bool) (n : Nat) (s : State) : Ans :=
  .next (
    if s.glb.st = .off ∨ a ≠ b ∨ (s.hold.limit ≤ s.hold.run ∧ s.hold.disc) ∨ s.hold.run + n < s.hold.limit then s else s.holdSample a b n)

/-- Writing 1 to `HOLD_STATUS.DISC_FAULT` clears the fault if the last sample agreed (R397). -/
def execDiscFaultClear (fn : Nat) (v : Word) (s : State) : Ans :=
  .next (
    if !s.pfWrites fn 0x804 || !v.getLsbD 4 || s.hold.disagree || !s.hold.disc then s
    else ({ s with hold := { s.hold with disc := false } }).holdEdge s)

end Sys2Proof.Machine
end

