-- ==== Sys2Proof/Machine/Sync.lean ====
section
/-! DEFINITION. Synchronisation steps: BREAD, BWRITE, BREL, HARRIVE and HWAIT (R216 to R218, R225, R226, R455, R456), the
bight timeout (R217), and the completion of unit steps (R170). -/

namespace Sys2Proof.Machine

/-- A BREAD, BWRITE or BREL step has issued, with its effect. Behind an arrival of its strand that still waits in the unit, it
completes after it (R170; notes/assumptions/59.md). -/
def State.synStep (s : State) (p k : Nat) (e : LogEnt) : State :=
  if ((s.tile p).unit 5).any fun u => u.strand == k then s.pushUnit p 5 { strand := k, uid := (s.strand p k).uid, ent := e } else s

/-- The window-relative offset of slot `j` for a strand (R216). -/
def slotWindow (x : Strand) (d : BightDecl) (j : Nat) : Word := BitVec.ofInt 32 ((d.slotOff j : Int) - x.base)

/-- BREAD (R215, R216, R455). -/
def breadBody (p k : Nat) (e : LogEnt) (_ : Bool) (s : State) : Issued :=
  let w := e.word
  let b := fld w 12 8
  let r := fld w 20 4
  match s.bightDecl b with
  | none => .stop 0x06 s
  | some d =>
    if !d.consumer (s.me p) ∨ r = 15 ∨ fld w 24 104 ≠ 0 then .stop 0x0B s
    else
      match s.takeable b d with
      | none => .wait .slot s
      | some j => .go ((((s.endPass p k).takeSlot p k b d j).modStrand p k fun x => x.setReg r (slotWindow x d j)).synStep p k e)

/-- The wait limit in ticks of the timebase (R217); 0 acts as 1 microsecond. -/
def Tile.bightTicks (t : Tile) : Nat := usTicks (max 1 t.bightLimit.toNat)

/-- The strand has waited for a slot up to the limit (R217). -/
def State.slotExpired (s : State) (p k : Nat) : Bool :=
  let x := s.strand p k
  x.st == .waiting && x.reason == .slot && decide (x.waitFrom + (s.tile p).bightTicks ≤ s.glb.time)

/-- The wait limit of a BREAD (R217), or of a COMBINE that waits for its slots (R144), expires: a slot that can be taken is taken,
else the task ends with status 0x08. A COMBINE that has decided REPLAY begins a new wait. -/
def execBightTimeout (tile strand : Nat) (s : State) : Ans :=
  .next (
    let x := s.strand tile strand
    if s.slotExpired tile strand then
      let w := (s.tile tile).step x.next
      let s1 := if opcodeOf w = 0x09 then s.issue tile strand (isOp 0x09) (breadBody tile strand)
        else s.issue tile strand (isEpi fun f => f == 2) (combineBody tile strand)
      if s1.slotExpired tile strand then
        let b := if opcodeOf w = 0x09 then fld w 12 8 else
          (match Tab.get none s.rig.reduce (fld w 86 6) with | some g => g.cbight | none => 0)
        (s1.modTile tile fun t => t.bightTimedOut strand b).endTask tile strand 0x08
      else s1
    else s)

/-- BWRITE (R218, R221, R455). -/
def bwriteBody (p k : Nat) (e : LogEnt) (_ : Bool) (s : State) : Issued :=
  let w := e.word
  let b := fld w 12 8
  let r := fld w 20 4
  match s.bightDecl b with
  | none => .stop 0x06 s
  | some d =>
    match d.rank (s.me p) with
    | none => .stop 0x0B s
    | some rank =>
      if !d.consumer (s.me p) ∨ r = 15 ∨ fld w 24 104 ≠ 0 then .stop 0x0B s
      else
        match s.claimSlot p b d rank (s.strand p k).uid none with
        | none => .wait .credit s
        | some (s1, j) => .go (((s1.endPass p k).modStrand p k fun x =>
            { x.setReg r (slotWindow x d j) with held := x.held ++ [{ bight := b, slot := j, rd := false }] }).synStep p k e)

/-- BREL (R456): the oldest slot of the bight that the strand holds. -/
def brelBody (p k : Nat) (e : LogEnt) (_ : Bool) (s : State) : Issued :=
  let w := e.word
  let b := fld w 12 8
  let x := s.strand p k
  match s.bightDecl b with
  | none => .stop 0x06 s
  | some d =>
    if fld w 20 108 ≠ 0 then .stop 0x0B s
    else
      match x.held.find? fun h => h.bight == b with
      | none => .stop 0x0B s
      | some h =>
        let s1 := (s.endPass p k).modStrand p k fun x => { x with held := x.held.erase h, kept := x.kept.erase (b, h.slot) }
        .go ((if h.rd then s1.freeSlot b h.slot else s1.slotMsg p .full b d h.slot x.uid true none).synStep p k e)

/-- HARRIVE (R225, R455): the arrival is sent once every acknowledgement owed to the strand has arrived. -/
def harriveBody (p k : Nat) (e : LogEnt) (_ : Bool) (s : State) : Issued :=
  let w := e.word
  let h := fld w 12 8
  let n := fld w 20 16
  let x := s.strand p k
  let st := worst [need (s.hitch h).alloc 0x06, need (n != 0) 0x0B, need (fld w 36 92 == 0) 0x0B, need ((s.tile p).canArrive k h) 0x0B]
  if st ≠ 0 then .stop st s
  else .go (((s.endPass p k).pushUnit p 5 { strand := k, uid := x.uid, ent := e, arrive := some (h, n) }).pumpSyn p)

/-- HWAIT (R226, R455): passes when every round the strand has arrived in on the hitch has been released, an arrival that its earlier
steps have still to make included. -/
def hwaitBody (p k : Nat) (e : LogEnt) (_ : Bool) (s : State) : Issued :=
  let w := e.word
  let h := fld w 12 8
  let t := s.tile p
  let pend := (t.unit 5 ++ t.unit 0).any fun u => u.strand == k && (u.arrive.map (·.1)) == some h
  if !(s.hitch h).alloc then .stop 0x06 s
  else if fld w 20 108 ≠ 0 then .stop 0x0B s
  else if !(t.arriving k).has h then .stop 0x0B s
  else if pend || Tab.get 0 (t.strand k).arrived h ≠ 0 then .wait .hitch s
  else .go ((s.endPass p k).synStep p k e)

/-! ## Completion of unit steps -/

/-- The step at the head of unit `u` completes (R170): a table build is READY (R68, R72), a codebook is valid (R59), a drained
accumulator bank is free (R127, R129), a partial send releases the strand's banks, and a task whose outputs were clamped
ends with status 0x04 (R137). A TMCAST completes once its share has been sent, HARRIVE once its arrival has. -/
def State.unitDone (s : State) (p u : Nat) (x : UStep) (rest : List UStep) : State :=
  let s1 := s.modTile p fun t => t.setUnit u rest
  let w := x.ent.word
  let op := opcodeOf w
  if u = 0 then
    if op = 3 then
      s1.modTile p fun t =>
        let c := flag w 12
        let t1 := t.setCodebook c { t.codebook c with valid := true, loading := false }
        match t1.loadsInto c with
        | y :: _ => t1.startLoad y
        | [] => t1
    else
      s1.modTile p fun t =>
        let b := t.shadow
        if b.owner = some x.strand ∧ b.st = .building then
          t.setTbank (!t.row0) (if b.share.isNone then { b with present := 0xFFFF } else b).settle
        else t
  else if u = 2 then
    let f := fld w 12 2
    if f = 1 then
      s1.modTile p fun t => (t.setAbank x.bank {}) |> fun t' => { t' with tb0 := t'.tb0.release x.strand, tb1 := t'.tb1.release x.strand }
    else if f = 2 then (if x.clamped then s1.endTask p x.strand 0x04 else s1)
    else
      let b := (s1.tile p).abank x.bank
      let more := rest.any fun y => y.strand == x.strand && y.bank == x.bank
      if !more && b.groups.all fun g => g.2.drained then
        let s2 := s1.modTile p fun t => t.setAbank x.bank {}
        if b.clamped then s2.endTask p x.strand 0x04 else s2
      else s1
  else s1

/-- The step at the head of a unit completes. The array's segments complete by PASS_RETIRE. -/
def execUnitStepComplete (tile unit : Nat) (s : State) : Ans :=
  .next (
    if !s.tileRuns tile || unit == 1 || decide (6 ≤ unit) then s
    else
      match (s.tile tile).unit unit with
      | x :: rest =>
        if x.wait || x.arrive.isSome || !x.out.isEmpty then s else ((s.unitDone tile unit x rest).pumpSyn tile).pumpBld tile
      | [] => s)

end Sys2Proof.Machine
end

