-- ==== Sys2Proof/Machine/Quant.lean ====
section
/-! DEFINITION. The arithmetic of the quantise operations (R92 to R95, R109, R112, R115, R116). Every division and every
rounding to an integer acts on exact values: a finite FP32 number is an integer multiple of 2^-149. -/

namespace Sys2Proof.Machine

/-- A finite FP32 operand as an integer multiple of 2^-149; a subnormal reads as zero (R85). -/
def dyad (w : Word) : Int :=
  match fpOf w with
  | .fin neg m e => scaled neg m e (-149)
  | _ => 0

/-- Clamp to a range. -/
def clampI (lo hi v : Int) : Int := if v < lo then lo else if hi < v then hi else v

/-- What a quantise operation answers: the integers, the scale, the zero point, and status bits NONFINITE (bit 0) and
ZERO_RANGE (bit 1). -/
structure Quantised where
  q     : List Int
  scale : Word
  zp    : Nat
  flags : BitVec 3
deriving DecidableEq, Repr

/-- FP32 1.0. -/
def oneW : Word := 0x3F800000

/-- The flags of an operation over values `x` (R94). -/
def quantFlags (x : List Word) (zr : Bool) : BitVec 3 :=
  (if x.any nonfinite then 1 else 0) ||| (if zr then 2 else 0)

/-- The finite values of lookup channels, those outside `skip` (R94). -/
def lookupVals (x : List Word) (skip : List Nat) : List Int :=
  (x.zipIdx.filter fun e => !nonfinite e.1 && !skip.contains e.2).map fun e => dyad e.1

/-- Asymmetric quantise to 0 … `top` (R92; R109 for keys). -/
def quantAsym (top : Nat) (x : List Word) (skip : List Nat) : Quantised :=
  let l := lookupVals x skip
  let m := l.foldl min 0
  let M := l.foldl max 0
  let scale := roundRat true false (M - m).toNat (top * 2 ^ 149)
  if M = m ∨ !scaleOk scale then
    { q := x.map fun _ => 0, scale := oneW, zp := 0, flags := quantFlags x true }
  else
    let sc := (dyad scale).toNat
    let z := clampI 0 top (rnaInt (-m) sc)
    { q := x.zipIdx.map fun e =>
        if nonfinite e.1 ∨ skip.contains e.2 then z else clampI 0 top (rnaInt (dyad e.1) sc + z)
      scale := scale, zp := z.toNat, flags := quantFlags x false }

/-- Symmetric quantise to −`top` … `top` (R93, R112, R115). -/
def quantSym (top : Nat) (x : List Word) (skip : List Nat) : Quantised :=
  let a := (lookupVals x skip).foldl (fun b v => max b v.natAbs) 0
  let scale := roundRat true false a (top * 2 ^ 149)
  if a = 0 ∨ !scaleOk scale then { q := x.map fun _ => 0, scale := oneW, zp := 0, flags := quantFlags x true }
  else
    let sc := (dyad scale).toNat
    { q := x.zipIdx.map fun e =>
        if nonfinite e.1 ∨ skip.contains e.2 then 0 else clampI (-top) top (rnaInt (dyad e.1) sc)
      scale := scale, zp := 0, flags := quantFlags x false }

/-- √(num / den) ÷ div to the nearest FP32 value, ties away: the root with a sticky bit below 2^-200 (R116). -/
def rootScale (num den div : Nat) : Word :=
  if num = 0 then 0
  else
    let s := 200 + den.log2
    let t := num * 2 ^ (2 * s) / den
    let r := isqrt t
    let exact := decide (r * r = t) && decide (num * 2 ^ (2 * s) % den = 0)
    roundRat true false (2 * r + (if exact then 0 else 1)) (2 ^ (s + 1) * div)

/-- √v ÷ scale to the nearest integer, ties away, for v and scale in units of 2^-149: ⌊(⌊2x⌋ + 1) ÷ 2⌋. -/
def rootCode (v sc : Nat) : Nat := (isqrt (4 * v * 2 ^ 149 / (sc * sc)) + 1) / 2

/-- Unsigned root coding of an M8 row (R116). A negative or non-finite input falls under R94. The manual gives the collapse of a range for
R92 and R93 only: of a row whose roots are all 0, or whose scale falls below 2^-126, the model makes scale 1.0 and codes 0, and sets
ZERO_RANGE (notes/assumptions/61.md). -/
def quantRoot (x : List Word) : Quantised :=
  let bad := fun (w : Word) => nonfinite w || decide (dyad w < 0)
  let mx := ((x.filter fun w => !bad w).map fun w => (dyad w).toNat).foldl max 0
  let scale := rootScale mx (2 ^ 149) 255
  let nf : BitVec 3 := if x.any bad then 1 else 0
  if mx = 0 ∨ !scaleOk scale then { q := x.map fun _ => 0, scale := oneW, zp := 0, flags := nf ||| 2 }
  else
    let sc := (dyad scale).toNat
    { q := x.map fun w => if bad w then 0 else clampI 0 255 (rootCode (dyad w).toNat sc)
      scale := scale, zp := 0, flags := nf }

/-- An integer code as a byte. -/
def codeByte (q : Int) : Byte := BitVec.ofInt 8 q

/-- A token record (R88). -/
def tokenBytes (scale : Word) (zp : Nat) (s8 : Bool) : List Byte :=
  leBytes 8 (scale.toNat + zp * 2 ^ 32 + (if s8 then 2 ^ 40 else 0))

end Sys2Proof.Machine
end

