-- ==== Sys2Proof/Machine/Vector.lean ====
section
/-! DEFINITION. The vector engine: the operations of R188 (R92 to R96, R106 to R117, R147, R148, R155, R162, R183,
R186 to R191, R453). A step reads all its operands before it writes its results (notes/assumptions/17.md). -/

namespace Sys2Proof.Machine

/-! ## Fields and formats -/

/-- `VOP` (R183). -/
def vopOf (w : BitVec 128) : Nat := fld w 12 6
/-- `SF`. -/
def vSF (w : BitVec 128) : Nat := fld w 18 4
/-- `DF`. -/
def vDF (w : BitVec 128) : Nat := fld w 22 4
/-- `LEN`. -/
def vLen (w : BitVec 128) : Nat := fld w 26 16
/-- `IMM` as an integer. -/
def vImm (w : BitVec 128) : Nat := fld w 102 16
/-- `IMM` as a BF16 value. -/
def vImmF (w : BitVec 128) : Word := ofBf16 (BitVec.ofNat 16 (vImm w))
/-- Operand a. -/
def vA (x : Strand) (w : BitVec 128) : Opnd := spadOpnd x (fld w 42 20)
/-- Operand b, which may be none. -/
def vB (x : Strand) (w : BitVec 128) : Opnd := spadOpndOpt x (fld w 62 20)
/-- Operand d. -/
def vD (x : Strand) (w : BitVec 128) : Opnd := spadOpnd x (fld w 82 20)
/-- The register operand `AUX`, which may be none. -/
def vAux (x : Strand) (w : BitVec 128) : Opnd := (regSpad x (fld w 118 4)).getD .none_
/-- Bit `i` of `FLAGS`. -/
def vFlag (w : BitVec 128) (i : Nat) : Bool := flag w (122 + i)

/-- Element size of formats U8A, S8, BF16 and FP32 (R82). -/
def eltSize (f : Nat) : Nat := if f = 3 then 4 else if f = 2 then 2 else 1
/-- U8A, S8, BF16 or FP32. -/
def anyFmt (f : Nat) : Bool := decide (f < 4)
/-- BF16 or FP32. -/
def floatFmt (f : Nat) : Bool := f == 2 || f == 3

/-- The elements of a byte string, widened to FP32 (R186, R453). -/
def elements (f n : Nat) (b : List Byte) : List Word :=
  (List.range n).map fun i =>
    let v := fieldAt b (i * eltSize f) (eltSize f)
    if f = 3 then BitVec.ofNat 32 v
    else if f = 2 then ofBf16 (BitVec.ofNat 16 v)
    else if f = 1 then fofInt (signedOf 8 v)
    else fofInt v

/-- A result converted to the destination format, widened again, with the status bits of the conversion (R86, R190). -/
def convElt (f : Nat) (v : Word) : List Byte × FR :=
  if f = 2 then
    let h := toBf16 v
    (leBytes 2 h.toNat, ofBf16 h, if isInf (ofBf16 h) && !nonfinite v then 1 else 0)
  else (leBytes 4 (fclean v).toNat, fclean v, 0)

/-- Results of a step packed in format `f`: the bytes, the widened values, and the status bits. -/
def packElts (f : Nat) (l : List FR) : List Byte × List Word × BitVec 3 :=
  let c := l.map fun r => convElt f r.1
  (c.flatMap (·.1), c.map (·.2.1), (l.zip c).foldl (fun a e => a ||| e.1.2 ||| e.2.2.2) 0)

/-! ## Plans -/

/-- Reads the bytes of an operand. -/
abbrev Rd := Opnd → Nat → List Byte

/-- What a vector operation produces: a status found while it runs, its writes in order, status bits for
`TILE_VEC_STATUS` and `TILE_QUANT_STATUS`, and bytes to invalidate. -/
structure VRes where
  st     : Nat := 0
  writes : List (Opnd × List Byte) := []
  vec    : BitVec 3 := 0
  quant  : BitVec 3 := 0
  inval  : Option (Opnd × Nat) := none
deriving DecidableEq, Repr

/-- How a vector operation proceeds (R190): the number of results it computes one after another, what it reads before the first of them,
what it reads for each, and what it reads for each where what it has read names it. -/
structure VSteps where
  count : Nat
  pre   : List Access := []
  reads : Nat → List Access
  named : Rd → Nat → List Access := fun _ _ => []

/-- A vector operation: its accesses, those that depend on what it has read (with checks of their own), its other checks
at issue, and its result when it has computed the first `m` of its `steps`; without them it computes its result as a whole. -/
structure VPlan where
  accs   : List Access
  checks : List Nat := []
  more   : Rd → List Access × List Nat := fun _ => ([], [])
  run    : Rd → Nat → VRes
  steps  : Option VSteps := none

/-- The number of results of a plan; 1 for one computed as a whole. -/
def VPlan.count (pl : VPlan) : Nat := (pl.steps.map (·.count)).getD 1

/-- The flags a vector operation leaves, and the NONFINITE log entry of its task (R94, R190). -/
def State.vecFlags (s : State) (p k : Nat) (r : VRes) : State :=
  let s1 := s.modTile p fun t => (t.vecFlag k r.vec).quantFlag k r.quant
  if r.quant.getLsbD 0 && !(s.strand p k).nonfin then
    (s1.logEv (srcTile p) .nonfinite 0 (some (s.tagOf (s.strand p k))) none).modStrand p k fun x => { x with nonfin := true }
  else s1

/-- Clear the valid bits of `n` bytes of an operand (R162). -/
def State.invalidate (s : State) (p k : Nat) (o : Opnd) (n : Nat) : State :=
  match o.abs (s.strand p k).base with
  | none => s
  | some off => s.modTile p fun t => { t with
      valid := (wordsOf off n).foldl NSet.del t.valid
      mem := Mem.write 0 t.mem off (List.replicate n 0)
      ecc := (wordsOf off n).foldl Tab.drop t.ecc }

/-- Put the results of a vector operation in place. -/
def State.vecApply (s : State) (p k : Nat) (r : VRes) : State × Nat :=
  let w := (s.vecFlags p k r).opWrites p k r.writes
  match r.inval with
  | some (o, n) => (w.1.invalidate p k o n, w.2)
  | none => w

/-- One of the accesses meets a poisoned word. -/
def Tile.poisonedAt (t : Tile) (base : Nat) (l : List Access) : Bool :=
  l.any fun a => match a.o.abs base with
    | some off => t.poisonedIn off a.len
    | none => false

/-- The results computed before a read meets a poisoned word (R190); none when a read before the first of them does. -/
def VSteps.before (v : VSteps) (t : Tile) (base : Nat) (rd : Rd) : Option Nat :=
  if t.poisonedAt base v.pre then none
  else some (((List.range v.count).takeWhile fun i => !t.poisonedAt base (v.reads i ++ v.named rd i)).length)

/-- A word of the writes is refused (R219, R368). -/
def State.refuses (s : State) (p k : Nat) (ws : List (Opnd × List Byte)) : Bool :=
  ws.any fun w => match w.1.abs (s.strand p k).base with
    | some off => (groupWords (bytesAt off w.2)).any fun g => s.wordRefusal p (some (s.me p)) g != 0
    | none => false

/-- Issue of a vector operation (R165, R183, R190). A status raised while it runs, by a poisoned word it reads or a write that is refused,
leaves the results it computed until then, with their status bits. -/
def vopBody (p k : Nat) (plan : Strand → BitVec 128 → VPlan) (e : LogEnt) (_ : Bool) (s0 : State) : Issued :=
  let w := e.word
  let x := s0.strand p k
  let pl := plan x w
  let rd := fun (s : State) (o : Opnd) (n : Nat) => (s.tile p).opBytes x.base o n
  let stop := fun (st : Nat) (s : State) =>
    match (if st = 0x01 then pl.steps.bind fun v => v.before (s.tile p) x.base (rd s) else none) with
    | some m => Issued.stop st ((s.endPass p k).vecApply p k (pl.run (rd s) m)).1
    | none => .stop st (s.endPass p k)
  match s0.prep p k e pl.accs (need (vLen w != 0) 0x0B :: pl.checks) with
  | .bad st s => stop st s
  | .hold s => .wait .none_ s
  | .ok s1 =>
    let m := pl.more (rd s1)
    match s1.prep p k e m.1 m.2 with
    | .bad st s => stop st s
    | .hold s => .wait .none_ s
    | .ok s2 =>
      let m := ((List.range pl.count).find? fun i => s2.refuses p k (pl.run (rd s2) (i + 1)).writes).elim pl.count (· + 1)
      let r := pl.run (rd s2) m
      if r.st ≠ 0 then .stop r.st ((s2.endPass p k).vecFlags p k { r with writes := [] })
      else
        let a := (s2.endPass p k).vecApply p k r
        if a.2 ≠ 0 then .stop a.2 a.1
        else .go (a.1.pushUnit p 3 { strand := k, uid := x.uid, ent := e })

/-! ## Element-by-element operations -/

/-- An operation on a, b and d element by element. `useB`, `useD`: b and d are read; b is a scalar when `FLAGS`[0] is set
(R183). -/
def elemPlan (useB useD : Bool) (f : Word → Word → Word → Word → FR) (x : Strand) (w : BitVec 128) : VPlan :=
  let n := vLen w
  let es := eltSize (vSF w)
  let ed := eltSize (vDF w)
  let bc := vFlag w 0
  let nb := if bc then 1 else n
  let a := vA x w
  let b := vB x w
  let d := vD x w
  { accs := [{ o := a, len := n * es }] ++ (if useB then [{ o := b, len := nb * es }] else [])
      ++ (if useD then [{ o := d, len := n * ed }] else []) ++ [{ o := d, len := n * ed, write := true }]
    checks := [need (anyFmt (vSF w) && floatFmt (vDF w)) 0x0B]
    run := fun rd m =>
      let xa := elements (vSF w) n (rd a (n * es))
      let xb := if useB then elements (vSF w) nb (rd b (nb * es)) else []
      let xd := if useD then elements (vDF w) n (rd d (n * ed)) else []
      let r := packElts (vDF w) ((List.range m).map fun i =>
        f (xa.getD i 0) (xb.getD (if bc then 0 else i) 0) (xd.getD i 0) (vImmF w))
      { writes := [(d, r.1)], vec := r.2.2 }
    steps := some { count := n, reads := fun i =>
      [a.piece (i * es) es false] ++ (if useB then [b.piece (if bc then 0 else i * es) es false] else [])
        ++ (if useD then [d.piece (i * ed) ed false] else []) } }

/-- An operation on a alone. -/
def unaryPlan (f : Word → FR) : Strand → BitVec 128 → VPlan := elemPlan false false fun a _ _ _ => f a
/-- An operation on a and b. -/
def binaryPlan (f : Word → Word → FR) : Strand → BitVec 128 → VPlan := elemPlan true false fun a b _ _ => f a b

/-- b × f(a), each product rounding once. -/
def derivElt (f : Word → Word) (a b : Word) : FR := (unaryR f a).andThen fun r => mulR b r

/-- Raw 32-bit words of a byte string. -/
def rawWords (n : Nat) (b : List Byte) : List Word := (List.range n).map fun i => BitVec.ofNat 32 (fieldAt b (4 * i) 4)
/-- Words as bytes. -/
def wordBytes (l : List Word) : List Byte := l.flatMap fun v => leBytes 4 v.toNat

/-- IADD: s32 a + b modulo 2^32. -/
def iaddPlan (x : Strand) (w : BitVec 128) : VPlan :=
  let n := vLen w
  let bc := vFlag w 0
  let nb := if bc then 1 else n
  let a := vA x w
  let b := vB x w
  { accs := [{ o := a, len := 4 * n }, { o := b, len := 4 * nb }, { o := vD x w, len := 4 * n, write := true }]
    run := fun rd m =>
      let xa := rawWords n (rd a (4 * n))
      let xb := rawWords nb (rd b (4 * nb))
      { writes := [(vD x w, wordBytes ((List.range m).map fun i => xa.getD i 0 + xb.getD (if bc then 0 else i) 0))] }
    steps := some { count := n, reads := fun i => [a.piece (4 * i) 4 false, b.piece (if bc then 0 else 4 * i) 4 false] } }

/-! ## Reductions -/

/-- A reduction of n elements of a, and of b where `useB`, to one FP32 at d. `prods`: the products it computes one after another before
their sum, if it has any. -/
def reducePlan (useB : Bool) (prods : Option (List Word → List Word → List FR)) (f : List Word → List Word → FR) (x : Strand)
    (w : BitVec 128) : VPlan :=
  let n := vLen w
  let es := eltSize (vSF w)
  let bc := vFlag w 0
  let nb := if bc then 1 else n
  { accs := [{ o := vA x w, len := n * es }] ++ (if useB then [{ o := vB x w, len := nb * es }] else [])
      ++ [{ o := vD x w, len := 4, write := true }]
    checks := [need (anyFmt (vSF w)) 0x0B]
    run := fun rd m =>
      let xa := elements (vSF w) n (rd (vA x w) (n * es))
      let xb := if useB then elements (vSF w) nb (rd (vB x w) (nb * es)) else []
      let ys := if bc then List.replicate n (xb.getD 0 0) else xb
      match prods with
      | some g =>
        if m < n then { vec := orFlags ((g xa ys).take m) }
        else { writes := [(vD x w, leBytes 4 (f xa ys).1.toNat)], vec := (f xa ys).2 }
      | none => { writes := [(vD x w, leBytes 4 (f xa ys).1.toNat)], vec := (f xa ys).2 }
    steps := prods.map fun _ => { count := n, reads := fun i =>
      [(vA x w).piece (i * es) es false] ++ (if useB then [(vB x w).piece (if bc then 0 else i * es) es false] else []) } }

/-- The products of two vectors, each rounded once. -/
def dotProds (a b : List Word) : List FR := (a.zip b).map fun e => mulR e.1 e.2

/-- Canonical sum of products, with the status bits of the products (R147). -/
def dotR (a b : List Word) : FR :=
  let ps := dotProds a b
  let r := canonSum (ps.map (·.1))
  (r.1, r.2 ||| orFlags ps)

/-- ODOT (R108): a is one side vector, b n rows of outlier weights. -/
def odotPlan (x : Strand) (w : BitVec 128) : VPlan :=
  let n := vLen w
  { accs := [{ o := vA x w, len := 128 }, { o := vB x w, len := 128 * n }, { o := vD x w, len := 4 * n, write := true }]
    run := fun rd m =>
      let xo := elements 2 64 (rd (vA x w) 128)
      let wb := rd (vB x w) (128 * n)
      let r := (List.range m).map fun j => outlierSum xo (elements 2 64 (slice wb (128 * j) 128))
      { writes := [(vD x w, wordBytes (r.map (·.1)))], vec := orFlags r }
    steps := some { count := n, pre := [(vA x w).piece 0 128 false], reads := fun j => [(vB x w).piece (128 * j) 128 false] } }

/-- `IMM` is 2, 4 or 8. -/
def partsOk (w : BitVec 128) : Bool := vImm w == 2 || vImm w == 4 || vImm w == 8

/-- FCOMB (R148): value j of part p is the FP32 at a + 4 × (n × p + j). -/
def fcombPlan (x : Strand) (w : BitVec 128) : VPlan :=
  let n := vLen w
  let m := vImm w
  { accs := [{ o := vA x w, len := 4 * n * m }, { o := vD x w, len := 4 * n, write := true }]
    checks := [need (partsOk w) 0x0B]
    run := fun rd c =>
      let v := rawWords (n * m) (rd (vA x w) (4 * n * m))
      let r := (List.range c).map fun j => combineParts ((List.range m).map fun q => v.getD (n * q + j) 0)
      { writes := [(vD x w, wordBytes (r.map (·.1)))], vec := orFlags r }
    steps := some { count := n, reads := fun j => (List.range m).map fun q => (vA x w).piece (4 * (n * q + j)) 4 false } }

/-! ## Side records -/

/-- A side record as read (R153). -/
structure SideRec where
  mx    : Word
  sum   : Word
  sumsq : Word
  rows  : Nat
  shift : Nat
  nonf  : Bool
  clamp : Bool
  resv  : Nat
deriving DecidableEq, Repr

/-- Read a side record's 16 bytes. -/
def sideOf (b : List Byte) : SideRec :=
  let hi := fieldAt b 14 2
  { mx := BitVec.ofNat 32 (fieldAt b 0 4), sum := BitVec.ofNat 32 (fieldAt b 4 4), sumsq := BitVec.ofNat 32 (fieldAt b 8 4)
    rows := fieldAt b 12 2, shift := hi % 4, nonf := hi.testBit 2, clamp := hi.testBit 3, resv := hi / 16 }

/-- Side records combined in part order (R155). -/
def sideCombine (l : List SideRec) : List Byte × BitVec 3 :=
  let sm := combineParts (l.map (·.sum))
  let sq := combineParts (l.map (·.sumsq))
  let mx := if l.any fun r => isNan r.mx then qnan else maxOf (l.map (·.mx))
  let hi := (l.map (·.shift)).foldl max 0 + (if l.any (·.nonf) then 4 else 0) + (if l.any (·.clamp) then 8 else 0)
  (leBytes 4 mx.toNat ++ leBytes 4 sm.1.toNat ++ leBytes 4 sq.1.toNat
    ++ leBytes 2 ((l.map (·.rows)).foldl (· + ·) 0) ++ leBytes 2 hi, sm.2 ||| sq.2)

/-- STATCMB (R155): `IMM` side records 16 bytes apart. -/
def statcmbPlan (x : Strand) (w : BitVec 128) : VPlan :=
  let m := vImm w
  { accs := [{ o := vA x w, len := 16 * m }, { o := vD x w, len := 16, write := true }]
    checks := [need (partsOk w) 0x0B]
    run := fun rd _ =>
      let b := rd (vA x w) (16 * m)
      let l := (List.range m).map fun i => sideOf (slice b (16 * i) 16)
      let r := sideCombine l
      if l.any fun y => y.resv != 0 then { st := 0x0B } else { writes := [(vD x w, r.1)], vec := r.2 } }

/-- An operation over a, b and the side record at `AUX`; `side`: a side record of the results follows them (R188, R182). -/
def sidePlan (useB side : Bool) (f : SideRec → BitVec 128 → List Word → List Word → List FR × BitVec 3)
    (x : Strand) (w : BitVec 128) : VPlan :=
  let n := vLen w
  let es := eltSize (vSF w)
  let ed := eltSize (vDF w)
  let d := vD x w
  let so := match d with
    | .spad off => Opnd.spad (up64 (off + n * ed))
    | .pstore off => .pstore (up64 (off + n * ed))
    | .none_ => .none_
  { accs := [{ o := vA x w, len := n * es }] ++ (if useB then [{ o := vB x w, len := n * es }] else [])
      ++ [{ o := d, len := n * ed, write := true }, { o := vAux x w, len := 16 }]
      ++ (if side then [{ o := so, len := 16, write := true, cap := d.off }] else [])
    checks := [need (anyFmt (vSF w) && floatFmt (vDF w)) 0x0B]
    steps := some { count := n, pre := [(vAux x w).piece 0 16 false], reads := fun i =>
      [(vA x w).piece (i * es) es false] ++ (if useB then [(vB x w).piece (i * es) es false] else []) }
    run := fun rd m =>
      let sr := sideOf (rd (vAux x w) 16)
      let xa := elements (vSF w) n (rd (vA x w) (n * es))
      let xb := if useB then elements (vSF w) n (rd (vB x w) (n * es)) else []
      let l := f sr w xa xb
      let r := packElts (vDF w) (l.1.take m)
      let sf := (canonSum r.2.1).2 ||| (dotR r.2.1 r.2.1).2
      if sr.resv ≠ 0 then { st := 0x0B }
      else if m = 0 then {}
      else if side ∧ m = n then { writes := [(d, r.1), (so, sideRecord r.2.1 n 1 0 false)], vec := l.2 ||| r.2.2 ||| sf }
      else { writes := [(d, r.1)], vec := l.2 ||| r.2.2 } }

/-- The pairs of ROPE. -/
def ropePairs : List Word → List Word → List FR
  | a0 :: a1 :: ta, c :: sn :: tb =>
    (let q := mulR a1 sn; let r := fmaR a0 c (fneg q.1); ((r.1, r.2 ||| q.2) : FR))
      :: (let q := mulR a1 c; let r := fmaR a0 sn q.1; ((r.1, r.2 ||| q.2) : FR)) :: ropePairs ta tb
  | _, _ => []

/-- ROPE. `LEN` must be even. -/
def ropePlan (x : Strand) (w : BitVec 128) : VPlan :=
  let n := vLen w
  let es := eltSize (vSF w)
  { accs := [{ o := vA x w, len := n * es }, { o := vB x w, len := n * es }
            , { o := vD x w, len := n * eltSize (vDF w), write := true }]
    checks := [need (anyFmt (vSF w) && floatFmt (vDF w) && n % 2 == 0) 0x0B]
    run := fun rd m =>
      let r := packElts (vDF w)
        ((ropePairs (elements (vSF w) n (rd (vA x w) (n * es))) (elements (vSF w) n (rd (vB x w) (n * es)))).take (2 * m))
      { writes := [(vD x w, r.1)], vec := r.2.2 }
    steps := some { count := n / 2, reads := fun i => [(vA x w).piece (2 * i * es) (2 * es) false, (vB x w).piece (2 * i * es) (2 * es) false] } }

/-! ## Quantise operations -/

/-- QU8A and QS8 (R92 to R96, R106): one token into the activation block at d. Each writes the padding of the record array too
(notes/assumptions/60.md). -/
def quantPlan (s8 : Bool) (x : Strand) (w : BitVec 128) : VPlan :=
  let n := vLen w
  let es := eltSize (vSF w)
  let d := vD x w
  let tt := fld w 122 6 + 1
  let tok := vImm w
  let wd := up64 n
  let mo := vAux x w
  let hasMap := mo != .none_
  let mapOf := fun (rd : Rd) => if hasMap then outlierMap (rd mo 256) n else some ([], 0)
  let sides := tt * wd + up64 (8 * tt)
  let padding := up64 (8 * tt) - 8 * tt
  { accs := [{ o := vA x w, len := n * es }, { o := d, len := 0, align := 64 }, d.piece (tok * wd) wd true,
             d.piece (tt * wd + 8 * tok) 8 true, d.piece (tt * wd + 8 * tt) padding true] ++ (if hasMap then [{ o := mo, len := 256, align := 64 }] else [])
    checks := [need (floatFmt (vSF w)) 0x0B, need (decide (tok < tt)) 0x0B]
    more := fun rd => match mapOf rd with
      | none => ([], [0x0B])
      | some (l, _) => (if l.isEmpty then [] else [d.piece (sides + 128 * tok) 128 true], [])
    run := fun rd _ =>
      let ch := ((mapOf rd).getD ([], 0)).1
      let v := elements (vSF w) n (rd (vA x w) (n * es))
      let r := if s8 then quantSym 127 v ch else quantAsym 255 v ch
      let side := (List.range 64).flatMap fun i =>
        leBytes 2 (match ch[i]? with | some c => (toBf16 (v.getD c 0)).toNat | none => 0)
      { writes := [(d.plus (tok * wd), r.q.map codeByte ++ List.replicate (wd - n) 0),
                   (d.plus (tt * wd + 8 * tok), tokenBytes r.scale r.zp s8),
                   (d.plus (tt * wd + 8 * tt), List.replicate padding 0)]
                  ++ (if ch.isEmpty then [] else [(d.plus (sides + 128 * tok), side)])
        quant := r.flags } }

/-- `DF` is K4 or K8 and `LEN` is 128 (R188). -/
def kvOk (w : BitVec 128) : Bool := (vDF w == 11 || vDF w == 12) && vLen w == 128 && floatFmt (vSF w)
/-- Planes of a cache entry in one set or row block. -/
def kvPlanes (w : BitVec 128) : Nat := if vDF w = 12 then 8 else 4

/-- The 8 index bytes of one row of a BP4 index block, plane `pl` of set `q` (R51, R100). -/
def planeRow (codes : List Int) (q pl : Nat) : Nat :=
  ((List.range 64).map fun c => if ((codes.getD (64 * q + c) 0).toNat).testBit pl then 2 ^ c else 0).foldl (· + ·) 0

/-- KAPP (R109, R110): one key as position `IMM` of the key block at d, its row record in the array at `AUX`. -/
def kappPlan (x : Strand) (w : BitVec 128) : VPlan :=
  let n := vLen w
  let es := eltSize (vSF w)
  let np := kvPlanes w
  let pos := vImm w
  let d := vD x w
  let at_ := fun i => i * 256 + 8 * pos
  { accs := [{ o := vA x w, len := n * es }] ++ ((List.range (2 * np)).map fun i => d.piece (at_ i) 8 true)
      ++ [{ o := vAux x w, len := 0, align := 8 }, (vAux x w).piece (8 * pos) 8 true]
    checks := [need (kvOk w) 0x0B, need (decide (pos < 32)) 0x0B]
    run := fun rd _ =>
      let r := quantAsym (if np = 8 then 255 else 15) (elements (vSF w) n (rd (vA x w) (n * es))) []
      { writes := ((List.range (2 * np)).map fun i => (d.plus (at_ i), leBytes 8 (planeRow r.q (i / np) (i % np))))
                  ++ [((vAux x w).plus (8 * pos), RowRec.bytes r.scale r.zp 0)]
        quant := r.flags } }

/-- VAPP (R112, R113): one value as position `IMM` of the value block at d, its position scale in the array at `AUX`. -/
def vappPlan (x : Strand) (w : BitVec 128) : VPlan :=
  let n := vLen w
  let es := eltSize (vSF w)
  let np := kvPlanes w
  let pos := vImm w
  let d := vD x w
  let bit := pos % 8
  let lo := pos / 8
  let size := (4 * np - 1) * 256 + 8 * 31 + 1
  { accs := [{ o := vA x w, len := n * es }, d.piece lo size false, d.piece lo size true, (vAux x w).piece (4 * pos) 4 true]
    checks := [need (kvOk w) 0x0B, need (decide (pos < 64)) 0x0B]
    run := fun rd _ =>
      let off : Int := if np = 8 then 128 else 8
      let r := quantSym (if np = 8 then 127 else 7) (elements (vSF w) n (rd (vA x w) (n * es))) []
      { writes := ((List.range 128).flatMap fun row => (List.range np).map fun pl =>
            let o := (row / 32 * np + pl) * 256 + 8 * (row % 32) + lo
            let old := leNat (rd (d.plus o) 1)
            let one := ((r.q.getD row 0) + off).toNat.testBit pl
            let kept := old - (if old.testBit bit then 2 ^ bit else 0)
            (d.plus o, leBytes 1 (kept + if one then 2 ^ bit else 0)))
          ++ [((vAux x w).plus (4 * pos), leBytes 4 r.scale.toNat)]
        quant := r.flags } }

/-- QG8 and QM8 (R115 to R117): `IMM` rows of n elements, dense at a; rows at d, ⌈n ÷ 64⌉ × 64 apart. -/
def rowQuantPlan (m8 : Bool) (x : Strand) (w : BitVec 128) : VPlan :=
  let n := vLen w
  let es := eltSize (vSF w)
  let m := vImm w
  let wd := up64 n
  let root := m8 && vFlag w 1
  let d := vD x w
  { accs := [{ o := vA x w, len := m * n * es }, { o := d, len := m * wd, write := true },
             { o := vAux x w, len := 8 * m, align := 8, write := true }]
    checks := [need (floatFmt (vSF w)) 0x0B]
    run := fun rd c =>
      let b := rd (vA x w) (m * n * es)
      let rs := (List.range c).map fun j =>
        let v := elements (vSF w) n (slice b (j * n * es) (n * es))
        if root then quantRoot v else quantSym 127 v []
      { writes := (rs.zipIdx.map fun e => (d.plus (e.2 * wd), e.1.q.map codeByte ++ List.replicate (wd - n) 0))
                  ++ rs.zipIdx.map fun e => ((vAux x w).plus (8 * e.2), RowRec.bytes e.1.scale 0 (if root then 1 else 0))
        quant := rs.foldl (fun a r => a ||| r.flags) 0 }
    steps := some { count := m, reads := fun j => [(vA x w).piece (j * n * es) (n * es) false] } }

/-! ## Selections -/

/-- Pair `a` ranks before pair `b`: descending value, then ascending index; NaN below every number; padding pairs last
when `pad` (R188). -/
def rankBefore (pad : Bool) (a b : Word × Nat) : Bool :=
  let isPad := fun (q : Word × Nat) => pad && isNan q.1 && q.2 == 0xFFFFFFFF
  if isPad a then false
  else if isPad b then true
  else if isNan a.1 then isNan b.1 && decide (a.2 < b.2)
  else if isNan b.1 then true
  else if flt b.1 a.1 then true
  else if flt a.1 b.1 then false
  else decide (a.2 < b.2)

/-- Insert before the first pair that ranks strictly after; pairs of equal rank keep their order. -/
def rankInsert (pad : Bool) (q : Word × Nat) : List (Word × Nat) → List (Word × Nat)
  | [] => [q]
  | h :: t => if rankBefore pad q h then q :: h :: t else h :: rankInsert pad q t

/-- Pairs in rank order. -/
def rankSort (pad : Bool) (l : List (Word × Nat)) : List (Word × Nat) := l.foldl (fun a q => rankInsert pad q a) []

/-- Pairs as bytes. -/
def pairBytes (l : List (Word × Nat)) : List Byte := l.flatMap fun q => leBytes 4 q.1.toNat ++ leBytes 4 q.2

/-- `IMM` from 1 to 64. -/
def kOk (w : BitVec 128) : Bool := decide (1 ≤ vImm w) && decide (vImm w ≤ 64)

/-- TOPK. -/
def topkPlan (x : Strand) (w : BitVec 128) : VPlan :=
  let n := vLen w
  let m := vImm w
  let es := eltSize (vSF w)
  { accs := [{ o := vA x w, len := n * es }, { o := vD x w, len := 8 * m, write := true }]
    checks := [need (anyFmt (vSF w)) 0x0B, need (kOk w) 0x0B]
    run := fun rd _ =>
      let v := (elements (vSF w) n (rd (vA x w) (n * es))).map fclean
      let l := (rankSort false v.zipIdx).take m
      { writes := [(vD x w, pairBytes (l ++ List.replicate (m - l.length) (qnan, 0xFFFFFFFF)))] } }

/-- The pairs of a list in memory. -/
def pairsOf (m : Nat) (b : List Byte) : List (Word × Nat) :=
  (List.range m).map fun i => (fclean (BitVec.ofNat 32 (fieldAt b (8 * i) 4)), fieldAt b (8 * i + 4) 4)

/-- TOPKM. -/
def topkmPlan (x : Strand) (w : BitVec 128) : VPlan :=
  let m := vImm w
  { accs := [{ o := vA x w, len := 8 * m }, { o := vB x w, len := 8 * m }, { o := vD x w, len := 8 * m, write := true }]
    checks := [need (kOk w) 0x0B]
    run := fun rd _ =>
      { writes := [(vD x w, pairBytes
          ((rankSort true (pairsOf m (rd (vA x w) (8 * m)) ++ pairsOf m (rd (vB x w) (8 * m)))).take m))] } }

/-- ARGMAX. -/
def argmaxPlan (x : Strand) (w : BitVec 128) : VPlan :=
  let n := vLen w
  let es := eltSize (vSF w)
  { accs := [{ o := vA x w, len := n * es }, { o := vD x w, len := 4, write := true }]
    checks := [need (anyFmt (vSF w)) 0x0B]
    run := fun rd _ =>
      let v := elements (vSF w) n (rd (vA x w) (n * es))
      let best := v.zipIdx.foldl (fun (a : Option (Word × Nat)) q => match a with
        | none => some q
        | some b => if rankBefore false q b then some q else some b) none
      { writes := [(vD x w, leBytes 4 ((best.map (·.2)).getD 0))] } }

/-! ## Moves -/

/-- GATHER: row j of 64 × `IMM` bytes from a + index × 64 × `IMM`; each source row is checked under R165. -/
def gatherPlan (x : Strand) (w : BitVec 128) : VPlan :=
  let n := vLen w
  let sz := 64 * vImm w
  let rows := fun (rd : Rd) =>
    let b := rd (vB x w) (4 * n)
    (List.range n).map fun j => fieldAt b (4 * j) 4 * sz
  { accs := [{ o := vA x w, len := 0 }, { o := vB x w, len := 4 * n }, { o := vD x w, len := n * sz, write := true }]
    more := fun rd => ((rows rd).map fun o => (vA x w).piece o sz false, [])
    run := fun rd _ => { writes := (rows rd).zipIdx.map fun e => ((vD x w).plus (e.2 * sz), rd ((vA x w).plus e.1) sz) } }

/-- FILL: `IMM` converted to `DF`. -/
def fillPlan (x : Strand) (w : BitVec 128) : VPlan :=
  let n := vLen w
  { accs := [{ o := vD x w, len := n * eltSize (vDF w), write := true }]
    checks := [need (floatFmt (vDF w)) 0x0B]
    run := fun _ _ => { writes := [(vD x w, (packElts (vDF w) (List.replicate n (vImmF w, 0))).1)] } }

/-- INVAL: clears the valid bits of n × 64 bytes at d (R162). -/
def invalPlan (x : Strand) (w : BitVec 128) : VPlan :=
  { accs := [{ o := vD x w, len := 64 * vLen w, write := true }]
    run := fun _ _ => { inval := some (vD x w, 64 * vLen w) } }

/-! ## Matrix operations -/

/-- MATVEC: d[j] = canonical sum of rne(a[i] × b[j × n + i]) for j below `IMM`. -/
def matvecPlan (x : Strand) (w : BitVec 128) : VPlan :=
  let n := vLen w
  let m := vImm w
  let es := eltSize (vSF w)
  { accs := [{ o := vA x w, len := n * es }, { o := vB x w, len := m * n * es },
             { o := vD x w, len := m * eltSize (vDF w), write := true }]
    checks := [need (floatFmt (vSF w) && floatFmt (vDF w)) 0x0B]
    run := fun rd c =>
      let xa := elements (vSF w) n (rd (vA x w) (n * es))
      let xb := elements (vSF w) (m * n) (rd (vB x w) (m * n * es))
      let r := packElts (vDF w) ((List.range c).map fun j => dotR xa ((xb.drop (j * n)).take n))
      { writes := [(vD x w, r.1)], vec := r.2.2 }
    steps := some { count := m, pre := [(vA x w).piece 0 (n * es) false], reads := fun j => [(vB x w).piece (j * n * es) (n * es) false] } }

/-- OUTER: d[j × n + i] = rne(d[j × n + i] + rne(a[j] × b[i])). -/
def outerPlan (x : Strand) (w : BitVec 128) : VPlan :=
  let n := vLen w
  let m := vImm w
  let es := eltSize (vSF w)
  let len := m * n * eltSize (vDF w)
  { accs := [{ o := vA x w, len := m * es }, { o := vB x w, len := n * es }, { o := vD x w, len := len },
             { o := vD x w, len := len, write := true }]
    checks := [need (floatFmt (vSF w) && floatFmt (vDF w)) 0x0B]
    run := fun rd c =>
      let xa := elements (vSF w) m (rd (vA x w) (m * es))
      let xb := elements (vSF w) n (rd (vB x w) (n * es))
      let xd := elements (vDF w) (m * n) (rd (vD x w) len)
      let r := packElts (vDF w) ((List.range c).map fun i =>
        (mulR (xa.getD (i / n) 0) (xb.getD (i % n) 0)).andThen fun q => addR (xd.getD i 0) q)
      { writes := [(vD x w, r.1)], vec := r.2.2 }
    steps := some { count := m * n, reads := fun i =>
      [(vA x w).piece (i / n * es) es false, (vB x w).piece (i % n * es) es false,
       (vD x w).piece (i * eltSize (vDF w)) (eltSize (vDF w)) false] } }

/-! ## Optimiser -/

/-- One element of ADAMW (R191): the new weight, first and second moment, and the status bits. `h` holds the nine FP32
values of the hyperparameter record. -/
def adamwElt (h : List Word) (g m v wt : Word) : Word × Word × Word × BitVec 3 :=
  let hp := fun i => h.getD i 0
  let a := mulR (hp 1) m
  let b := mulR (hp 2) g
  let m' := addR a.1 b.1
  let g2 := mulR g g
  let c := mulR (hp 3) v
  let d := mulR (hp 4) g2.1
  let v' := addR c.1 d.1
  let mc := mulR m'.1 (hp 7)
  let vc := mulR v'.1 (hp 8)
  let q := sqrtR vc.1
  let den := addR q.1 (hp 5)
  let u := divR mc.1 den.1
  let wd := mulR (hp 6) wt
  let us := addR u.1 wd.1
  let st := mulR (hp 0) us.1
  let w' := subR wt st.1
  (w'.1, m'.1, v'.1, orFlags [a, b, m', g2, c, d, v', mc, vc, q, den, u, wd, us, st, w'])

/-- ADAMW (R191): G8 gradient rows at a, FP32 weight rows at b, first-moment rows at d and second-moment rows behind
them, row records at the three offsets of the hyperparameter record. -/
def adamwPlan (x : Strand) (w : BitVec 128) : VPlan :=
  let n := vLen w
  let m := vImm w
  let wd := up64 n
  let d := vD x w
  let hrec := vAux x w
  let offs := fun (rd : Rd) (i : Nat) => Opnd.spad (fieldAt (rd hrec 48) (36 + 4 * i) 4)
  let recs := fun (rd : Rd) (i : Nat) => (List.range m).map fun j => rowRecord (rd ((offs rd i).plus (8 * j)) 8)
  { accs := [{ o := vA x w, len := m * wd }, { o := vB x w, len := 4 * m * n }, { o := vB x w, len := 4 * m * n, write := true },
             { o := d, len := 2 * m * wd }, { o := d, len := 2 * m * wd, write := true }, { o := hrec, len := 48 }]
    more := fun rd =>
      ([{ o := offs rd 0, len := 8 * m, align := 8 }, { o := offs rd 1, len := 8 * m, align := 8 },
        { o := offs rd 1, len := 8 * m, write := true }, { o := offs rd 2, len := 8 * m, align := 8 },
        { o := offs rd 2, len := 8 * m, write := true }], [])
    steps := some { count := m * n, pre := [hrec.piece 0 48 false], reads := fun i =>
      let j := i / n
      [(vA x w).piece (j * wd + i % n) 1 false, d.piece (j * wd + i % n) 1 false, d.piece (m * wd + j * wd + i % n) 1 false,
       (vB x w).piece (4 * i) 4 false]
                    named := fun rd i => (List.range 3).map fun q => (offs rd q).piece (8 * (i / n)) 8 false }
    run := fun rd c =>
      let hb := rd hrec 48
      let h := rawWords 9 hb
      let rg := recs rd 0
      let rm := recs rd 1
      let rv := recs rd 2
      if !(rg.all (·.ok 13) && rm.all (·.ok 14) && rv.all (·.ok 14)) then { st := 0x0B, quant := 4 }
      else
        let row := fun j =>
          let gq := rd ((vA x w).plus (j * wd)) n
          let mq := rd (d.plus (j * wd)) n
          let vq := rd (d.plus (m * wd + j * wd)) n
          let wt := rawWords n (rd ((vB x w).plus (4 * j * n)) (4 * n))
          let sc := fun (l : List RowRec) => ((l[j]?).map (·.scale)).getD 0
          let els := (List.range n).map fun i =>
            let g := mulR (sc rg) (fofInt (gq.getD i 0).toInt)
            let mo := mulR (sc rm) (fofInt (mq.getD i 0).toInt)
            let vr := mulR (sc rv) (fofInt (vq.getD i 0).toNat)
            let vo := mulR vr.1 vr.1
            let r := adamwElt h g.1 mo.1 vo.1 (wt.getD i 0)
            (r.1, r.2.1, r.2.2.1, r.2.2.2 ||| g.2 ||| mo.2 ||| vr.2 ||| vo.2)
          (els, quantSym 127 (els.map (·.2.1)) [], quantRoot (els.map (·.2.2.1)))
        let rows := (List.range (c / n)).map row
        let last := ((row (c / n)).1).take (c % n)
        { writes := (rows.zipIdx.flatMap fun e =>
            let pad := List.replicate (wd - n) (0 : Byte)
            [ ((vB x w).plus (4 * e.2 * n), wordBytes (e.1.1.map (·.1))),
              (d.plus (e.2 * wd), e.1.2.1.q.map codeByte ++ pad),
              (d.plus (m * wd + e.2 * wd), e.1.2.2.q.map codeByte ++ pad),
              ((offs rd 1).plus (8 * e.2), RowRec.bytes e.1.2.1.scale 0 0),
              ((offs rd 2).plus (8 * e.2), RowRec.bytes e.1.2.2.scale 0 1) ])
            ++ (if last.isEmpty then [] else [((vB x w).plus (4 * (c / n) * n), wordBytes (last.map (·.1)))])
          vec := last.foldl (fun b el => b ||| el.2.2.2) (rows.foldl (fun a r => r.1.foldl (fun b el => b ||| el.2.2.2) a) 0)
          quant := rows.foldl (fun a r => a ||| r.2.1.flags ||| r.2.2.flags) 0 } }

/-! ## The table of operations -/

/-- COPY. -/
def copyPlan : Strand → BitVec 128 → VPlan := unaryPlan fun a => (a, 0)
/-- ADD. -/
def addPlan : Strand → BitVec 128 → VPlan := binaryPlan addR
/-- SUB. -/
def subPlan : Strand → BitVec 128 → VPlan := binaryPlan subR
/-- MUL. -/
def mulPlan : Strand → BitVec 128 → VPlan := binaryPlan mulR
/-- FMA: a × b + d with one rounding. -/
def fmaPlan : Strand → BitVec 128 → VPlan := elemPlan true true fun a b d _ => fmaR a b d
/-- SCALE: a × `IMM`. -/
def scalePlan : Strand → BitVec 128 → VPlan := elemPlan false false fun a _ _ i => mulR a i
/-- MAX. -/
def maxPlan : Strand → BitVec 128 → VPlan := binaryPlan fun a b => (fmax a b, 0)
/-- MIN. -/
def minPlan : Strand → BitVec 128 → VPlan := binaryPlan fun a b => (fmin a b, 0)
/-- EXP. -/
def expPlan : Strand → BitVec 128 → VPlan := unaryPlan (unaryR fexp)
/-- LOG. -/
def logPlan : Strand → BitVec 128 → VPlan := unaryPlan (unaryR fln)
/-- RECIP. -/
def recipPlan : Strand → BitVec 128 → VPlan := unaryPlan (unaryR frecip)
/-- RSQRT. -/
def rsqrtPlan : Strand → BitVec 128 → VPlan := unaryPlan (unaryR frsqrt)
/-- TANH. -/
def tanhPlan : Strand → BitVec 128 → VPlan := unaryPlan (unaryR ftanh)
/-- SIGMOID. -/
def sigmoidPlan : Strand → BitVec 128 → VPlan := unaryPlan (unaryR fsigmoid)
/-- SILU. -/
def siluPlan : Strand → BitVec 128 → VPlan := unaryPlan (unaryR fsilu)
/-- GELU. -/
def geluPlan : Strand → BitVec 128 → VPlan := unaryPlan (unaryR fgelu)
/-- PSCALE: probabilities by position scales (R114). -/
def pscalePlan : Strand → BitVec 128 → VPlan := binaryPlan mulR
/-- DSILU. -/
def dsiluPlan : Strand → BitVec 128 → VPlan := binaryPlan (derivElt fdsilu)
/-- DGELU. -/
def dgeluPlan : Strand → BitVec 128 → VPlan := binaryPlan (derivElt fdgelu)
/-- RSUM. -/
def rsumPlan : Strand → BitVec 128 → VPlan := reducePlan false none fun a _ => canonSum a
/-- RSUMSQ. -/
def rsumsqPlan : Strand → BitVec 128 → VPlan := reducePlan false (some fun a _ => dotProds a a) fun a _ => dotR a a
/-- RMAX: NaN if any value is NaN. -/
def rmaxPlan : Strand → BitVec 128 → VPlan := reducePlan false none fun a _ => (if a.any isNan then qnan else maxOf a, 0)
/-- DOT. -/
def dotPlan : Strand → BitVec 128 → VPlan := reducePlan true (some dotProds) dotR
/-- RMSNORM: r = RSQRT(rne(rne(`SUMSQ` ÷ L) + `IMM`)), d = rne(rne(a × r) × b). -/
def rmsnormPlan : Strand → BitVec 128 → VPlan :=
  sidePlan true false fun sr w xa xb =>
    let r := ((divR sr.sumsq (fofInt sr.rows)).andThen fun t => addR t (vImmF w)).andThen fun t => unaryR frsqrt t
    ((xa.zip xb).map fun e => (mulR e.1 r.1).andThen fun v => mulR v e.2, r.2)
/-- SMEXP: EXP(rne(a − m)), and a side record of the results. -/
def smexpPlan : Strand → BitVec 128 → VPlan :=
  sidePlan false true fun sr _ xa _ =>
    (xa.map fun a => (subR a sr.mx).andThen fun v => unaryR fexp v, 0)
/-- SMNORM: rne(a × RECIP(s)). -/
def smnormPlan : Strand → BitVec 128 → VPlan :=
  sidePlan false false fun sr _ xa _ =>
    let r := unaryR frecip sr.sum
    (xa.map fun a => mulR a r.1, r.2)
/-- QU8A (R92). -/
def qu8aPlan : Strand → BitVec 128 → VPlan := quantPlan false
/-- QS8 (R93). -/
def qs8Plan : Strand → BitVec 128 → VPlan := quantPlan true
/-- QG8 (R115). -/
def qg8Plan : Strand → BitVec 128 → VPlan := rowQuantPlan false
/-- QM8 (R116). -/
def qm8Plan : Strand → BitVec 128 → VPlan := rowQuantPlan true

/-- The vector operation of code `op` (R188); none for a reserved code. -/
def vopPlan (op : Nat) : Option (Strand → BitVec 128 → VPlan) :=
  match op with
  | 0x00 => some copyPlan
  | 0x01 => some addPlan
  | 0x02 => some subPlan
  | 0x03 => some mulPlan
  | 0x04 => some fmaPlan
  | 0x05 => some scalePlan
  | 0x06 => some maxPlan
  | 0x07 => some minPlan
  | 0x08 => some expPlan
  | 0x09 => some logPlan
  | 0x0A => some recipPlan
  | 0x0B => some rsqrtPlan
  | 0x0C => some tanhPlan
  | 0x0D => some sigmoidPlan
  | 0x0E => some siluPlan
  | 0x0F => some geluPlan
  | 0x10 => some rsumPlan
  | 0x11 => some rsumsqPlan
  | 0x12 => some rmaxPlan
  | 0x13 => some dotPlan
  | 0x14 => some odotPlan
  | 0x15 => some fcombPlan
  | 0x16 => some statcmbPlan
  | 0x17 => some rmsnormPlan
  | 0x18 => some smexpPlan
  | 0x19 => some smnormPlan
  | 0x1A => some ropePlan
  | 0x1B => some qu8aPlan
  | 0x1C => some qs8Plan
  | 0x1D => some kappPlan
  | 0x1E => some vappPlan
  | 0x1F => some pscalePlan
  | 0x20 => some qg8Plan
  | 0x21 => some qm8Plan
  | 0x22 => some topkPlan
  | 0x23 => some topkmPlan
  | 0x24 => some argmaxPlan
  | 0x25 => some iaddPlan
  | 0x26 => some gatherPlan
  | 0x27 => some fillPlan
  | 0x28 => some invalPlan
  | 0x29 => some matvecPlan
  | 0x2A => some outerPlan
  | 0x2B => some dsiluPlan
  | 0x2C => some dgeluPlan
  | 0x2D => some adamwPlan
  | _ => none

end Sys2Proof.Machine
end

