-- ==== Sys2Proof/Machine/Issue.lean ====
section
/-! DEFINITION. The commands that issue a strand's next kernel step (R170 to R172, R178, R188): one for each opcode, form of EPI and vector
operation. Of several strands whose steps can issue, the lowest goes first (R171, R73, R128, R216). -/

namespace Sys2Proof.Machine

/-! ## Order of the strands -/

/-- What a step of strand `k` of tile `p` does when it issues (R178, R182, R188). A reserved step, which no valid rig holds, never
issues. -/
def stepBody (p k : Nat) (e : LogEnt) (redo : Bool) (s : State) : Issued :=
  match opcodeOf e.word with
  | 0x00 => endBody p k e redo s
  | 0x01 => buildBody p k false e redo s
  | 0x02 => buildBody p k true e redo s
  | 0x03 => cbloadBody p k e redo s
  | 0x04 => lpassBody p k e redo s
  | 0x05 =>
    match fld e.word 12 2 with
    | 1 => partialBody p k e redo s
    | 2 => combineBody p k e redo s
    | _ => outputBody p k e redo s
  | 0x06 =>
    match vopPlan (vopOf e.word) with
    | some pl => vopBody p k pl e redo s
    | none => .wait .none_ s
  | 0x07 => sstartBody p k e redo s
  | 0x08 => swaitBody p k e redo s
  | 0x09 => breadBody p k e redo s
  | 0x0A => bwriteBody p k e redo s
  | 0x0B => brelBody p k e redo s
  | 0x0C => harriveBody p k e redo s
  | 0x0D => hwaitBody p k e redo s
  | 0x0E => loopBody p k e redo s
  | 0x0F => setrBody p k e redo s
  | _ => .wait .none_ s

/-- The attempt to issue has left the step waiting. -/
def Issued.waits : Issued → Bool
  | .wait _ _ => true
  | _ => false

/-- The next step of strand `k` of tile `p` can issue now (R170). -/
def State.canIssue (s : State) (p k : Nat) : Bool :=
  match s.fetch p k with
  | .nothing => false
  | .outside => true
  | .step e redo =>
    !(s.tile p).waituBlocked k (waituOf e.word)
      && (match unitOf (opcodeOf e.word) with | some u => (s.tile p).room u | none => true)
      && !(stepBody p k e redo s).waits

/-- Issue of the next step of a strand in the strands' order (R171): while the step of a lower strand can issue, it waits. -/
def State.issueTurn (s : State) (p k : Nat) (isRow : BitVec 128 → Bool) (body : LogEnt → Bool → State → Issued) : State :=
  if (List.range k).any (s.canIssue p) then s else s.issue p k isRow body

/-- The strand's VOP step of code `op`. -/
def State.vop (s : State) (tile strand op : Nat) (plan : Strand → BitVec 128 → VPlan) : Ans :=
  .next (s.issueTurn tile strand (fun w => opcodeOf w == 0x06 && vopOf w == op) (vopBody tile strand plan))

/-! ## Array, epilogue, streams, synchronisation and control -/

/-- The strand's TBUILD step. -/
def execTbuild (tile strand : Nat) (s : State) : Ans := .next (s.issueTurn tile strand (isOp 0x01) (buildBody tile strand false))
/-- The strand's TMCAST step (R68): claims the shadow bank, arrives on the share hitch and builds its own slots. -/
def execTmcast (tile strand : Nat) (s : State) : Ans := .next (s.issueTurn tile strand (isOp 0x02) (buildBody tile strand true))
/-- The strand's CBLOAD step. -/
def execCbload (tile strand : Nat) (s : State) : Ans := .next (s.issueTurn tile strand (isOp 0x03) (cbloadBody tile strand))
/-- The strand's LPASS step. -/
def execLpass (tile strand : Nat) (s : State) : Ans := .next (s.issueTurn tile strand (isOp 0x04) (lpassBody tile strand))
/-- The strand's OUTPUT step; it also meets the reserved form 3, which ends the task with status 0x0B. -/
def execOutput (tile strand : Nat) (s : State) : Ans :=
  .next (s.issueTurn tile strand (isEpi fun f => f == 0 || f == 3) (outputBody tile strand))
/-- The strand's PARTIAL step. -/
def execPartialSend (tile strand : Nat) (s : State) : Ans :=
  .next (s.issueTurn tile strand (isEpi fun f => f == 1) (partialBody tile strand))
/-- The strand's COMBINE step. -/
def execCombine (tile strand : Nat) (s : State) : Ans := .next (s.issueTurn tile strand (isEpi fun f => f == 2) (combineBody tile strand))
/-- The strand's SSTART step. -/
def execSstart (tile strand : Nat) (s : State) : Ans := .next (s.issueTurn tile strand (isOp 0x07) (sstartBody tile strand))
/-- The strand's SWAIT step. -/
def execSwait (tile strand : Nat) (s : State) : Ans := .next (s.issueTurn tile strand (isOp 0x08) (swaitBody tile strand))
/-- The strand's BREAD step. -/
def execBread (tile strand : Nat) (s : State) : Ans := .next (s.issueTurn tile strand (isOp 0x09) (breadBody tile strand))
/-- The strand's BWRITE step. -/
def execBwrite (tile strand : Nat) (s : State) : Ans := .next (s.issueTurn tile strand (isOp 0x0A) (bwriteBody tile strand))
/-- The strand's BREL step. -/
def execBrel (tile strand : Nat) (s : State) : Ans := .next (s.issueTurn tile strand (isOp 0x0B) (brelBody tile strand))
/-- The strand's HARRIVE step. -/
def execHarrive (tile strand : Nat) (s : State) : Ans := .next (s.issueTurn tile strand (isOp 0x0C) (harriveBody tile strand))
/-- The strand's HWAIT step. -/
def execHwait (tile strand : Nat) (s : State) : Ans := .next (s.issueTurn tile strand (isOp 0x0D) (hwaitBody tile strand))
/-- The strand's END step (R172, R173). -/
def execEndStep (tile strand : Nat) (s : State) : Ans := .next (s.issueTurn tile strand (isOp 0x00) (endBody tile strand))
/-- The strand's LOOP step. -/
def execLoop (tile strand : Nat) (s : State) : Ans := .next (s.issueTurn tile strand (isOp 0x0E) (loopBody tile strand))
/-- The strand's SETR step. -/
def execSetr (tile strand : Nat) (s : State) : Ans := .next (s.issueTurn tile strand (isOp 0x0F) (setrBody tile strand))

/-! ## Vector operations -/

/-- The strand's COPY step. -/
def execCopy (tile strand : Nat) (s : State) : Ans := s.vop tile strand 0x00 copyPlan
/-- The strand's ADD step. -/
def execAdd (tile strand : Nat) (s : State) : Ans := s.vop tile strand 0x01 addPlan
/-- The strand's SUB step. -/
def execSub (tile strand : Nat) (s : State) : Ans := s.vop tile strand 0x02 subPlan
/-- The strand's MUL step. -/
def execMul (tile strand : Nat) (s : State) : Ans := s.vop tile strand 0x03 mulPlan
/-- The strand's FMA step. -/
def execFma (tile strand : Nat) (s : State) : Ans := s.vop tile strand 0x04 fmaPlan
/-- The strand's SCALE step. -/
def execScale (tile strand : Nat) (s : State) : Ans := s.vop tile strand 0x05 scalePlan
/-- The strand's MAX step. -/
def execMax (tile strand : Nat) (s : State) : Ans := s.vop tile strand 0x06 maxPlan
/-- The strand's MIN step. -/
def execMin (tile strand : Nat) (s : State) : Ans := s.vop tile strand 0x07 minPlan
/-- The strand's EXP step. -/
def execExp (tile strand : Nat) (s : State) : Ans := s.vop tile strand 0x08 expPlan
/-- The strand's LOG step. -/
def execLog (tile strand : Nat) (s : State) : Ans := s.vop tile strand 0x09 logPlan
/-- The strand's RECIP step. -/
def execRecip (tile strand : Nat) (s : State) : Ans := s.vop tile strand 0x0A recipPlan
/-- The strand's RSQRT step. -/
def execRsqrt (tile strand : Nat) (s : State) : Ans := s.vop tile strand 0x0B rsqrtPlan
/-- The strand's TANH step. -/
def execTanh (tile strand : Nat) (s : State) : Ans := s.vop tile strand 0x0C tanhPlan
/-- The strand's SIGMOID step. -/
def execSigmoid (tile strand : Nat) (s : State) : Ans := s.vop tile strand 0x0D sigmoidPlan
/-- The strand's SILU step. -/
def execSilu (tile strand : Nat) (s : State) : Ans := s.vop tile strand 0x0E siluPlan
/-- The strand's GELU step. -/
def execGelu (tile strand : Nat) (s : State) : Ans := s.vop tile strand 0x0F geluPlan
/-- The strand's RSUM step. -/
def execRsum (tile strand : Nat) (s : State) : Ans := s.vop tile strand 0x10 rsumPlan
/-- The strand's RSUMSQ step. -/
def execRsumsq (tile strand : Nat) (s : State) : Ans := s.vop tile strand 0x11 rsumsqPlan
/-- The strand's RMAX step. -/
def execRmax (tile strand : Nat) (s : State) : Ans := s.vop tile strand 0x12 rmaxPlan
/-- The strand's DOT step. -/
def execDot (tile strand : Nat) (s : State) : Ans := s.vop tile strand 0x13 dotPlan
/-- The strand's ODOT step. -/
def execOdot (tile strand : Nat) (s : State) : Ans := s.vop tile strand 0x14 odotPlan
/-- The strand's FCOMB step. -/
def execFcomb (tile strand : Nat) (s : State) : Ans := s.vop tile strand 0x15 fcombPlan
/-- The strand's STATCMB step. -/
def execStatcmb (tile strand : Nat) (s : State) : Ans := s.vop tile strand 0x16 statcmbPlan
/-- The strand's RMSNORM step. -/
def execRmsnorm (tile strand : Nat) (s : State) : Ans := s.vop tile strand 0x17 rmsnormPlan
/-- The strand's SMEXP step. -/
def execSmexp (tile strand : Nat) (s : State) : Ans := s.vop tile strand 0x18 smexpPlan
/-- The strand's SMNORM step. -/
def execSmnorm (tile strand : Nat) (s : State) : Ans := s.vop tile strand 0x19 smnormPlan
/-- The strand's ROPE step. -/
def execRope (tile strand : Nat) (s : State) : Ans := s.vop tile strand 0x1A ropePlan
/-- The strand's QU8A step. -/
def execQu8a (tile strand : Nat) (s : State) : Ans := s.vop tile strand 0x1B qu8aPlan
/-- The strand's QS8 step. -/
def execQs8 (tile strand : Nat) (s : State) : Ans := s.vop tile strand 0x1C qs8Plan
/-- The strand's KAPP step. -/
def execKapp (tile strand : Nat) (s : State) : Ans := s.vop tile strand 0x1D kappPlan
/-- The strand's VAPP step. -/
def execVapp (tile strand : Nat) (s : State) : Ans := s.vop tile strand 0x1E vappPlan
/-- The strand's PSCALE step. -/
def execPscale (tile strand : Nat) (s : State) : Ans := s.vop tile strand 0x1F pscalePlan
/-- The strand's QG8 step. -/
def execQg8 (tile strand : Nat) (s : State) : Ans := s.vop tile strand 0x20 qg8Plan
/-- The strand's QM8 step. -/
def execQm8 (tile strand : Nat) (s : State) : Ans := s.vop tile strand 0x21 qm8Plan
/-- The strand's TOPK step. -/
def execTopk (tile strand : Nat) (s : State) : Ans := s.vop tile strand 0x22 topkPlan
/-- The strand's TOPKM step. -/
def execTopkm (tile strand : Nat) (s : State) : Ans := s.vop tile strand 0x23 topkmPlan
/-- The strand's ARGMAX step. -/
def execArgmax (tile strand : Nat) (s : State) : Ans := s.vop tile strand 0x24 argmaxPlan
/-- The strand's IADD step. -/
def execIadd (tile strand : Nat) (s : State) : Ans := s.vop tile strand 0x25 iaddPlan
/-- The strand's GATHER step. -/
def execGather (tile strand : Nat) (s : State) : Ans := s.vop tile strand 0x26 gatherPlan
/-- The strand's FILL step. -/
def execFill (tile strand : Nat) (s : State) : Ans := s.vop tile strand 0x27 fillPlan
/-- The strand's INVAL step. -/
def execInval (tile strand : Nat) (s : State) : Ans := s.vop tile strand 0x28 invalPlan
/-- The strand's MATVEC step. -/
def execMatvec (tile strand : Nat) (s : State) : Ans := s.vop tile strand 0x29 matvecPlan
/-- The strand's OUTER step. -/
def execOuter (tile strand : Nat) (s : State) : Ans := s.vop tile strand 0x2A outerPlan
/-- The strand's DSILU step. -/
def execDsilu (tile strand : Nat) (s : State) : Ans := s.vop tile strand 0x2B dsiluPlan
/-- The strand's DGELU step. -/
def execDgelu (tile strand : Nat) (s : State) : Ans := s.vop tile strand 0x2C dgeluPlan
/-- The strand's ADAMW step. -/
def execAdamw (tile strand : Nat) (s : State) : Ans := s.vop tile strand 0x2D adamwPlan

end Sys2Proof.Machine
end

