-- ==== Sys2Proof/Machine/Pcie.lean ====
section
/-! DEFINITION. The PCIe state of the functions (R435, R439, R440) and the board-manager interface (R433). -/

namespace Sys2Proof.Machine

/-! ## Function state -/

/-- A configuration write of the host reaches function `fn`. -/
def State.cfgOpen (s : State) (fn : Nat) : Bool := s.glb.st != .off && s.glb.linkUp && decide (fn < 64)

/-- A virtual function whose configuration space is written has been enabled. -/
def State.present (s : State) (fn : Nat) : State := if fn = 0 then s else { s with glb := { s.glb with vfEn := true } }

/-- Bus Master Enable of a function (R439): what waited for it proceeds when it becomes 1. -/
def execBusMasterEnable (fn : Nat) (on : Bool) (s : State) : Ans :=
  .next (
    if !s.cfgOpen fn then s
    else
      let s1 := (s.present fn).modFunc fn fun f => { f with bme := on }
      if on then s1.flushPba fn else s1)

/-- Memory Space Enable of a function (R439). -/
def execMemorySpaceEnable (fn : Nat) (on : Bool) (s : State) : Ans :=
  .next (if !s.cfgOpen fn then s else (s.present fn).modFunc fn fun f => { f with mse := on })

/-- The power state of a function (R435): only the PF has the capability. D3hot turns off memory decode and MSI-X, D0 turns them on. -/
def execD3hot (fn : Nat) (on : Bool) (s : State) : Ans :=
  .next (
    if !s.cfgOpen fn || fn != 0 then s
    else
      let s1 := s.modFunc 0 fun f => { f with d3 := on }
      if on then s1 else s1.flushPba 0)

/-! ## Function Level Reset -/

/-- A queue after the reset of its function (R440). -/
def Queue.reset (x : Queue) : Queue :=
  { x with cfg := setFld x.cfg 0 1 0, st := .disabled, err := 0, head := 0, tail := 0, cqTail := 0, cqHead := 0, entry := none, recs := []
           markers := [], unsig := 0, cqHeld := false }

/-- An accepted task is dropped without a record (R440): one that runs ends with status 0x0A. -/
def State.withdraw (s : State) (u : Nat) (t : Task) : State :=
  let s1 := match t.st with
    | .running p k => s.endTask p k 0x0A
    | .launch p => s.modTile p fun x => { x with launch := none }
    | _ => s
  s1.dropTask u

/-- A Function Level Reset of VF `n` (R440, R13). -/
def State.flr (s : State) (n : Nat) : State :=
  let qs := (s.sched.queues.map (·.1)).filter fun q => s.qFunc q == n
  let s1 := (s.taskList.filter fun e => qs.contains e.2.queue).foldl (fun a e => a.withdraw e.1 e.2) s
  let s2 := qs.foldl (fun a q => a.modQueue q Queue.reset) s1
  let s3 := s2.modFunc n fun f => { f with bme := false, mse := false, d3 := false, msix := [], pba := 0, latch := [] }
  (s3.closeWindow.settle).settleTurns

/-- A Function Level Reset (R440): of the PF, a warm reset that clears VF Enable. -/
def execFunctionLevelReset (fn : Nat) (env : BootEnv) (s : State) : Ans :=
  .next (
    if !s.cfgOpen fn then s
    else if fn = 0 then s.warmReset env false
    else if !s.glb.vfEn then s
    else s.flr fn)

/-! ## Board manager -/

/-- The 7-bit address of the SMBus target (R433). -/
def State.bmAddr (s : State) : Nat := 0x58 + s.pins.bmAddr.toNat

/-- One bit of the packet error code: x^8 + x^2 + x + 1 (SMBus 3.0; notes/assumptions/75.md). -/
def pecBit (c : Byte) : Byte := if c.getLsbD 7 then c <<< 1 ^^^ 0x07 else c <<< 1

/-- The packet error code of the bytes of a transfer. -/
def pecOf (l : List Byte) : Byte :=
  l.foldl (fun c b => (List.range 8).foldl (fun x _ => pecBit x) (c ^^^ b)) 0

/-- A read with command code `cmd` is answered in every state but OFF, with its packet error code (R433): over the target's address for the
write of the command and for the read, the command and the data. -/
def State.smbus (s : State) (cmd : Byte) (b : List Byte) : State :=
  if s.glb.st = .off then s
  else s.emit (.smbus b (pecOf ([BitVec.ofNat 8 (2 * s.bmAddr), cmd, BitVec.ofNat 8 (2 * s.bmAddr + 1)] ++ b)))

/-- Command 0x00: state, OUTPUT_HOLD, THERM_N and FAULT_N driven low. -/
def execSmbusState (s : State) : Ans :=
  .next (s.smbus 0x00 [BitVec.ofNat 8 (s.glb.st.code + bit_ 3 s.outputHold + bit_ 4 (!s.pins.thermN) + bit_ 5 (!s.pins.faultN))])
/-- Command 0x01: TJ. -/
def execSmbusTj (s : State) : Ans := .next (s.smbus 0x01 [s.svc.tj])
/-- Command 0x02: TJ_MAX. -/
def execSmbusTjMax (s : State) : Ans := .next (s.smbus 0x02 [s.svc.tjMax])
/-- Command 0x03: the profile in force and the throttle level. -/
def execSmbusProfile (s : State) : Ans := .next (s.smbus 0x03 [BitVec.ofNat 8 (s.svc.profile.toNat + 4 * s.svc.level.toNat)])
/-- Command 0x04: the node ID. -/
def execSmbusNodeId (s : State) : Ans := .next (s.smbus 0x04 [s.grm.node.setWidth 8])
/-- Command 0x08: a block read, its byte count and the device serial number. -/
def execSmbusSerialNumber (s : State) : Ans := .next (s.smbus 0x08 (8 :: leBytes 8 s.glb.serial.toNat))

/-- The command codes of R433. -/
def smbusListed (cmd : BitVec 8) : Bool := decide (cmd.toNat ≤ 4) || cmd == 8

/-- An unlisted command code reads zero. -/
def execSmbusUnlistedRead (cmd : BitVec 8) (s : State) : Ans := .next (if smbusListed cmd then s else s.smbus cmd [0])

/-- Every write is not acknowledged; its bytes have no effect. -/
def execSmbusWrite (_cmd : BitVec 8) (_data : List Byte) (s : State) : Ans := .next (if s.glb.st = .off then s else s.emit .smbusNak)

/-- A read of the Alert Response Address: while the device drives BM_ALERT_N low it returns its own address and releases the pin. -/
def execAlertResponse (s : State) : Ans :=
  .next (
    if s.glb.st = .off ∨ s.pins.alertN then s
    else ({ s with pins := { s.pins with alertN := true } }).emit (.smbus [BitVec.ofNat 8 s.bmAddr] (pecOf [0x19, BitVec.ofNat 8 s.bmAddr])))

end Sys2Proof.Machine
end

