-- ==== Sys2Proof/Machine/Dispatch.lean ====
section
/-! DEFINITION. The dispatch of commands to their meanings, one arm for each row of the opcode table. -/

namespace Sys2Proof.Machine

/-- The effect of a command on everything but the queue. -/
def exec (i : Instr) (s : State) : Host.Outcome State Fault Refusal :=
  match i with
  | .powerGood env => Sys2Proof.Machine.execPowerGood env s
  | .powerLoss => Sys2Proof.Machine.execPowerLoss s
  | .perstAssert env => Sys2Proof.Machine.execPerstAssert env s
  | .perstDeassert => Sys2Proof.Machine.execPerstDeassert s
  | .hotReset env => Sys2Proof.Machine.execHotReset env s
  | .glbResetWarm fn v env => Sys2Proof.Machine.execGlbResetWarm fn v env s
  | .functionLevelReset fn env => Sys2Proof.Machine.execFunctionLevelReset fn env s
  | .busMasterEnable fn on => Sys2Proof.Machine.execBusMasterEnable fn on s
  | .memorySpaceEnable fn on => Sys2Proof.Machine.execMemorySpaceEnable fn on s
  | .d3hot fn on => Sys2Proof.Machine.execD3hot fn on s
  | .csrWrite fn off size v => Sys2Proof.Machine.execCsrWrite fn off size v s
  | .lowWordRead fn off rd => Sys2Proof.Machine.execLowWordRead fn off rd s
  | .pstoreDataRead fn tile => Sys2Proof.Machine.execPstoreDataRead fn tile s
  | .irqMaskWrite fn v => Sys2Proof.Machine.execIrqMaskWrite fn v s
  | .discFaultClear fn v => Sys2Proof.Machine.execDiscFaultClear fn v s
  | .completerAbort fn off size => Sys2Proof.Machine.execCompleterAbort fn off size s
  | .holdChange a b => Sys2Proof.Machine.execHoldChange a b s
  | .discrepancyFault a b n => Sys2Proof.Machine.execDiscrepancyFault a b n s
  | .supplyAck level => Sys2Proof.Machine.execSupplyAck level s
  | .supplyTimeout => Sys2Proof.Machine.execSupplyTimeout s
  | .smbusState => Sys2Proof.Machine.execSmbusState s
  | .smbusTj => Sys2Proof.Machine.execSmbusTj s
  | .smbusTjMax => Sys2Proof.Machine.execSmbusTjMax s
  | .smbusProfile => Sys2Proof.Machine.execSmbusProfile s
  | .smbusNodeId => Sys2Proof.Machine.execSmbusNodeId s
  | .smbusSerialNumber => Sys2Proof.Machine.execSmbusSerialNumber s
  | .smbusUnlistedRead cmd => Sys2Proof.Machine.execSmbusUnlistedRead cmd s
  | .smbusWrite cmd data => Sys2Proof.Machine.execSmbusWrite cmd data s
  | .alertResponse => Sys2Proof.Machine.execAlertResponse s
  | .thermalSample first others => Sys2Proof.Machine.execThermalSample first others s
  | .tclkDivisorChange => Sys2Proof.Machine.execTclkDivisorChange s
  | .watchdogExpiry => Sys2Proof.Machine.execWatchdogExpiry s
  | .profileCommand fn v => Sys2Proof.Machine.execProfileCommand fn v s
  | .domainCommand fn v => Sys2Proof.Machine.execDomainCommand fn v s
  | .domainTransitionEnd d train => Sys2Proof.Machine.execDomainTransitionEnd d train s
  | .writeSlot fn v io => Sys2Proof.Machine.execWriteSlot fn v io s
  | .activate fn v io => Sys2Proof.Machine.execActivate fn v io s
  | .rollback fn v io => Sys2Proof.Machine.execRollback fn v io s
  | .load fn v io => Sys2Proof.Machine.execLoad fn v io s
  | .reconfLay fn v io => Sys2Proof.Machine.execReconfLay fn v io s
  | .reconfTile fn v io => Sys2Proof.Machine.execReconfTile fn v io s
  | .setBoot fn v io => Sys2Proof.Machine.execSetBoot fn v io s
  | .compact fn v io => Sys2Proof.Machine.execCompact fn v io s
  | .revoke fn v io => Sys2Proof.Machine.execRevoke fn v io s
  | .journalCompaction flashOk => Sys2Proof.Machine.execJournalCompaction flashOk s
  | .drainEnd flashOk => Sys2Proof.Machine.execDrainEnd flashOk s
  | .drainLimit => Sys2Proof.Machine.execDrainLimit s
  | .fwWriteSlot fn v io => Sys2Proof.Machine.execFwWriteSlot fn v io s
  | .switch fn v io => Sys2Proof.Machine.execSwitch fn v io s
  | .switchWaitTimeout => Sys2Proof.Machine.execSwitchWaitTimeout s
  | .fwAlive flashOk => Sys2Proof.Machine.execFwAlive flashOk s
  | .fwAliveTimeout flashOk => Sys2Proof.Machine.execFwAliveTimeout flashOk s
  | .fwSetBoot fn v io => Sys2Proof.Machine.execFwSetBoot fn v io s
  | .fwLoad fn v io env => Sys2Proof.Machine.execFwLoad fn v io env s
  | .lineRetirement fn v flashOk => Sys2Proof.Machine.execLineRetirement fn v flashOk s
  | .bankRetirement fn v flashOk => Sys2Proof.Machine.execBankRetirement fn v flashOk s
  | .tileRetirement fn v flashOk => Sys2Proof.Machine.execTileRetirement fn v flashOk s
  | .tileLost tile supply => Sys2Proof.Machine.execTileLost tile supply s
  | .faultRecovery readable producer => Sys2Proof.Machine.execFaultRecovery readable producer s
  | .reread m o => Sys2Proof.Machine.execReread m o s
  | .healTest tile word o => Sys2Proof.Machine.execHealTest tile word o s
  | .scrub tile o => Sys2Proof.Machine.execScrub tile o s
  | .scrubAlarm tile lapUs => Sys2Proof.Machine.execScrubAlarm tile lapUs s
  | .logCommit copiesOk readOk => Sys2Proof.Machine.execLogCommit copiesOk readOk s
  | .logClear fn v => Sys2Proof.Machine.execLogClear fn v s
  | .recentre chan temp => Sys2Proof.Machine.execRecentre chan temp s
  | .fullRetrainEnd chan ok => Sys2Proof.Machine.execFullRetrainEnd chan ok s
  | .submissionDoorbell fn off size v => Sys2Proof.Machine.execSubmissionDoorbell fn off size v s
  | .completionDoorbell fn off size v => Sys2Proof.Machine.execCompletionDoorbell fn off size v s
  | .queueEnable fn v => Sys2Proof.Machine.execQueueEnable fn v s
  | .queueFlush fn v => Sys2Proof.Machine.execQueueFlush fn v s
  | .entryRead q hostEntry hostPacket readOk chk => Sys2Proof.Machine.execEntryRead q hostEntry hostPacket readOk chk s
  | .packetAcceptance q => Sys2Proof.Machine.execPacketAcceptance q s
  | .dispatch uid => Sys2Proof.Machine.execDispatch uid s
  | .completionReport tile strand => Sys2Proof.Machine.execCompletionReport tile strand s
  | .completionRecordPost q => Sys2Proof.Machine.execCompletionRecordPost q s
  | .modUsExpiry q => Sys2Proof.Machine.execModUsExpiry q s
  | .endStep tile strand => Sys2Proof.Machine.execEndStep tile strand s
  | .tbuild tile strand => Sys2Proof.Machine.execTbuild tile strand s
  | .tmcast tile strand => Sys2Proof.Machine.execTmcast tile strand s
  | .cbload tile strand => Sys2Proof.Machine.execCbload tile strand s
  | .lpass tile strand => Sys2Proof.Machine.execLpass tile strand s
  | .passRetire tile => Sys2Proof.Machine.execPassRetire tile s
  | .tableSwap tile => Sys2Proof.Machine.execTableSwap tile s
  | .rippleEnd tile => Sys2Proof.Machine.execRippleEnd tile s
  | .setTimeout tile strand => Sys2Proof.Machine.execSetTimeout tile strand s
  | .tableMulticastPacket idx => Sys2Proof.Machine.execTableMulticastPacket idx s
  | .output tile strand => Sys2Proof.Machine.execOutput tile strand s
  | .partialSend tile strand => Sys2Proof.Machine.execPartialSend tile strand s
  | .combine tile strand => Sys2Proof.Machine.execCombine tile strand s
  | .unitStepComplete tile unit => Sys2Proof.Machine.execUnitStepComplete tile unit s
  | .copy tile strand => Sys2Proof.Machine.execCopy tile strand s
  | .add tile strand => Sys2Proof.Machine.execAdd tile strand s
  | .sub tile strand => Sys2Proof.Machine.execSub tile strand s
  | .mul tile strand => Sys2Proof.Machine.execMul tile strand s
  | .fma tile strand => Sys2Proof.Machine.execFma tile strand s
  | .scale tile strand => Sys2Proof.Machine.execScale tile strand s
  | .max tile strand => Sys2Proof.Machine.execMax tile strand s
  | .min tile strand => Sys2Proof.Machine.execMin tile strand s
  | .exp tile strand => Sys2Proof.Machine.execExp tile strand s
  | .log tile strand => Sys2Proof.Machine.execLog tile strand s
  | .recip tile strand => Sys2Proof.Machine.execRecip tile strand s
  | .rsqrt tile strand => Sys2Proof.Machine.execRsqrt tile strand s
  | .tanh tile strand => Sys2Proof.Machine.execTanh tile strand s
  | .sigmoid tile strand => Sys2Proof.Machine.execSigmoid tile strand s
  | .silu tile strand => Sys2Proof.Machine.execSilu tile strand s
  | .gelu tile strand => Sys2Proof.Machine.execGelu tile strand s
  | .rsum tile strand => Sys2Proof.Machine.execRsum tile strand s
  | .rsumsq tile strand => Sys2Proof.Machine.execRsumsq tile strand s
  | .rmax tile strand => Sys2Proof.Machine.execRmax tile strand s
  | .dot tile strand => Sys2Proof.Machine.execDot tile strand s
  | .odot tile strand => Sys2Proof.Machine.execOdot tile strand s
  | .fcomb tile strand => Sys2Proof.Machine.execFcomb tile strand s
  | .statcmb tile strand => Sys2Proof.Machine.execStatcmb tile strand s
  | .rmsnorm tile strand => Sys2Proof.Machine.execRmsnorm tile strand s
  | .smexp tile strand => Sys2Proof.Machine.execSmexp tile strand s
  | .smnorm tile strand => Sys2Proof.Machine.execSmnorm tile strand s
  | .rope tile strand => Sys2Proof.Machine.execRope tile strand s
  | .qu8a tile strand => Sys2Proof.Machine.execQu8a tile strand s
  | .qs8 tile strand => Sys2Proof.Machine.execQs8 tile strand s
  | .kapp tile strand => Sys2Proof.Machine.execKapp tile strand s
  | .vapp tile strand => Sys2Proof.Machine.execVapp tile strand s
  | .pscale tile strand => Sys2Proof.Machine.execPscale tile strand s
  | .qg8 tile strand => Sys2Proof.Machine.execQg8 tile strand s
  | .qm8 tile strand => Sys2Proof.Machine.execQm8 tile strand s
  | .topk tile strand => Sys2Proof.Machine.execTopk tile strand s
  | .topkm tile strand => Sys2Proof.Machine.execTopkm tile strand s
  | .argmax tile strand => Sys2Proof.Machine.execArgmax tile strand s
  | .iadd tile strand => Sys2Proof.Machine.execIadd tile strand s
  | .gather tile strand => Sys2Proof.Machine.execGather tile strand s
  | .fill tile strand => Sys2Proof.Machine.execFill tile strand s
  | .inval tile strand => Sys2Proof.Machine.execInval tile strand s
  | .matvec tile strand => Sys2Proof.Machine.execMatvec tile strand s
  | .outer tile strand => Sys2Proof.Machine.execOuter tile strand s
  | .dsilu tile strand => Sys2Proof.Machine.execDsilu tile strand s
  | .dgelu tile strand => Sys2Proof.Machine.execDgelu tile strand s
  | .adamw tile strand => Sys2Proof.Machine.execAdamw tile strand s
  | .sstart tile strand => Sys2Proof.Machine.execSstart tile strand s
  | .swait tile strand => Sys2Proof.Machine.execSwait tile strand s
  | .streamRequest tile => Sys2Proof.Machine.execStreamRequest tile s
  | .bread tile strand => Sys2Proof.Machine.execBread tile strand s
  | .bightTimeout tile strand => Sys2Proof.Machine.execBightTimeout tile strand s
  | .bwrite tile strand => Sys2Proof.Machine.execBwrite tile strand s
  | .brel tile strand => Sys2Proof.Machine.execBrel tile strand s
  | .harrive tile strand => Sys2Proof.Machine.execHarrive tile strand s
  | .hwait tile strand => Sys2Proof.Machine.execHwait tile strand s
  | .loop tile strand => Sys2Proof.Machine.execLoop tile strand s
  | .setr tile strand => Sys2Proof.Machine.execSetr tile strand s
  | .hitchArrival idx => Sys2Proof.Machine.execHitchArrival idx s
  | .hitchRelease idx => Sys2Proof.Machine.execHitchRelease idx s
  | .verdict src => Sys2Proof.Machine.execVerdict src s
  | .scratchpadWrite idx => Sys2Proof.Machine.execScratchpadWrite idx s
  | .scratchpadRead idx => Sys2Proof.Machine.execScratchpadRead idx s
  | .readResponse idx => Sys2Proof.Machine.execReadResponse idx s
  | .writeAck idx => Sys2Proof.Machine.execWriteAck idx s
  | .claim idx => Sys2Proof.Machine.execClaim idx s
  | .fullUpdate idx => Sys2Proof.Machine.execFullUpdate idx s
  | .abandon idx => Sys2Proof.Machine.execAbandon idx s
  | .creditReturn idx => Sys2Proof.Machine.execCreditReturn idx s
  | .memoryRead idx chk => Sys2Proof.Machine.execMemoryRead idx chk s
  | .memoryWrite idx chk => Sys2Proof.Machine.execMemoryWrite idx chk s
  | .spliceFill chan fill link inl tagLink tagInl => Sys2Proof.Machine.execSpliceFill chan fill link inl tagLink tagInl s
  | .gatherBufferClose chan buf chk => Sys2Proof.Machine.execGatherBufferClose chan buf chk s
  | .spliceFlush fn chan v => Sys2Proof.Machine.execSpliceFlush fn chan v s
  | .spliceFlushDone chan => Sys2Proof.Machine.execSpliceFlushDone chan s
  | .wpmClear fn w => Sys2Proof.Machine.execWpmClear fn w s
  | .wpmClearDone => Sys2Proof.Machine.execWpmClearDone s
  | .codeTableLoad fn v host rd => Sys2Proof.Machine.execCodeTableLoad fn v host rd s
  | .keyLoad fn v => Sys2Proof.Machine.execKeyLoad fn v s
  | .regionEnable fn off v => Sys2Proof.Machine.execRegionEnable fn off v s
  | .bar4Read fn addr len chk => Sys2Proof.Machine.execBar4Read fn addr len chk s
  | .bar4Write fn addr data chk => Sys2Proof.Machine.execBar4Write fn addr data chk s
  | .pcieCompletion tag data ok => Sys2Proof.Machine.execPcieCompletion tag data ok s
  | .portEnable fn port v => Sys2Proof.Machine.execPortEnable fn port v s
  | .portRetrain fn port v => Sys2Proof.Machine.execPortRetrain fn port v s
  | .linkTrained port => Sys2Proof.Machine.execLinkTrained port s
  | .hello port f => Sys2Proof.Machine.execHello port f s
  | .change port f => Sys2Proof.Machine.execChange port f s
  | .epochIssue => Sys2Proof.Machine.execEpochIssue s
  | .epoch port f => Sys2Proof.Machine.execEpoch port f s
  | .linkNak port seq => Sys2Proof.Machine.execLinkNak port seq s
  | .linkDown port cause => Sys2Proof.Machine.execLinkDown port cause s
  | .frameForward port f => Sys2Proof.Machine.execFrameForward port f s
  | .rdReq port f => Sys2Proof.Machine.execRdReq port f s
  | .wr port f => Sys2Proof.Machine.execWr port f s
  | .slot port f => Sys2Proof.Machine.execSlot port f s
  | .credit port f => Sys2Proof.Machine.execCredit port f s
  | .rdRsp port f => Sys2Proof.Machine.execRdRsp port f s
  | .wrAck port f => Sys2Proof.Machine.execWrAck port f s
  | .replyTimeout rtag => Sys2Proof.Machine.execReplyTimeout rtag s
  | .recentreEnd chan => Sys2Proof.Machine.execRecentreEnd chan s
  | .linkAck port seq credits => Sys2Proof.Machine.execLinkAck port seq credits s
  | .frameDiscard port f => Sys2Proof.Machine.execFrameDiscard port f s
  | .frameInject idx => Sys2Proof.Machine.execFrameInject idx s
  | .hostInterfaceRequest idx => Sys2Proof.Machine.execHostInterfaceRequest idx s

end Sys2Proof.Machine
end

