-- ==== Sys2Proof/Machine/Tick.lean ====
section
/-! DEFINITION. What an idle step does: one tick of the timebase (notes/assumptions/11.md). -/

namespace Sys2Proof.Machine

/-- One tick of the 100 MHz timebase (R389) outside OFF; a firmware switch that waits for a quiet state goes on when there is one
(R426). -/
def State.tick (s : State) : State :=
  if s.glb.st = .off then s else ({ s with glb := { s.glb with time := s.glb.time + 1 } }).handOver

end Sys2Proof.Machine
end

