-- ==== Sys2Proof/Safety.lean ====
section
/-! DEFINITION. What a sound state is, the relations between states that statements use, and when a strand's step or a packet may go
on. -/

namespace Sys2Proof.Machine

/-! ## Sound states -/

/-- FAULT_N is low exactly while the device is HALTED or a discrepancy fault is latched (R393). -/
def State.faultOk (s : State) : Bool := s.pins.faultN == !(s.hold.disc || s.glb.st == .halted)

/-- The hold logic is between samples (R394, R395): a run under way is one of samples that disagree, and outside one no run is
counted. -/
def Hold.ok (h : Hold) : Bool := if h.disagree then h.a == h.b else h.run == 0

/-- What every step keeps of the hold logic and its pin. -/
def State.sound (s : State) : Bool := s.faultOk && s.hold.ok

/-- A tile's memories are in canonical form. -/
def Tile.memOk (t : Tile) : Bool := Mem.wf 0 t.mem && Mem.wf 0 t.pstore && NSet.wf t.valid && NSet.wf (t.ecc.map (·.1))

/-- A channel's memory and maps are in canonical form. -/
def Chan.memOk (c : Chan) : Bool :=
  Mem.wf 0 c.dram && NSet.wf c.written && NSet.wf (c.tags.map (·.1)) && NSet.wf c.lostTags && NSet.wf c.lostWpm

/-- Every memory of the device is in canonical form: addresses strictly rising, and no byte listed that an unlisted address would read. -/
def State.memOk (s : State) : Bool := Mem.wf 0xFF s.flash && s.tiles.all (·.2.memOk) && s.chans.all (·.2.memOk)

/-! ## What stays as it was -/

/-- `t` differs from `s` at most by what a report leaves: interrupt status and Pending Bits, the log's queue, what has been sent, FAULT_N,
BM_ALERT_N and the model's counter of free values. -/
structure State.Reported (s t : State) : Prop where
  frame : t = { s with
    glb := { s.glb with irq := t.glb.irq }
    pins := { s.pins with faultN := t.pins.faultN, alertN := t.pins.alertN }
    funcs := t.funcs, elog := { s.elog with queue := t.elog.queue }, out := t.out, fresh := t.fresh }
  funcs : ∀ n, t.func n = { s.func n with pba := (t.func n).pba }
  queue : ∃ l, t.elog.queue = s.elog.queue ++ l
  out : ∃ l, t.out = l ++ s.out

/-- `t` differs from `s` at most in tile `p` and by reports. -/
structure State.TileOnly (s t : State) (p : Nat) : Prop where
  frame : State.Reported { s with tiles := t.tiles } t
  tiles : ∀ q, q ≠ p → t.tile q = s.tile q

/-- `t` differs from `s` only in strand `k` of tile `p`. -/
structure State.StrandOnly (s t : State) (p k : Nat) : Prop where
  frame : t = { s with tiles := t.tiles }
  tiles : ∀ q, q ≠ p → t.tile q = s.tile q
  tile : t.tile p = { s.tile p with strands := (t.tile p).strands }
  strands : ∀ j, j ≠ k → t.strand p j = s.strand p j

/-- `t` differs from `s` at most by link-state frames that ports which are UP have sent, or hold until they can (R357). -/
structure State.Told (s t : State) : Prop where
  frame : t = { s with
    grm := { s.grm with ports := t.grm.ports, told := t.grm.told, collecting := t.grm.collecting }, out := t.out }
  port : ∀ q, ∃ l, t.port q = { s.port q with
    replay := (s.port q).replay ++ l, sends := (s.port q).sends ++ List.replicate l.length 1
    txSeq := (s.port q).txSeq + BitVec.ofNat 12 l.length, txCtr := (s.port q).txCtr + BitVec.ofNat 64 l.length
    credits := (t.port q).credits, mq := (t.port q).mq }
  down : ∀ q, (s.port q).st ≠ .up → t.port q = s.port q
  out : ∃ l, t.out = l ++ s.out

/-! ## Steps -/

/-- No step of a lower strand of tile `p` than `k` can issue now, so that it is strand `k`'s turn (R171). -/
def State.hasTurn (s : State) (p k : Nat) : Bool := !(List.range k).any (s.canIssue p)

/-- Strand `k` of tile `p` issues step `w` of its kernel next: it is its turn, the step is fetched, no unit named in `WAITU` holds it up, and
its unit has a queue place (R170, R171, R176). -/
def State.issues (s : State) (p k : Nat) (w : BitVec 128) : Bool :=
  s.hasTurn p k && s.fetch p k == .step { word := w, tok := 0 } false && !(s.tile p).waituBlocked k (waituOf w)
    && (match unitOf (opcodeOf w) with | some u => (s.tile p).room u | none => true)

/-- The accesses pass the checks of R165 and R166; no word they touch waits for a re-read or is poisoned (R363, R364), of an access that
reads parts of its extent no word of those parts; and the words written exist and lie outside every bight region, or in a slot that the tile may write (R158, R219). -/
def State.accsClear (s : State) (p k : Nat) (accs : List Access) : Bool :=
  let t := s.tile p
  let x := s.strand p k
  accs.all fun a => a.status x.size == 0 && match a.o.abs x.base with
    | none => true
    | some off =>
      let clear := fun w => t.wordEcc w == .clean || t.wordEcc w == .correctable
      if a.write then (wordsOf off a.len).all fun w =>
        clear w && !t.rereading w && decide (8 * w < t.usable) && s.slotRule p (8 * w) (some (s.me p))
      else a.parts.all fun r => (wordsOf (off + r.1) r.2).all clear

/-- What can go out of the synchronisation unit and of the table builder of tile `p` has gone out: no arrival and no share stands there that
could go now (R68, R225). -/
structure State.UnitsSettled (s : State) (p : Nat) : Prop where
  syn : s.pumpSyn p = s
  bld : s.pumpBld p = s

/-- `t` differs from `s` only in strand `k` of tile `p` and, while an earlier step of the strand has not completed in the synchronisation
unit, in its step `w` behind it (R170). -/
structure State.SynOnly (s t : State) (p k : Nat) (w : BitVec 128) : Prop where
  frame : t = { s with tiles := t.tiles }
  tiles : ∀ q, q ≠ p → t.tile q = s.tile q
  tile : t.tile p = { s.tile p with strands := (t.tile p).strands, units := (t.tile p).units }
  strands : ∀ j, j ≠ k → t.strand p j = s.strand p j
  units : ∀ v, v ≠ 5 → (t.tile p).unit v = (s.tile p).unit v
  syn : (t.tile p).unit 5 = (s.tile p).unit 5 ++
    if (s.tile p).unitBusy 5 k then [{ strand := k, uid := (s.strand p k).uid, ent := { word := w, tok := 0 } }] else []

/-- No step in the synchronisation unit of a tile and none in its table builder holds back an arrival or its share of a set. -/
def Tile.nothingWaits (t : Tile) : Bool := (t.unit 5).all (·.arrive.isNone) && (t.unit 0).all fun u => u.arrive.isNone && u.out.isEmpty

/-- When a step of strand `k` of tile `p` ends or completes, the other strands stay as they are; but an arrival, or a share of a set, that
waited behind it goes out, and its strand counts it. -/
def State.OthersKept (s t : State) (p k : Nat) : Prop :=
  ∀ j, j ≠ k → t.strand p j = { s.strand p j with arrived := (t.strand p j).arrived, unacked := (t.strand p j).unacked } ∧
    ((s.tile p).nothingWaits = true → t.strand p j = s.strand p j)

/-- Strand `x` after it has issued the step at its place: the next one follows, and a lookup pass under way has ended (R181). -/
def Strand.issued (x : Strand) : Strand := { x with st := .issuing, reason := .none_, next := x.next + 1, pass := none }

/-- The byte that a list of operand writes leaves at scratchpad offset `a`: that of the last write that covers it. -/
def writtenAt (base : Nat) (ws : List (Opnd × List Byte)) (a : Nat) : Option Byte :=
  ws.foldl (fun r w => match w.1.abs base with
    | some off => if off ≤ a ∧ a < off + w.2.length then some (w.2.getD (a - off) 0) else r
    | none => r) none

/-- The operations of the vector engine (R188): code, command and plan. -/
def vectorOps : List (Nat × (Nat → Nat → Instr) × (Strand → BitVec 128 → VPlan)) :=
  [ (0x00, .copy, copyPlan), (0x01, .add, addPlan), (0x02, .sub, subPlan), (0x03, .mul, mulPlan), (0x04, .fma, fmaPlan),
    (0x05, .scale, scalePlan), (0x06, .max, maxPlan), (0x07, .min, minPlan), (0x08, .exp, expPlan), (0x09, .log, logPlan),
    (0x0A, .recip, recipPlan), (0x0B, .rsqrt, rsqrtPlan), (0x0C, .tanh, tanhPlan), (0x0D, .sigmoid, sigmoidPlan),
    (0x0E, .silu, siluPlan), (0x0F, .gelu, geluPlan) ] ++
  [ (0x10, .rsum, rsumPlan), (0x11, .rsumsq, rsumsqPlan), (0x12, .rmax, rmaxPlan), (0x13, .dot, dotPlan), (0x14, .odot, odotPlan),
    (0x15, .fcomb, fcombPlan), (0x16, .statcmb, statcmbPlan), (0x17, .rmsnorm, rmsnormPlan), (0x18, .smexp, smexpPlan),
    (0x19, .smnorm, smnormPlan), (0x1A, .rope, ropePlan), (0x1B, .qu8a, qu8aPlan), (0x1C, .qs8, qs8Plan), (0x1D, .kapp, kappPlan),
    (0x1E, .vapp, vappPlan), (0x1F, .pscale, pscalePlan) ] ++
  [ (0x20, .qg8, qg8Plan), (0x21, .qm8, qm8Plan), (0x22, .topk, topkPlan), (0x23, .topkm, topkmPlan), (0x24, .argmax, argmaxPlan),
    (0x25, .iadd, iaddPlan), (0x26, .gather, gatherPlan), (0x27, .fill, fillPlan), (0x28, .inval, invalPlan),
    (0x29, .matvec, matvecPlan), (0x2A, .outer, outerPlan), (0x2B, .dsilu, dsiluPlan), (0x2C, .dgelu, dgeluPlan),
    (0x2D, .adamw, adamwPlan) ]

/-- An epilogue step may write `n` outputs of weight format `wfmt` to its scratchpad destination (R14, R99, R155, R165, R182, R205): its
fields and its row records pass their checks, and its operands, outputs and side record are clear. -/
def State.epiClear (s : State) (p k : Nat) (w : BitVec 128) (wfmt n : Nat) : Bool :=
  let x := s.strand p k
  let ne := if pairedFn w then 2 * n else n
  !flag w 31 && (splitOf w n).isSome && (epiChecks w wfmt).all (· == 0) && x.ackRoom 0 && rrecsOk (s.tile p) x w wfmt ne
    && s.accsClear p k (epiRowAccs x w ne ++ (Dest.spad (spadOpnd x (fld w 32 20))).accs n (if flag w 17 then 4 else 2))

/-- The bytes an epilogue step leaves (R149 to R155): its outputs `v` in the step's format at window offset `off`, then their side record
at the next multiple of 64; every other byte of the tile reads as in `s`. -/
def State.epiLeaves (s t : State) (p k : Nat) (w : BitVec 128) (sh : Nat) (clamped : Bool) (v : List Word) : Prop :=
  let x := s.strand p k
  let o := convertOut (flag w 17) v
  let sp := (splitOf w v.length).getD (1, v.length)
  ∀ off, spadOpnd x (fld w 32 20) = .spad off →
    (t.tile p).bytes (x.base + off) o.1.length = o.1 ∧
    (t.tile p).bytes (x.base + up64 (off + o.1.length)) 16 = sideRecord o.2 sp.2 sp.1 sh clamped ∧
    ∀ a, (a < x.base + off ∨ x.base + off + o.1.length ≤ a) →
      (a < x.base + up64 (off + o.1.length) ∨ x.base + up64 (off + o.1.length) + 16 ≤ a) → (t.tile p).byte a = (s.tile p).byte a

/-- Tile `p` after a step may differ in the notes of the words it read or wrote: bytes with their valid and check bits, correctable
events, refused accesses and the units, strands and banks that the step's own statement speaks of. -/
def Tile.stepFrame (a b : Tile) : Prop :=
  b = { a with
    mem := b.mem, valid := b.valid, ecc := b.ecc, ceTab := b.ceTab, heals := b.heals, eccSt := b.eccSt, eccCnt := b.eccCnt
    replayCnt := b.replayCnt, units := b.units, strands := b.strands, tb0 := b.tb0, tb1 := b.tb1, cb0 := b.cb0, cb1 := b.cb1, acc0 := b.acc0, acc1 := b.acc1 }

/-! ## Blocks of memory -/

/-- What a read of the block at device address `a` finds in DRAM (R318, R321, R326, R327, R330): zeros on a page not written, zeros under
tag 0, 512 bytes under tag 15, and else the sectors of a coded block; what is stored is decrypted. No word of it holds a lasting inline-ECC
error (R332). -/
def State.blockShows (s : State) (a : Nat) (d : List Byte) : Prop :=
  let cl := s.exp.locate a
  let ch := s.chan cl.1
  let zeros := List.replicate 512 (0 : Byte)
  let t := ch.tag (cl.2 / 512)
  ch.lostWpm.has (cl.2 / 65536) = false ∧
    (ch.written.has (cl.2 / 65536) = false ∧ d = zeros ∨
      ch.written.has (cl.2 / 65536) = true ∧ ch.lostTags.has (cl.2 / 512) = false ∧
        (t = 0 ∧ d = zeros ∨ s.badStored a t = false ∧ t = 15 ∧ d = s.crypt true a (Mem.read 0 ch.dram cl.2 512) ∨
          s.badStored a t = false ∧ t ≠ 0 ∧ t ≠ 15 ∧ blockDecode (s.classAt a) (s.exp.tbl (s.tableAt a)) t (s.crypt true a (Mem.read 0 ch.dram cl.2 (32 * t))) = .ok d))

/-- The block at device address `a` is stored as `d` (R321, R323, R330): under tag 0 where `d` is zero, coded under the class and table of
its region where that fits, and else as it stands; what is stored is encrypted. -/
def State.holdsBlock (s : State) (a : Nat) (d : List Byte) : Prop :=
  let cl := s.exp.locate a
  let ch := s.chan cl.1
  ch.lostTags.has (cl.2 / 512) = false ∧
    if allZero d then ch.tag (cl.2 / 512) = 0
    else
      let x := (blockEncode (s.classAt a) (s.exp.tbl (s.tableAt a)) d).getD d
      ch.tag (cl.2 / 512) = (if (blockEncode (s.classAt a) (s.exp.tbl (s.tableAt a)) d).isSome then x.length / 32 else 15) ∧
        Mem.read 0 ch.dram cl.2 x.length = s.crypt false a x

/-- The check bytes of the block at device address `a`, in an ECC region, lie outside the block (R332). -/
def State.checksApart (s : State) (a : Nat) : Prop :=
  let off := (s.exp.locate a).2
  ∀ i, i < 64 → ∀ o, s.checkPlace a (off + 8 * i) = some o → o < off ∨ off + 512 ≤ o

/-- `t` differs from `s`, in what the channels store, at most in the block at device address `a`: its bytes, the check bytes of its words in an
ECC region (R332), its tag, and the other tags of its page where this was the first write to it (R319). -/
structure State.OnlyBlock (s t : State) (a : Nat) : Prop where
  chans : ∀ c, c ≠ (s.exp.locate a).1 → t.chan c = { s.chan c with window := (t.chan c).window, served := (t.chan c).served }
  bytes : ∀ x, (x < (s.exp.locate a).2 ∨ (s.exp.locate a).2 + 512 ≤ x) → (∀ i, i < 64 → s.checkPlace a ((s.exp.locate a).2 + 8 * i) ≠ some x) →
    Mem.get 0 (t.chan (s.exp.locate a).1).dram x = Mem.get 0 (s.chan (s.exp.locate a).1).dram x
  tags : ∀ b, b ≠ (s.exp.locate a).2 / 512 → (t.chan (s.exp.locate a).1).tag b =
    if b / 128 = (s.exp.locate a).2 / 65536 ∧ (s.chan (s.exp.locate a).1).written.has ((s.exp.locate a).2 / 65536) = false then 0
    else (s.chan (s.exp.locate a).1).tag b
  pages : ∀ g, (t.chan (s.exp.locate a).1).written.has g = (g == (s.exp.locate a).2 / 65536 || (s.chan (s.exp.locate a).1).written.has g)

/-! ## Registers -/

/-- RW registers of the PF's BAR0 with the bits that a write sets (R15, R443), tile `p`'s among them. -/
def rwRegisters (p : Nat) : List (Nat × Word) :=
  [ (0x000800, 0xFF), (0x010428, 0xFFFFFFFF), (0x010438, 0xFFFF), (0x100214 + p * 0x10000, 0xFFFFFFFF), (0x100210 + p * 0x10000, 0xFFFF),
    (0x100300 + p * 0x10000, 0x3FFF), (0x100400 + p * 0x10000, 0xFFFF), (0x100408 + p * 0x10000, 0xFF), (0x100518 + p * 0x10000, 0x3F),
    (0x100540 + p * 0x10000, 0xFFFF0001), (0x70F020, 0xFFFFF001), (0x70F024, 0x3FFF), (0x70F028, 0xFFFF), (0x740010, 0xFFFFFF),
    (0x740014, 0xFFFFFF), (0x900010, 0xFFFF8001), (0x900014, 0xFF) ]

end Sys2Proof.Machine
end

