-- ==== Sys2Proof/Certificates/Slice0/Obligations.lean ====
section
/-! DEFINITION. The statements about the model: one definition each, listed in OBLIGATIONS.json. -/

open Sys2Proof Sys2Proof.Machine

/-! ## The queue, the idle step and reset -/

/-- A step takes the command at the front of the queue and runs it on the state with the queue's rest. -/
def Obligations.StepRunsFrontCommand : Prop :=  ∀ (c : Instr) (rest : List Instr) (s : State), step { s with pending := c :: rest } = exec c { s with pending := rest }

/-- With an empty queue a step outside OFF is one tick of the 100 MHz timebase, after which a firmware hand-over that waits may take place;
with none that waits nothing else changes. In OFF it changes nothing. (The tick itself is the model's choice, notes/assumptions/11.md.) -/
def Obligations.IdleStepTicksTimebase : Prop :=  ∀ s : State, s.pending = [] →
    (s.glb.st = .off → step s = .next s) ∧
    (s.glb.st ≠ .off → ∃ t, step s = .next t ∧ t = { s with glb := { s.glb with time := s.glb.time + 1 }, svc := t.svc } ∧
      (s.svc.fwWait = none → t.svc = s.svc) ∧ t.svc.fwBusy = s.svc.fwBusy)

/-- What the Reset columns of the register tables give: the device is in BOOT with OUTPUT_HOLD at 1, every interrupt masked and none
raised, the timebase and the log at zero, profile P1, every queue DISABLED, every strand FREE, every power domain OFF, every table and
accumulator bank empty with table bank 0 active, the limits of the tiles at their reset values, and nothing in memory.
The state right after cold reset is sound and its memories, which list nothing, are in canonical form. -/
def Obligations.ResetValuesOfTheTables : Prop :=
  (State.reset.glb.st = .boot ∧ State.reset.outputHold = true ∧ State.reset.glb.irq = 0 ∧ State.reset.glb.mask = 0xF ∧
   State.reset.glb.time = 0 ∧ State.reset.hold.discMs = 0x64 ∧ State.reset.hold.disc = false ∧ State.reset.hold.cnt = 0 ∧
   State.reset.elog.first = [] ∧ State.reset.elog.ring = [] ∧ State.reset.elog.irqSev = 0x1C ∧ State.reset.elog.lostCount = 0 ∧
   State.reset.svc.profile = 1 ∧ State.reset.svc.bootProf = 1 ∧ State.reset.svc.drainLimit = 0x64 ∧ State.reset.svc.rigSect = 0xFF ∧
   State.reset.svc.tjMax = 0x80 ∧ State.reset.svc.rigActive = 0 ∧ State.reset.svc.faults = [] ∧
   State.reset.grm.dimX = 2 ∧ State.reset.grm.dimY = 1 ∧ State.reset.grm.timeout = 0x32 ∧ State.reset.grm.member = 0 ∧
   State.reset.mesh = [] ∧ State.reset.pending = [] ∧ State.reset.flash = [] ∧
   (∀ d, State.reset.pd d = 0) ∧ (∀ u, State.reset.task u = none) ∧
   (∀ q, (State.reset.queue q).st = .disabled ∧ (State.reset.queue q).head = 0 ∧ (State.reset.queue q).tail = 0) ∧
   (∀ h, (State.reset.hitch h).count = 0 ∧ (State.reset.hitch h).gen = 0) ∧
   (∀ c, (State.reset.chan c).train = .untrained ∧ (State.reset.chan c).dram = [] ∧ (State.reset.chan c).written = []) ∧
   (∀ p, (State.reset.port p).st = .down ∧ (State.reset.port p).txCtr = 0) ∧
   (∀ p, (State.reset.tile p).tb0.st = .active ∧ (State.reset.tile p).tb1.st = .free ∧ (State.reset.tile p).acc0.st = .free ∧
     (State.reset.tile p).acc1.st = .free ∧ (State.reset.tile p).setLimit = 0x64 ∧ (State.reset.tile p).bightLimit = 0x64 ∧
     (State.reset.tile p).scrubCtl = 0x27100001 ∧ (State.reset.tile p).retire = 0 ∧ (State.reset.tile p).mem = [] ∧
     (State.reset.tile p).valid = [] ∧ (State.reset.tile p).pstore = []) ∧
   (∀ p k, (State.reset.strand p k).st = .free) ∧
   (∀ n, State.reset.physOf n = n ∧ (State.reset.mapEnt n).role = if n = 16 ∨ n = 33 ∨ n = 50 ∨ n = 67 then 1 else 0)) ∧
  (State.reset.sound = true ∧ State.reset.memOk = true ∧ State.reset.pending = [])

/-! ## Hold inputs -/

/-- A sample of the hold pair outside OFF (R394 to R396): pins that differ agree, `OUTPUT_HOLD` follows HOLD_A, and a run of disagreeing
samples that ends before the discrepancy time is counted; pins that are equal disagree, the last agreed state stays and the run grows by
one; when it reaches the discrepancy time the fault is latched. -/
def Obligations.HoldSampleUpdatesHoldLogic : Prop :=  ∀ (a b : Bool) (s : State), s.glb.st ≠ .off →
    let limit := (if s.hold.discMs = 0 then 1 else s.hold.discMs.toNat) * 1000
    let short := 0 < s.hold.run ∧ s.hold.run < limit
    ∃ t, exec (.holdChange a b) s = .next t ∧ t.hold.a = a ∧ t.hold.b = b ∧ t.hold.disagree = (a == b) ∧ t.hold.discMs = s.hold.discMs ∧
      (a ≠ b → t.hold.agreed = a ∧ t.hold.run = 0 ∧ t.hold.disc = s.hold.disc ∧
        (short → t.hold.cnt = (if s.hold.cnt.toNat < 65535 then s.hold.cnt + 1 else s.hold.cnt) ∧
          t.hold.max = if s.hold.max.toNat < s.hold.run then BitVec.ofNat 32 s.hold.run else s.hold.max) ∧
        (¬short → t.hold.cnt = s.hold.cnt ∧ t.hold.max = s.hold.max)) ∧
      (a = b → t.hold.agreed = s.hold.agreed ∧ t.hold.run = s.hold.run + 1 ∧ t.hold.cnt = s.hold.cnt ∧ t.hold.max = s.hold.max ∧
        t.hold.disc = (s.hold.disc || decide (limit ≤ s.hold.run + 1))) ∧
      t.outputHold = (t.hold.agreed || t.hold.disc) ∧ State.Reported { s with hold := t.hold } t

/-- A run of disagreeing samples that reaches the discrepancy time latches the fault (R395): DISC_FAULT is set, OUTPUT_HOLD is 1, FAULT_N
is low, and HOLD_DISC is logged.
Writing 1 to `HOLD_STATUS.DISC_FAULT` (R397): it clears a latched fault if the last sample agreed, and FAULT_N and OUTPUT_HOLD follow;
else the write changes nothing. -/
def Obligations.DiscrepancyFaultLatchesAndClears : Prop :=
  (∀ (a : Bool) (n : Nat) (s : State), s.glb.st ≠ .off →
     let limit := (if s.hold.discMs = 0 then 1 else s.hold.discMs.toNat) * 1000
     ¬(limit ≤ s.hold.run ∧ s.hold.disc = true) → limit ≤ s.hold.run + n →
     ∃ t, exec (.discrepancyFault a a n) s = .next t ∧ t.hold.disc = true ∧ t.hold.agreed = s.hold.agreed ∧ t.hold.run = s.hold.run + n ∧
       t.outputHold = true ∧ t.pins.faultN = false ∧
       (∃ e ∈ t.elog.queue, e.event = 0x0050 ∧ e.source = 0x6000 ∧ e.sev = 3 ∧ e.time = s.glb.time) ∧
       State.Reported { s with hold := t.hold } t) ∧
  (∀ (v : Word) (s : State), s.pfWrites 0 0x804 = true → v.getLsbD 4 = true →
     (s.hold.disagree = true → exec (.discFaultClear 0 v) s = .next s) ∧
     (s.hold.disagree = false → s.hold.disc = true →
       ∃ t, exec (.discFaultClear 0 v) s = .next t ∧ t.hold = { s.hold with disc := false } ∧ t.outputHold = s.hold.agreed ∧
         t.pins.faultN = !(s.glb.st == .halted) ∧ State.Reported { s with hold := t.hold } t))

/-! ## Board manager -/

/-- The board manager's reads (R433), answered outside OFF: one byte of state, temperature, profile or node, the serial number, and zero
for a code of no command. Each leaves everything but what it sends as it was.
Every SMBus write is not acknowledged and has no other effect, and a read of the Alert Response Address while BM_ALERT_N is low
returns 0x58 + BM_ADDR and releases the pin (R433). (What the packet error code covers is PRESUMED, notes/assumptions/75.md.) -/
def Obligations.SmbusRequestsAreAnswered : Prop :=
  (∀ s : State, s.glb.st ≠ .off →
     let a := BitVec.ofNat 8 (2 * (0x58 + s.pins.bmAddr.toNat))
     let replies := fun (cmd : Byte) (d : List Byte) => s.emit (.smbus d (pecOf ([a, cmd, a + 1] ++ d)))
     (∃ v : BitVec 8, exec .smbusState s = .next (replies 0x00 [v]) ∧ (v.extractLsb' 0 3).toNat = s.glb.st.code ∧
       v.getLsbD 3 = (s.hold.agreed || s.hold.disc) ∧ v.getLsbD 4 = (!s.pins.thermN) ∧ v.getLsbD 5 = (!s.pins.faultN) ∧
       v.getLsbD 6 = false ∧ v.getLsbD 7 = false) ∧
     exec .smbusTj s = .next (replies 0x01 [s.svc.tj]) ∧
     exec .smbusTjMax s = .next (replies 0x02 [s.svc.tjMax]) ∧
     (∃ v : BitVec 8, exec .smbusProfile s = .next (replies 0x03 [v]) ∧ v.extractLsb' 0 2 = s.svc.profile ∧
       v.extractLsb' 2 2 = s.svc.level ∧ v.extractLsb' 4 4 = 0) ∧
     exec .smbusNodeId s = .next (replies 0x04 [s.grm.node.setWidth 8]) ∧
     exec .smbusSerialNumber s = .next (replies 0x08 (8 :: (List.range 8).map fun i => s.glb.serial.extractLsb' (8 * i) 8)) ∧
     (∀ cmd : BitVec 8, 4 < cmd.toNat → cmd ≠ 8 → exec (.smbusUnlistedRead cmd) s = .next (replies cmd [0]))) ∧
  (∀ (cmd : BitVec 8) (data : List Byte) (s : State), s.glb.st ≠ .off →
     exec (.smbusWrite cmd data) s = .next (s.emit .smbusNak) ∧
     (s.pins.alertN = false → exec .alertResponse s =
       .next { s with pins := { s.pins with alertN := true }, out := .smbus [0x58 + s.pins.bmAddr.setWidth 8] (pecOf [0x19, 0x58 + s.pins.bmAddr.setWidth 8]) :: s.out }) ∧
     (s.pins.alertN = true → exec .alertResponse s = .next s))

/-! ## Power loss, start-up and resets -/

/-- When PWR_GOOD falls the device is in OFF at once and its outputs are high-impedance (R430). Of what it held, the flash stays (R250), and
the fuses; everything else is as after a cold reset.
Start-up from OFF, or from the state right after cold reset (R415, R5): it ends in READY, DEGRADED or HELD, with the straps sampled, the
hold logic and the timebase at their reset values; without the flash no firmware authenticates, and it ends in HELD in the ROM (R418). -/
def Obligations.PowerLossForcesOffAndPowerGoodStartsUp : Prop :=
  (∀ s : State, ∃ t, exec .powerLoss s = .next t ∧ t.glb.st = .off ∧ t.pins.pwrGood = false ∧ t.pins.hiZ = true ∧ t.flash = s.flash ∧
     t.glb.fuseRev = s.glb.fuseRev ∧ t.tiles = [] ∧ t.sched = {} ∧ t.chans = [] ∧ t.svc = {} ∧ t.hold = {} ∧ t.elog = {} ∧ t.mesh = [] ∧
     t.rig = {} ∧ t.grm = {} ∧ t.exp = {} ∧ t.funcs = [] ∧ t.pending = s.pending ∧ t.out = s.out) ∧
  (∀ (env : BootEnv) (s : State), s.glb.st = .off ∨ (s.glb.st = .boot ∧ s.glb.started = false) →
     ∃ t, exec (.powerGood env) s = .next t ∧ (t.glb.st = .ready ∨ t.glb.st = .degraded ∨ t.glb.st = .held) ∧
       t.hold = {} ∧ t.glb.time = 0 ∧ t.pins.nodeId = env.nodeId ∧ t.grm.node = env.nodeId ∧ t.pins.bmAddr = env.bmAddr ∧
       t.pending = s.pending ∧ (env.flashOk = false → t.glb.st = .held ∧ t.svc.romMode = true))

/-- A warm reset (R417, R445): by PERST#, by a hot reset, by `GLB_RESET.WARM` with its key, or by a Function Level Reset of the PF. The
device starts up again to READY, DEGRADED or HELD; the agreed state, a latched discrepancy fault and the retained fields of the hold logic,
the timebase, the topology and the log's entries are kept, and every task and every queue entry is gone. (That the topology is kept is
DEDUCED, notes/assumptions/34.md.)
PERST# deasserted outside OFF: the host link trains (R34). -/
def Obligations.WarmResetRestartsAndKeepsAlwaysOnState : Prop :=
  (∀ (c : Instr) (env : BootEnv) (s : State),
     (c = .perstAssert env ∧ s.glb.st ≠ .off ∧ s.glb.started = true) ∨ (c = .hotReset env ∧ s.glb.st ≠ .off ∧ s.glb.linkUp = true) ∨
       (∃ v : Word, c = .glbResetWarm 0 v env ∧ s.pfWrites 0 0x20 = true ∧ v.getLsbD 0 = true ∧ v.extractLsb' 16 16 = 0xA55A) ∨
       (c = .functionLevelReset 0 env ∧ s.glb.st ≠ .off ∧ s.glb.linkUp = true) →
     ∃ t, exec c s = .next t ∧ (t.glb.st = .ready ∨ t.glb.st = .degraded ∨ t.glb.st = .held) ∧
       t.hold = { discMs := s.hold.discMs, agreed := s.hold.agreed, disc := s.hold.disc, cnt := s.hold.cnt, max := s.hold.max } ∧
       t.grm.dimX = s.grm.dimX ∧ t.grm.dimY = s.grm.dimY ∧ t.grm.node = s.grm.node ∧ t.glb.time = s.glb.time ∧ t.elog.first = s.elog.first ∧ t.elog.ring = s.elog.ring ∧ t.elog.seq = s.elog.seq ∧
       t.sched.tasks = [] ∧ (∀ q, (t.queue q).st = .disabled) ∧ t.pending = s.pending ∧
       (c = .perstAssert env → t.pins.perst = true ∧ t.glb.linkUp = false)) ∧
  (∀ s : State, s.glb.st ≠ .off →
     exec .perstDeassert s = .next { s with pins := { s.pins with perst := false }, glb := { s.glb with linkUp := true } })

/-! ## Temperature, profiles, supplies and domains -/

/-- A sample of the sensors outside OFF, other than a second one in a row at 110 degrees or more (R412, R413): Tj, which is the highest of the
readings, its maximum and its sensor (of several the first, the model's choice, notes/assumptions/74.md); the throttle level by its entry
and exit temperatures, the divisor asked for when the level changes, and THERM_N.
What halts the device (R5, R413, R428): the second sample in a row at 110 degrees or more, and the watchdog of running firmware. It is
HALTED with its cause, FAULT_N is low, every port is DOWN, HALT is logged, and AER reports it; no tile is clocked (DEDUCED,
notes/assumptions/12.md), and tasks, memory and the hold logic are as they were. -/
def Obligations.TemperatureAndWatchdogThrottleAndHalt : Prop :=
  (∀ (l0 : Int) (l1 : List Int) (tj : Int) (sensor : Nat) (s : State), let l := l0 :: l1
     s.glb.st ≠ .off → l[sensor]? = some tj → (∀ x ∈ l, x ≤ tj) →
     (∀ i, i < sensor → l[i]? ≠ some tj) → -128 ≤ tj → tj ≤ 127 → (tj < 110 ∨ s.svc.hot = 0) →
     let was := s.svc.level.toNat
     let n := if 105 ≤ tj then 3 else if 100 ≤ tj ∧ was < 2 then 2 else if 95 ≤ tj ∧ was < 1 then 1
       else if 1 ≤ was ∧ tj < 85 + 5 * (was : Int) then was - 1 else was
     let p := (s.svc.profNext.getD s.svc.profile).toNat
     ∃ t, exec (.thermalSample l0 l1) s = .next t ∧ t.svc.level.toNat = n ∧ t.svc.tj.toInt = tj ∧
       t.svc.tjMax.toInt = max s.svc.tjMax.toInt tj ∧ t.svc.sensor = BitVec.ofNat 5 sensor ∧
       t.svc.hot = (if 110 ≤ tj then s.svc.hot + 1 else 0) ∧ t.pins.thermN = (n == 0) ∧
       t.svc.divNext = (if n = was then s.svc.divNext else some (if n = 3 then 16 else [4, 5, 6, 8, 12, 16].getD (p + n) 16)) ∧
       State.Reported { s with
         svc := { s.svc with tj := t.svc.tj, tjMax := t.svc.tjMax, sensor := t.svc.sensor, level := t.svc.level, hot := t.svc.hot, divNext := t.svc.divNext }
         pins := { s.pins with thermN := t.pins.thermN } } t) ∧
  (∀ (c : Instr) (cause : Nat) (s : State), s.glb.st ≠ .off → s.glb.st ≠ .halted →
     ((∃ (l0 : Int) (l1 : List Int) (x : Int), c = .thermalSample l0 l1 ∧ x ∈ l0 :: l1 ∧ 110 ≤ x ∧ 1 ≤ s.svc.hot ∧ cause = 2) ∨
       (c = .watchdogExpiry ∧ s.svc.romMode = false ∧ cause = 3)) →
     ∃ t, exec c s = .next t ∧ t.glb.st = .halted ∧ t.glb.haltCause.toNat = cause ∧ t.pins.faultN = false ∧
       (∀ p, p < 4 → (t.port p).st = .down) ∧ (∃ e ∈ t.elog.queue, e.event = 0x0060 ∧ e.sev = 4) ∧ .aer ∈ t.out ∧
       t.hold = s.hold ∧ t.tiles = s.tiles ∧ t.sched = s.sched ∧ t.chans = s.chans ∧ t.flash = s.flash ∧ t.mesh = s.mesh ∧
       t.rig = s.rig ∧ t.exp = s.exp ∧ t.bights = s.bights ∧ t.tmap = s.tmap ∧ (c = .watchdogExpiry → t.svc = s.svc) ∧
       (c ≠ .watchdogExpiry → t.pins.thermN = false) ∧ ∀ p, t.tileRuns p = false)

/-- An accepted profile command (R403, R404): for the profile in force it ends at once; toward a higher-numbered one the divisor is to
change; toward a lower-numbered one the supply is asked for and awaited.
Samples of SUPPLY_ACK while a supply is awaited (R404, R432): a low one is noted; a high one after a low one lets the profile's divisor
change; and when none comes within 1 ms the command ends with reason SUPPLY, the profile in force stays and its supply is asked for again.
The divisor asked for takes effect (R401), and with it the profile under way (R404): the command ends with DONE, and the supply of the
new profile is asked for. No strand, table, memory or accumulator of a tile changes where no profile is under way. -/
def Obligations.ProfileChangeRunsToItsEnd : Prop :=
  (∀ (v : Word) (s : State), s.pfWrites 0 0x10700 = true → v.getLsbD 31 = true → v.getLsbD 0 = false →
     s.svc.pwrBusy = false → s.svc.fwBusy = false → s.svc.rigBusy = false → s.svc.romMode = false →
     (s.glb.st = .ready ∨ s.glb.st = .running ∨ s.glb.st = .degraded ∨ s.glb.st = .held) →
     let q := v.extractLsb' 1 2
     (s.svc.rigActive.getLsbD 0 = true → s.rig.profiles.getLsbD q.toNat = true) →
     s.exp.list.length ≤ [8, 8, 4, 2].getD q.toNat 0 → (q = 3 → s.rig.placed.length ≤ 32) →
     (q = s.svc.profile → ∃ t, exec (.profileCommand 0 v) s = .next t ∧ t.svc = { s.svc with pwrDone := true, pwrReason := 0 } ∧
       State.Reported { s with svc := t.svc } t) ∧
     (s.svc.profile < q → exec (.profileCommand 0 v) s = .next { s with svc := { s.svc with
       pwrBusy := true, profNext := some q
       divNext := some (if s.svc.level = 3 then 16 else [4, 5, 6, 8, 12, 16].getD (q.toNat + s.svc.level.toNat) 16) } }) ∧
     (q < s.svc.profile → exec (.profileCommand 0 v) s = .next { s with
       svc := { s.svc with pwrBusy := true, supplyWait := some q }
       pins := { s.pins with supplyReq := q, ackLow := s.pins.ackLow && (s.pins.supplyReq == q) } })) ∧
  (∀ (q : BitVec 2) (s : State), s.glb.st ≠ .off →
     exec (.supplyAck false) s = .next { s with pins := { s.pins with ackLow := true } } ∧
     (s.svc.supplyWait = some q → s.pins.ackLow = true → exec (.supplyAck true) s = .next { s with svc := { s.svc with
       supplyWait := none, pwrBusy := true, profNext := some q
       divNext := some (if s.svc.level = 3 then 16 else [4, 5, 6, 8, 12, 16].getD (q.toNat + s.svc.level.toNat) 16) } }) ∧
     (s.svc.supplyWait = some q → ∃ t, exec .supplyTimeout s = .next t ∧
       t.svc = { s.svc with supplyWait := none, pwrBusy := false, pwrErr := true, pwrReason := 4 } ∧ t.pins.supplyReq = s.svc.profile ∧
       State.Reported { s with svc := t.svc, pins := { s.pins with supplyReq := t.pins.supplyReq, ackLow := t.pins.ackLow } } t)) ∧
  (∀ (d : Nat) (s : State), s.glb.st ≠ .off → s.glb.st ≠ .halted → s.svc.divNext = some d →
     (s.svc.profNext = none → ∃ t, exec .tclkDivisorChange s = .next t ∧
       t = { s with svc := { s.svc with div := d, divNext := none, levelShown := s.svc.level }, tiles := t.tiles } ∧
       ∀ p, t.tile p = { s.tile p with lapCount := (t.tile p).lapCount, lapMark := (t.tile p).lapMark }) ∧
     (∀ q, s.svc.profNext = some q → q ≠ 3 → ∃ t, exec .tclkDivisorChange s = .next t ∧
       t.svc = { s.svc with
         div := d, divNext := none, levelShown := s.svc.level, profile := q, profNext := none, pwrBusy := false, pwrDone := true, pwrReason := 0 } ∧
       t.pins.supplyReq = q ∧
       State.Reported { s with svc := t.svc, tiles := t.tiles, pins := { s.pins with supplyReq := q, ackLow := t.pins.ackLow } } t))

/-- An accepted domain command puts the domain in transition (R408, R410): an unplaced ACTIVE tile, a channel outside the set in force, or a
port, which leaves ON only disabled and DOWN.
The end of a transition of a tile's or a channel's domain under a command (R407, R408): the domain is in the state asked for and the
command ends with DONE; a tile that is ON again has what it held, and one in RET keeps its scratchpad and program store and nothing of its
strands and banks; a trained channel that is ON again has re-centred once, and one that goes OFF loses its DRAM. -/
def Obligations.DomainChangeRunsToItsEnd : Prop :=
  (∀ (v : Word) (s : State), s.pfWrites 0 0x10700 = true → v.getLsbD 31 = true → v.getLsbD 0 = true →
     s.svc.pwrBusy = false → s.svc.fwBusy = false → s.svc.rigBusy = false → s.svc.romMode = false →
     (s.glb.st = .ready ∨ s.glb.st = .running ∨ s.glb.st = .degraded ∨ s.glb.st = .held) →
     let d := (v.extractLsb' 3 7).toNat
     let q := v.extractLsb' 10 2
     q ≠ 3 → s.pd d ≠ q.toNat →
     ((d < 68 ∧ (s.mapEnt (s.logOf d)).role = 0 ∧ s.rig.placeOf (s.logOf d) = none ∧ (s.svc.profile = 3 → q = 0)) ∨
       (68 ≤ d ∧ d < 76 ∧ d - 68 ∉ s.exp.list) ∨
       (76 ≤ d ∧ d < 80 ∧ (q = 2 ∨ ((s.port (d - 76)).ctl.getLsbD 0 = false ∧ (s.port (d - 76)).st = .down)))) →
     ∃ t, exec (.domainCommand 0 v) s = .next t ∧ t.pd d = 3 ∧ (∀ e, e ≠ d → t.pd e = s.pd e) ∧ t.svc.pwrBusy = true ∧
       Tab.get 0 t.svc.pdNext d = q ∧ t = { s with svc := { s.svc with pd := t.svc.pd, pdNext := t.svc.pdNext, pwrBusy := true } }) ∧
  (∀ (d : Nat) (train : TrainResult) (s : State), d < 76 → s.pd d = 3 → s.svc.pwrBusy = true →
     let q := (Tab.get 0 s.svc.pdNext d : BitVec 2)
     ∃ t, exec (.domainTransitionEnd d train) s = .next t ∧ t.pd d = (if q = 2 then 2 else if q = 1 then 1 else 0) ∧
       t.svc.pwrBusy = false ∧ t.svc.pwrDone = true ∧ t.svc.pwrReason = 0 ∧ (∀ e, e ≠ d → t.pd e = s.pd e) ∧
       (∀ p, p ≠ d → (d < 68 ∧ q ≠ 2 → t.tile p = { s.tile p with tokens := (t.tile p).tokens, tokMark := (t.tile p).tokMark }) ∧
         (68 ≤ d ∨ q = 2 → t.tile p = s.tile p)) ∧
       (d < 68 → q = 0 → (t.tile d).mem = [] ∧ (t.tile d).valid = [] ∧ (t.tile d).pstore = [] ∧ ∀ k, ((t.tile d).strand k).st = .free) ∧
       (d < 68 → q = 2 → t.tile d = { s.tile d with lapStart := s.glb.time, lapMark := s.glb.time }) ∧
       (d < 68 → q = 1 → (t.tile d).mem = (s.tile d).mem ∧ (t.tile d).valid = (s.tile d).valid ∧ (t.tile d).pstore = (s.tile d).pstore ∧
         (∀ k, ((t.tile d).strand k).st = .free) ∧ (t.tile d).tb1.st = .free ∧ (t.tile d).acc0.st = .free) ∧
       (68 ≤ d → q = 0 → (t.chan (d - 68)).dram = [] ∧ (t.chan (d - 68)).written = []) ∧
       (68 ≤ d → q ≠ 0 → (t.chan (d - 68)).dram = (s.chan (d - 68)).dram) ∧
       (68 ≤ d → q = 2 → (s.chan (d - 68)).train = .trained → (t.chan (d - 68)).train = .trained ∧
         (t.chan (d - 68)).trainCnt = satAdd (s.chan (d - 68)).trainCnt 0 16 1) ∧
       State.Reported { s with svc := t.svc, tiles := t.tiles, chans := t.chans } t)

/-- A power, rig or firmware command while a service command runs is discarded and reported with reason BUSY in the status of the command
that was written (R411). -/
def Obligations.ServiceCommandsOneAtATime : Prop :=  ∀ (v : Word) (io : SourceIo) (env : BootEnv) (s : State), s.svc.pwrBusy = true ∨ s.svc.fwBusy = true ∨ s.svc.rigBusy = true →
    (s.pfWrites 0 0x10700 = true → v.getLsbD 31 = true → v.getLsbD 0 = false →
      ∃ t, exec (.profileCommand 0 v) s = .next t ∧ t.svc = { s.svc with pwrErr := true, pwrReason := 6 } ∧
        State.Reported { s with svc := t.svc } t) ∧
    (s.pfWrites 0 0x10700 = true → v.getLsbD 31 = true → v.getLsbD 0 = true →
      ∃ t, exec (.domainCommand 0 v) s = .next t ∧ t.svc = { s.svc with pwrErr := true, pwrReason := 6 } ∧
        State.Reported { s with svc := t.svc } t) ∧
    (∀ (c : Nat → Word → SourceIo → Instr) (code : Nat),
      (c, code) ∈ ([(.writeSlot, 1), (.activate, 2), (.rollback, 3), (.load, 4), (.reconfLay, 5), (.reconfTile, 6), (.setBoot, 7), (.compact, 8),
        (.revoke, 9)] : List ((Nat → Word → SourceIo → Instr) × Nat)) →
      s.pfWrites 0 0x1042C = true → (v.extractLsb' 0 4).toNat = code →
      ∃ t, exec (c 0 v io) s = .next t ∧ t.svc = { s.svc with rigErr := true, rigReason := 0x0D, rigSect := 0xFF, rigEntry := t.svc.rigEntry } ∧
        State.Reported { s with svc := t.svc } t) ∧
    ∀ (c : Nat → Word → SourceIo → Instr) (code : Nat),
      (c, code) ∈ ([(.fwWriteSlot, 1), (.switch, 2), (.fwSetBoot, 3), (fun fn v io => .fwLoad fn v io env, 4)]
        : List ((Nat → Word → SourceIo → Instr) × Nat)) →
      s.pfWrites 0 0x10800 = true → (v.extractLsb' 0 4).toNat = code →
      ∃ t, exec (c 0 v io) s = .next t ∧ t.svc = { s.svc with fwErr := true, fwReason := 0x0D } ∧
        State.Reported { s with svc := t.svc } t

/-! ## PCIe functions -/

/-- Configuration writes of a function (R435, R439): Bus Master Enable, Memory Space Enable and, for the PF, the power state take the value
written; nothing of another function, and of the function itself only Pending Bits besides, changes.
A Function Level Reset of a virtual function (R440): every queue of the function is DISABLED and empty, and its enables, its MSI-X table
and its Pending Bits are cleared; no other virtual function's changes, and neither do the hold logic, the timebase, the flash or the rig. -/
def Obligations.FunctionsAreEnabledAndReset : Prop :=
  (∀ (fn : Nat) (on : Bool) (s : State), s.glb.st ≠ .off → s.glb.linkUp = true → fn < 64 →
     (∃ t, exec (.busMasterEnable fn on) s = .next t ∧ t.func fn = { s.func fn with bme := on, pba := (t.func fn).pba } ∧
       (∀ g, g ≠ fn → t.func g = s.func g) ∧
       t = { s with glb := { s.glb with vfEn := s.glb.vfEn || fn != 0 }, funcs := t.funcs, out := t.out } ∧ (on = false → t.out = s.out)) ∧
     (∃ t, exec (.memorySpaceEnable fn on) s = .next t ∧ t.func fn = { s.func fn with mse := on } ∧ (∀ g, g ≠ fn → t.func g = s.func g) ∧
       t = { s with glb := { s.glb with vfEn := s.glb.vfEn || fn != 0 }, funcs := t.funcs }) ∧
     (∃ t, exec (.d3hot 0 on) s = .next t ∧ t.func 0 = { s.func 0 with d3 := on, pba := (t.func 0).pba } ∧ (∀ g, g ≠ 0 → t.func g = s.func g) ∧
       t = { s with funcs := t.funcs, out := t.out })) ∧
  (∀ (fn : Nat) (env : BootEnv) (s : State), s.glb.st ≠ .off → s.glb.linkUp = true → s.glb.vfEn = true → 0 < fn → fn < 64 →
     ∃ t, exec (.functionLevelReset fn env) s = .next t ∧
       t.func fn = { qsel := (s.func fn).qsel } ∧ (∀ g, 0 < g → g ≠ fn → t.func g = s.func g) ∧
       (∀ q, s.qFunc q = fn → (t.queue q).st = .disabled ∧ (t.queue q).head = 0 ∧ (t.queue q).tail = 0 ∧ (t.queue q).recs = []) ∧
       (∀ q, s.qFunc q ≠ fn → (t.queue q).st = (s.queue q).st ∧ (t.queue q).head = (s.queue q).head ∧ (t.queue q).tail = (s.queue q).tail) ∧
       t.hold = s.hold ∧ t.glb.time = s.glb.time ∧ t.flash = s.flash ∧ t.rig = s.rig ∧ t.chans = s.chans ∧ t.pending = s.pending)

/-! ## Steps of a strand -/

/-- END (R172, R173), issued once every earlier step of the strand has completed: the strand is ENDING with status 0x00, its banks and the
slots it held are released, and nothing of another strand, of the scratchpad or of the scheduler changes.
LOOP (R176, R185): with the counter at 0 the next step follows; else it is decremented, both registers take their increments, and
issue goes on at the target, which lies in the kernel.
SETR (R185): `IMM` plus the source register, where there is one, into an address register, or the low 16 bits of `IMM` into a loop
counter; no other register changes. -/
def Obligations.ControlStepsEndLoopAndSet : Prop :=
  (∀ (p k : Nat) (w : BitVec 128) (s : State), s.issues p k w = true → opcodeOf w = 0 → (s.tile p).quiet k = true → w >>> 12 = 0 →
     ∃ t, exec (.endStep p k) s = .next t ∧ (t.strand p k).st = .ending ∧ (t.strand p k).status = 0 ∧ (t.strand p k).held = [] ∧
       (t.strand p k).claims = [] ∧ s.OthersKept t p k ∧ (∀ q, q ≠ p → t.tile q = s.tile q) ∧
       (t.tile p).tb0 = (s.tile p).tb0.release k ∧ (t.tile p).tb1 = (s.tile p).tb1.release k ∧ (t.tile p).acc0 = (s.tile p).acc0.release k ∧
       (t.tile p).acc1 = (s.tile p).acc1.release k ∧
       t.tile p = { s.tile p with
         tb0 := (t.tile p).tb0, tb1 := (t.tile p).tb1, acc0 := (t.tile p).acc0, acc1 := (t.tile p).acc1
         strands := (t.tile p).strands, units := (t.tile p).units, ctxs := (t.tile p).ctxs } ∧
       t = { s with tiles := t.tiles, bights := t.bights, mesh := t.mesh }) ∧
  (∀ (p k : Nat) (w : BitVec 128) (s : State), s.issues p k w = true → opcodeOf w = 0x0E → fld w 66 62 = 0 →
     (s.tile p).inKernel (s.strand p k) (fld w 14 12) = true →
     let x := s.strand p k
     let c := fld w 12 2
     let inc := fun (r v sh : Nat) (i : Nat) => if r = i then BitVec.ofInt 32 (signedOf 12 v * 2 ^ sh) else (0 : Word)
     ∃ t, exec (.loop p k) s = .next t ∧ s.StrandOnly t p k ∧
       (x.cnt c = 0 → t.strand p k = x.issued) ∧
       (x.cnt c ≠ 0 → t.strand p k = { x.issued with next := fld w 14 12, a := (t.strand p k).a, c := (t.strand p k).c } ∧
         (∀ i, i < 4 → (t.strand p k).cnt i = if i = c then x.cnt c - 1 else x.cnt i) ∧
         ∀ i, i < 15 → (t.strand p k).reg i = x.reg i + inc (fld w 26 4) (fld w 30 12) (fld w 42 4) i + inc (fld w 46 4) (fld w 50 12) (fld w 62 4) i)) ∧
  (∀ (p k : Nat) (w : BitVec 128) (s : State), s.issues p k w = true → opcodeOf w = 0x0F → fld w 53 75 = 0 →
     let x := s.strand p k
     let d := fld w 13 4
     let v := BitVec.ofNat 32 (fld w 21 32) + (if fld w 17 4 = 15 then 0 else x.reg (fld w 17 4))
     (flag w 12 = false → d ≠ 15 → ∃ t, exec (.setr p k) s = .next t ∧ s.StrandOnly t p k ∧
       t.strand p k = { x.issued with a := (t.strand p k).a } ∧ ∀ i, i < 15 → (t.strand p k).reg i = if i = d then v else x.reg i) ∧
     (flag w 12 = true → ∃ t, exec (.setr p k) s = .next t ∧ s.StrandOnly t p k ∧
       t.strand p k = { x.issued with c := (t.strand p k).c } ∧
       ∀ i, i < 4 → (t.strand p k).cnt i = if i = d % 4 then BitVec.ofNat 16 (fld w 21 32) else x.cnt i))

/-- SSTART (R192, R194, R197) with a descriptor that passes its checks takes the lowest free context; SWAIT (R198) passes when none of the
streams it names is running. -/
def Obligations.StreamStartTakesAContext : Prop :=  ∀ (p k : Nat) (w : BitVec 128) (s : State), s.issues p k w = true →
    let x := s.strand p k
    let o := spadOpnd x (fld w 12 20)
    let d := descOf ((s.tile p).opBytes x.base o 64)
    (opcodeOf w = 7 → fld w 35 93 = 0 → s.accsClear p k [{ o := o, len := 64, align := 64 }] = true →
      (∀ st ∈ s.descChecks p k (fld w 32 3) d.1 d.2, st = 0) → d.1.fits x.size = true →
      ∀ c, c < 16 → (s.tile p).ctx c = none → (∀ j, j < c → (s.tile p).ctx j ≠ none) →
      ∃ t, exec (.sstart p k) s = .next t ∧ (t.tile p).ctx c = some { strand := k, uid := x.uid, sid := fld w 32 3, desc := d.1 } ∧
        (∀ j, j ≠ c → (t.tile p).ctx j = (s.tile p).ctx j) ∧ t.strand p k = x.issued ∧ (∀ j, j ≠ k → t.strand p j = s.strand p j) ∧
        s.TileOnly t p ∧
        t.tile p = { s.tile p with
          strands := (t.tile p).strands, ctxs := (t.tile p).ctxs, ceTab := (t.tile p).ceTab
          heals := (t.tile p).heals, eccSt := (t.tile p).eccSt, eccCnt := (t.tile p).eccCnt }) ∧
    (opcodeOf w = 8 → fld w 20 108 = 0 → (∀ i, i < 8 → (fld w 12 8).testBit i = true → (s.tile p).streaming k i = false) →
      ∃ t, exec (.swait p k) s = .next t ∧ s.StrandOnly t p k ∧ t.strand p k = x.issued)

/-- BREAD, BWRITE and BREL (R212, R213, R215, R216, R218, R456). BREAD takes the slot at the read pointer when it is FULL and no returned
slot comes first: it is DRAINING, the pointer moves on, and the register holds its window offset. BWRITE on the tile's own bight takes a
credit and claims the next slot of its sub-ring. BREL gives back the oldest slot of the bight that the strand holds: one it read is EMPTY,
with its credit on the way to the producer, and one it filled is FULL. (That a step takes effect when it issues, behind an arrival of its
strand that still waits, is DEDUCED, notes/assumptions/59.md.) -/
def Obligations.BightStepsTakeAndReleaseSlots : Prop :=  ∀ (p k : Nat) (w : BitVec 128) (d : BightDecl) (s : State), s.issues p k w = true →
    s.bightDecl (fld w 12 8) = some d →
    let x := s.strand p k
    let b := fld w 12 8
    let r := fld w 20 4
    (opcodeOf w = 9 → fld w 24 104 = 0 → r ≠ 15 → d.consumer (s.me p) = true → (∀ j, j < d.slots → (s.slotAt b j).returned = false) →
      (s.slotAt b (s.bight b).rd).st = .full → (s.bight b).rd < d.slots →
      let j := (s.bight b).rd
      ∃ t, exec (.bread p k) s = .next t ∧ (t.slotAt b j).st = .draining ∧ (t.slotAt b j).holder = some (p, k) ∧
        (∀ i, i ≠ j → t.slotAt b i = s.slotAt b i) ∧ (t.bight b).rd = (j + 1) % d.slots ∧
        (t.strand p k).reg r = BitVec.ofInt 32 ((d.slotOff j : Int) - x.base) ∧ (t.strand p k).held = x.held ++ [{ bight := b, slot := j, rd := true }] ∧
        t.strand p k = { x.issued with a := (t.strand p k).a, held := (t.strand p k).held } ∧ (∀ i, i < 15 → i ≠ r → (t.strand p k).reg i = x.reg i) ∧
        State.SynOnly { s with bights := t.bights } t p k w) ∧
    (∀ rank, opcodeOf w = 10 → fld w 24 104 = 0 → r ≠ 15 → d.consumer (s.me p) = true → d.rank (s.me p) = some rank → 0 < s.credit b d rank →
      s.layHeld d x.uid = false →
      let j := s.nextWr b rank
      (s.slotAt b j).st = .empty → d.prod[j % d.nprod]? = some (s.me p) →
      ∃ t, exec (.bwrite p k) s = .next t ∧ t.credit b d rank = s.credit b d rank - 1 ∧ t.nextWr b rank = d.after j ∧
        t.slotAt b j = { st := .filling, prod := some (s.me p), puid := some x.uid } ∧ (∀ i, i ≠ j → t.slotAt b i = s.slotAt b i) ∧
        (t.strand p k).reg r = BitVec.ofInt 32 ((d.slotOff j : Int) - x.base) ∧ (t.strand p k).held = x.held ++ [{ bight := b, slot := j, rd := false }] ∧
        t.strand p k = { x.issued with a := (t.strand p k).a, held := (t.strand p k).held } ∧ (∀ i, i < 15 → i ≠ r → (t.strand p k).reg i = x.reg i) ∧
        State.SynOnly { s with bights := t.bights } t p k w) ∧
    (∀ h, opcodeOf w = 11 → fld w 20 108 = 0 → x.held.find? (fun h => h.bight == b) = some h →
      ∃ t, exec (.brel p k) s = .next t ∧ t.strand p k = { x.issued with held := x.held.erase h, kept := x.kept.erase (b, h.slot) } ∧ (h.rd = true → t.slotAt b h.slot = {}) ∧
        (h.rd = false → d.consumer (s.me p) = true → (s.slotAt b h.slot).st = .filling → (s.slotAt b h.slot).prod = some (s.me p) →
          t.slotAt b h.slot = { s.slotAt b h.slot with st := .full }) ∧
        State.SynOnly { s with bights := t.bights, mesh := t.mesh } t p k w)

/-- HARRIVE (R225) of a strand that is owed no acknowledgement sends its arrival to the scheduler at once, when nothing is before it in the
synchronisation unit; HWAIT (R226) passes when every arrival of the strand on the hitch, one that an earlier step has still to make included,
has been released. -/
def Obligations.HitchStepsArriveAndWait : Prop :=  ∀ (p k : Nat) (w : BitVec 128) (s : State), s.issues p k w = true → (s.hitch (fld w 12 8)).alloc = true →
    let x := s.strand p k
    let h := fld w 12 8
    (opcodeOf w = 12 → fld w 36 92 = 0 → fld w 20 16 ≠ 0 → (s.tile p).unit 5 = [] → x.unacked = 0 →
      (s.tile p).canArrive k h = true →
      ∃ t, exec (.harrive p k) s = .next t ∧
        t.mesh = s.mesh ++ [{ src := .tile p, dst := coreSide p, vc := .ctl, body := .arrive h (fld w 20 16) x.uid p k false }] ∧
        (t.tile p).unit 5 = [{ strand := k, uid := x.uid, ent := { word := w, tok := 0 } }] ∧
        t.strand p k = { x.issued with arrived := Tab.put x.arrived h (Tab.get 0 x.arrived h + 1) } ∧ (∀ j, j ≠ k → t.strand p j = s.strand p j) ∧
        (∀ q, q ≠ p → t.tile q = s.tile q) ∧ t.tile p = { s.tile p with strands := (t.tile p).strands, units := (t.tile p).units } ∧
        t = { s with tiles := t.tiles, mesh := t.mesh }) ∧
    (opcodeOf w = 13 → fld w 20 108 = 0 → Tab.get 1 x.arrived h = 0 →
      (∀ u ∈ (s.tile p).unit 5 ++ (s.tile p).unit 0, u.strand = k → u.arrive.map (·.1) ≠ some h) →
      ∃ t, exec (.hwait p k) s = .next t ∧ s.SynOnly t p k w ∧ t.strand p k = x.issued)

/-- The limit of a wait for a slot, of a BREAD (R217) or of a COMBINE (R144), that finds no slot to take when it expires; and the limit of a wait
for a multicast set that is not complete, or for a share hitch (R71): the task ends with status 0x08, or 0x0F, and the tile's flag is set;
no other tile changes, and of the tile no byte. -/
def Obligations.WaitLimitsEndTheTask : Prop :=  ∀ (p k : Nat) (s : State),
    let x := s.strand p k
    let t0 := s.tile p
    let ends := fun (t : State) (st : Nat) => (t.strand p k).st = .ending ∧ (t.strand p k).status = st ∧ s.OthersKept t p k ∧
      (∀ q, q ≠ p → t.tile q = s.tile q) ∧ (t.tile p).mem = t0.mem ∧ (t.tile p).valid = t0.valid ∧ t.sched = s.sched ∧ t.hold = s.hold ∧ t.chans = s.chans
    (∀ (w : BitVec 128) (b : Nat), x.st = .waiting → x.reason = .slot → x.waitFrom + 100 * max 1 t0.bightLimit.toNat ≤ s.glb.time →
      s.fetch p k = .step { word := w, tok := 0 } false → t0.waituBlocked k (waituOf w) = false →
      ((∃ d, opcodeOf w = 9 ∧ t0.room 5 = true ∧ b = fld w 12 8 ∧ fld w 24 104 = 0 ∧ fld w 20 4 ≠ 15 ∧ s.bightDecl b = some d ∧
          d.consumer (s.me p) = true ∧ s.takeable b d = none) ∨
        ∃ g d, isCombine w = true ∧ t0.room 2 = true ∧ b = g.cbight ∧ fld w 93 35 = 0 ∧ fld w 14 3 < 6 ∧ Tab.get none s.rig.reduce (fld w 86 6) = some g ∧
          g.comb = s.me p ∧ s.bightDecl b = some d ∧ (s.endPass p k).takePartials p k (fld w 86 6) (tokOpnd x (fld w 18 7)) g d = none) →
      ∃ t, exec (.bightTimeout p k) s = .next t ∧ ends t 0x08 ∧ (t.tile p).bightSt = (t0.bightTimedOut k b).bightSt) ∧
    ((x.st = .waiting ∧ x.reason = .mset ∧ x.waitFrom + 100 * max 1 t0.setLimit.toNat ≤ s.glb.time ∧ t0.shadow.owner = some k ∧ t0.shadow.st = .building) ∨
        (x.st = .issuing ∨ x.st = .waiting) ∧
          ∃ y ∈ t0.unit 0, y.strand = k ∧ y.wait = true ∧ y.arrive = none ∧ y.since + 100 * max 1 t0.setLimit.toNat ≤ s.glb.time →
      ∃ t, exec (.setTimeout p k) s = .next t ∧ ends t 0x0F ∧ (t.tile p).arraySt = t0.arraySt ||| 4 ∧
        (t0.shadow.owner = some k → t0.shadow.st = .building → (t.tile p).shadow = {}) ∧
        ∃ e ∈ t.elog.queue, e.event = 0x0010 ∧ e.source = srcTile p ∧ e.info1 = 0x0F)

/-! ## Vector engine -/

/-- A vector operation (R188) whose operands pass the checks: its results, computed from its operands as they were (notes/assumptions/17.md),
are in the scratchpad, every other byte reads as before, and TILE_VEC_STATUS and TILE_QUANT_STATUS take the flags it raised (R190, R94). -/
def Obligations.VectorStepWritesItsResults : Prop :=  ∀ (op : Nat) (c : Nat → Nat → Instr) (plan : Strand → BitVec 128 → VPlan), (op, c, plan) ∈ vectorOps →
  ∀ (p k : Nat) (w : BitVec 128) (s : State), s.memOk = true → s.issues p k w = true → opcodeOf w = 6 → vopOf w = op → vLen w ≠ 0 →
    let x := s.strand p k
    let pl := plan x w
    let rd : Rd := fun o n => (s.tile p).opBytes x.base o n
    let r := pl.run rd pl.count
    (∀ st ∈ pl.checks ++ (pl.more rd).2, st = 0) → s.accsClear p k (pl.accs ++ (pl.more rd).1) = true → r.st = 0 →
    ∃ t, exec (c p k) s = .next t ∧
      (∀ a, (t.tile p).byte a =
        if (match r.inval with | some (o, n) => (wordsOf ((o.abs x.base).getD 0) n).contains (a / 8) | none => false) then 0
        else (writtenAt x.base r.writes a).getD ((s.tile p).byte a)) ∧
      (t.tile p).vecSt = ((s.tile p).vecFlag k r.vec).vecSt ∧ (t.tile p).quantSt = ((s.tile p).quantFlag k r.quant).quantSt ∧
      (t.tile p).unit 3 = (s.tile p).unit 3 ++ [{ strand := k, uid := x.uid, ent := { word := w, tok := 0 } }] ∧
      (∀ u, u ≠ 3 → (t.tile p).unit u = (s.tile p).unit u) ∧
      t.strand p k = { x.issued with nonfin := x.nonfin || r.quant.getLsbD 0 } ∧ (∀ j, j ≠ k → t.strand p j = s.strand p j) ∧
      t.tile p = { s.tile p with
        mem := (t.tile p).mem, valid := (t.tile p).valid, ecc := (t.tile p).ecc, ceTab := (t.tile p).ceTab
        heals := (t.tile p).heals, eccSt := (t.tile p).eccSt, eccCnt := (t.tile p).eccCnt, vecSt := (t.tile p).vecSt
        quantSt := (t.tile p).quantSt, units := (t.tile p).units, strands := (t.tile p).strands } ∧ s.TileOnly t p

/-- The operations on a, b and d element by element (R183, R188) with a BF16 or FP32 destination: element i of d is the conversion of the
operation on elements i of its operands, b being one scalar when `FLAGS`[0] is set. -/
def Obligations.ElementwiseOperationsComputeEachElement : Prop :=  ∀ (c : Nat → Nat → Instr) (op : Nat) (useB useD : Bool) (f : Word → Word → Word → Word → FR),
    (c, op, useB, useD, f) ∈ ([ (.copy, 0, false, false, fun a _ _ _ => (a, 0)), (.add, 1, true, false, fun a b _ _ => addR a b),
      (.sub, 2, true, false, fun a b _ _ => subR a b), (.mul, 3, true, false, fun a b _ _ => mulR a b), (.fma, 4, true, true, fun a b d _ => fmaR a b d),
      (.scale, 5, false, false, fun a _ _ i => mulR a i), (.max, 6, true, false, fun a b _ _ => (fmax a b, 0)),
      (.min, 7, true, false, fun a b _ _ => (fmin a b, 0)), (.exp, 8, false, false, fun a _ _ _ => unaryR fexp a),
      (.log, 9, false, false, fun a _ _ _ => unaryR fln a), (.recip, 10, false, false, fun a _ _ _ => unaryR frecip a),
      (.rsqrt, 11, false, false, fun a _ _ _ => unaryR frsqrt a), (.tanh, 12, false, false, fun a _ _ _ => unaryR ftanh a),
      (.sigmoid, 13, false, false, fun a _ _ _ => unaryR fsigmoid a), (.silu, 14, false, false, fun a _ _ _ => unaryR fsilu a),
      (.gelu, 15, false, false, fun a _ _ _ => unaryR fgelu a), (.pscale, 31, true, false, fun a b _ _ => mulR a b) ]
      : List ((Nat → Nat → Instr) × Nat × Bool × Bool × (Word → Word → Word → Word → FR))) →
  ∀ (p k : Nat) (w : BitVec 128) (s : State), s.memOk = true → s.issues p k w = true → opcodeOf w = 6 → vopOf w = op → vLen w ≠ 0 →
    let x := s.strand p k
    let es := eltSize (vSF w)
    let ed := eltSize (vDF w)
    let n := vLen w
    let nb := if vFlag w 0 then 1 else n
    let src := fun (o : Opnd) (m z i : Nat) => (elements m z ((s.tile p).opBytes x.base o (z * eltSize m))).getD i 0
    anyFmt (vSF w) = true → floatFmt (vDF w) = true →
    s.accsClear p k ([{ o := vA x w, len := n * es }] ++ (if useB then [{ o := vB x w, len := nb * es }] else [])
      ++ (if useD then [{ o := vD x w, len := n * ed }] else []) ++ [{ o := vD x w, len := n * ed, write := true }]) = true →
    ∃ t, exec (c p k) s = .next t ∧ t.strand p k = x.issued ∧ ∀ off, (vD x w).abs x.base = some off →
      (∀ i, i < n → (t.tile p).bytes (off + i * ed) ed =
        (convElt (vDF w) (f (src (vA x w) (vSF w) n i) (if useB then src (vB x w) (vSF w) nb (if vFlag w 0 then 0 else i) else 0)
          (if useD then src (vD x w) (vDF w) n i else 0) (vImmF w)).1).1) ∧
      ∀ a, (a < off ∨ off + n * ed ≤ a) → (t.tile p).byte a = (s.tile p).byte a

/-! ## Lookups and accumulation -/

/-- The stored tables reproduce the dot products that they stand for (R52, R53, R55 to R57, R61). A signed plane is looked up in the half of its
table that is stored, 8 or 128 entries, an index with its top bit set reading the complement's entry negated; a ternary group in entries 0 to
121, the last of them 0, an index above them reading entry 242 − idx negated and one at or above 243 giving 0 and no value; a codeword in
the whole table of 256, where every code is valid. -/
def Obligations.LookupsGiveTheSumsOfTheirGroups : Prop :=  (∀ (mode idx : Nat) (cb : List Byte) (a : List Int), mode = 0 ∨ mode = 1 → a.length = groupWidth mode → idx < 2 ^ groupWidth mode →
    lookupIdx mode idx (slotTable mode cb a) =
      (((List.range a.length).map fun i => if idx.testBit i then a.getD i 0 else - a.getD i 0).foldl (· + ·) 0, false)) ∧
  (∀ (idx : Nat) (cb : List Byte) (a : List Int), a.length = 5 →
    (idx < 243 → lookupIdx 2 idx (slotTable 2 cb a) =
      (((List.range 5).map fun i => ((idx / 3 ^ i % 3 : Nat) - 1 : Int) * a.getD i 0).foldl (· + ·) 0, false)) ∧
    (243 ≤ idx → lookupIdx 2 idx (slotTable 2 cb a) = (0, true))) ∧
  (∀ (mode idx : Nat) (cb : List Byte) (a : List Int), mode = 3 ∨ mode = 4 → idx < 256 →
    lookupIdx mode idx (slotTable mode cb a) =
      (((List.range (groupWidth mode)).map fun j => (cb.getD (groupWidth mode * idx + j) 0).toInt * a.getD j 0).foldl (· + ·) 0, false)) ∧
  (∀ (mode idx : Nat) (tab : List Int), mode = 0 ∨ mode = 1 → idx < 2 ^ (groupWidth mode - 1) → lookupIdx mode idx tab = (tab.getD idx 0, false) ∧
    lookupIdx mode (2 ^ groupWidth mode - 1 - idx) tab = (- tab.getD idx 0, false)) ∧
  (∀ (idx : Nat) (tab : List Int), (idx ≤ 121 → lookupIdx 2 idx tab = (tab.getD idx 0, false)) ∧
    (121 < idx → idx ≤ 242 → lookupIdx 2 idx tab = (- tab.getD (242 - idx) 0, false))) ∧
  ∀ (cb : List Byte) (a : List Int), (slotTable 0 cb a).length = 2 ^ (groupWidth 0 - 1) ∧ (slotTable 1 cb a).length = 128 ∧
    (slotTable 2 cb a).length = 122 ∧ (slotTable 2 cb a).getD 121 0 = 0 ∧ (slotTable 3 cb a).length = 256 ∧ (slotTable 4 cb a).length = 256 ∧
    groupWidth 0 = 4 ∧ groupWidth 1 = 8

/-- Accumulation is exact while every partial total lies within the guard (R122, R123, R131): the values delivered to an entry, eight to a
chunk, and promoted at the end give their sum; and an entry whose total leaves the guard keeps the bound it met. -/
def Obligations.AccumulationIsExactWithinTheGuard : Prop :=  (∀ l : List Int, (∀ n, n ≤ l.length → -(2 ^ 33) < ((l.take n).foldl (· + ·) 0) ∧ ((l.take n).foldl (· + ·) 0) < 2 ^ 33) →
    ((l.foldl AccEntry.deliver {}).promote).total = l.foldl (· + ·) 0 ∧ ((l.foldl AccEntry.deliver {}).promote).guard = false) ∧
  (∀ (e : AccEntry) (l : List Int), e.guard = true → ((l.foldl AccEntry.deliver e).promote).total = e.total ∧
    ((l.foldl AccEntry.deliver e).promote).guard = true)

/-! ## Tables, passes and the epilogue -/

/-- TBUILD (R48 to R61, R73, R89, R91, R179) with operands that pass their checks: the shadow bank is BUILDING for the strand with the
tables and sums of every slot, computed from the token's shifted activations; the active bank is as it was; the strand holds the token's
record.
TMCAST (R67, R68) of a member of a table-share set: the shadow bank is BUILDING for the share with the member's own slots present, and at the
head of the builder the strand arrives on the share hitch. A table multicast packet (R70), or a copy of it (R27), of that share adds its
slot, and the bank is READY when all 16 are present; any other is dropped with MCAST_DROP; either is acknowledged. -/
def Obligations.TableBuildsFillTheShadowBank : Prop :=
  (∀ (p k : Nat) (w : BitVec 128) (s : State) (outl : List Nat) (mapId : Nat) (r : TokRec), s.issues p k w = true → opcodeOf w = 1 →
     let x := s.strand p k
     let e := buildEnt x { word := w, tok := 0 } false
     let t0 := s.tile p
     x.suppressed e.tok = false → (x.rg = none ∨ t0.unitBusy 1 k = false) → x.skipping e.tok = false →
     (isV (fld w 12 3) = true → (t0.codebook (flag w 98)).loading = false) → t0.canClaim k = true → (∀ st ∈ buildChecks t0 e false, st = 0) →
     s.accsClear p k (buildAccs x e) = true →
     (e.o2 = .none_ ∧ outl = [] ∧ mapId = 0 ∨ e.o2 ≠ .none_ ∧ outlierMap (t0.opBytes x.base e.o2 256) (fld w 28 15) = some (outl, mapId)) →
     s.getRecord p k e = some r → s.UnitsSettled p →
     ∃ t, exec (.tbuild p k) s = .next t ∧
       (t.tile p).shadow = {
         st := .building, owner := some k, mode := fld w 12 3, mapId := BitVec.ofNat 16 mapId, present := 0, share := none
         slots := (buildSet t0 x.base e r outl (List.range 16)).1, sums := (buildSet t0 x.base e r outl (List.range 16)).2 } ∧
       (t.tile p).active = t0.active ∧ (t.tile p).row0 = t0.row0 ∧
       (t.tile p).unit 0 = t0.unit 0 ++ [{ strand := k, uid := x.uid, ent := e }] ∧ (∀ u, u ≠ 0 → (t.tile p).unit u = t0.unit u) ∧
       t.strand p k = { x.issued with recs := Tab.put x.recs e.tok r, rg := (t.strand p k).rg, log := (t.strand p k).log, logOver := (t.strand p k).logOver } ∧
       (∀ j, j ≠ k → t.strand p j = s.strand p j) ∧ t0.stepFrame (t.tile p) ∧ (∀ a, (t.tile p).byte a = t0.byte a) ∧
       (t.tile p).acc0 = t0.acc0 ∧ (t.tile p).acc1 = t0.acc1 ∧ (t.tile p).cb0 = t0.cb0 ∧ (t.tile p).cb1 = t0.cb1 ∧
       (x.only = none → (t.tile p).replayCnt = t0.replayCnt) ∧ s.TileOnly t p) ∧
  ((∀ (p k : Nat) (w : BitVec 128) (s : State) (outl : List Nat) (mapId : Nat) (r : TokRec) (num : Nat) (members : List Nat),
     s.issues p k w = true → opcodeOf w = 2 →
     let x := s.strand p k
     let e := buildEnt x { word := w, tok := 0 } false
     let t0 := s.tile p
     let h := fld w 120 8
     let mine := shareSlots members (s.logOf p)
     x.only = none → (x.rg = none ∨ t0.unitBusy 1 k = false) → x.skipping e.tok = false →
     (isV (fld w 12 3) = true → (t0.codebook (flag w 98)).loading = false) → t0.canClaim k = true → (∀ st ∈ buildChecks t0 e true, st = 0) →
     s.shareSet (s.logOf p) = some (num, members) → (s.hitch h).alloc = true → t0.canArrive k h = true → s.accsClear p k (buildAccs x e) = true →
     (e.o2 = .none_ ∧ outl = [] ∧ mapId = 0 ∨ e.o2 ≠ .none_ ∧ outlierMap (t0.opBytes x.base e.o2 256) (fld w 28 15) = some (outl, mapId)) →
     s.getRecord p k e = some r → s.UnitsSettled p →
     let u : UStep := { strand := k, uid := x.uid, ent := e, wait := true, set := (num, fld w 116 4)
                        out := mine.map fun sl => (sl, (buildSet t0 x.base e r outl mine).1.getD sl []) }
     ∃ t, exec (.tmcast p k) s = .next t ∧
       (t.tile p).shadow = {
         st := .building, owner := some k, mode := fld w 12 3, mapId := BitVec.ofNat 16 mapId, present := slotMask mine
         share := some (num, fld w 116 4), slots := (buildSet t0 x.base e r outl mine).1, sums := (buildSet t0 x.base e r outl mine).2 } ∧
       (t.tile p).active = t0.active ∧
       (t0.unit 0 = [] → t.mesh = s.mesh ++ [{ src := .tile p, dst := coreSide p, vc := .ctl, body := .arrive h 1 x.uid p k true }] ∧
         Tab.get 0 (t.strand p k).arrived h = Tab.get 0 x.arrived h + 1 ∧
         (t.tile p).unit 0 = [{ u with since := s.glb.time, left := Tab.get 0 x.arrived h + 1 }]) ∧
       (t0.unit 0 ≠ [] → t.mesh = s.mesh ∧ (t.strand p k).arrived = x.arrived ∧ (t.tile p).unit 0 = t0.unit 0 ++ [{ u with arrive := some (h, 1) }]) ∧
       (∀ j, j ≠ k → t.strand p j = s.strand p j) ∧ t0.stepFrame (t.tile p) ∧ (∀ a, (t.tile p).byte a = t0.byte a) ∧ State.TileOnly { s with mesh := t.mesh } t p) ∧
   (∀ (i p share tag slot tl k uid : Nat) (src : Endpoint) (vc : VC) (entries : List Int) (l : List Endpoint) (s : State),
     s.deliverable i = some { src := src, dst := .tile p, vc := vc, body := .tableSlot share tag slot entries (.step tl k uid), more := l } →
     (s.tile p).deadRouter = false → s.spadOpen p = true →
     let b := (s.tile p).shadow
     let full := b.present ||| BitVec.ofNat 16 (2 ^ slot)
     ∃ t, exec (.tableMulticastPacket i) s = .next t ∧
       t.mesh = (s.unsend i).mesh ++ [{ src := .tile p, dst := .tile tl, vc := .rsp, body := .ack 0 (.step tl k uid) }] ∧
       (l = [] → (s.unsend i).mesh = s.mesh.eraseIdx i) ∧
       (b.st = .building → b.share = some (share, tag) →
         (t.tile p).shadow = { b with slots := b.slots.set slot entries, present := full, st := if full = 0xFFFF then .ready else .building } ∧
         (t.tile p).arraySt = (s.tile p).arraySt) ∧
       (b.st ≠ .building ∨ b.share ≠ some (share, tag) → (t.tile p).shadow = b ∧ (t.tile p).arraySt = (s.tile p).arraySt ||| 2) ∧
       (t.tile p).active = (s.tile p).active ∧ (∀ q, q ≠ p → t.tile q = s.tile q) ∧
       t.tile p = { s.tile p with tb0 := (t.tile p).tb0, tb1 := (t.tile p).tb1, arraySt := (t.tile p).arraySt } ∧
       t = { s with tiles := t.tiles, mesh := t.mesh }))

/-- CBLOAD (R59, R103, R180) takes the source's bytes into its codebook entry, which is LOADING and not valid, unless an earlier load of the
entry still runs. UNIT_STEP_COMPLETE (R59, R68,
R72, R127, R170): the codebook is valid, a table build of its own is READY with all slots present, an accumulator bank whose groups are all
drained is FREE, and the step leaves its unit.
TABLE_SWAP (R76): row 0 selects the READY shadow bank, which is ACTIVE for its strand, and the old bank is in RIPPLE without an owner.
RIPPLE_END (R77): that bank is FREE and row 31 selects the active one. -/
def Obligations.UnitsLoadSwapAndComplete : Prop :=
  ((∀ (p k : Nat) (w : BitVec 128) (s : State), s.issues p k w = true → opcodeOf w = 3 → fld w 50 78 = 0 →
     let x := s.strand p k
     let c := flag w 12
     let n := if flag w 29 then 2048 else 1024
     let src := spadOpnd x (fld w 30 20)
     (∀ y ∈ (s.tile p).unit 0, opcodeOf y.ent.word = 3 ∨ isV (fld y.ent.word 12 3) = false ∨ flag y.ent.word 98 ≠ c) →
     s.accsClear p k [{ o := src, len := n, align := 64 }] = true →
     ∃ t, exec (.cbload p k) s = .next t ∧ (t.tile p).codebook c = (if (s.tile p).loadsInto c = [] then
         { id := BitVec.ofNat 16 (fld w 13 16), valid := false, dim8 := flag w 29, loading := true, data := (s.tile p).opBytes x.base src n }
         else (s.tile p).codebook c) ∧
       (t.tile p).codebook (!c) = (s.tile p).codebook (!c) ∧ t.strand p k = x.issued ∧ (∀ j, j ≠ k → t.strand p j = s.strand p j) ∧
       (t.tile p).unit 0 = (s.tile p).unit 0 ++ [{ strand := k, uid := x.uid, ent := { word := w, tok := 0, o1 := src } }] ∧
       (s.tile p).stepFrame (t.tile p) ∧ (∀ a, (t.tile p).byte a = (s.tile p).byte a) ∧ s.TileOnly t p) ∧
   (∀ (p u : Nat) (x : UStep) (rest : List UStep) (s : State), s.tileRuns p = true → u < 6 → u ≠ 1 → (s.tile p).unit u = x :: rest → x.wait = false →
     x.clamped = false → (u = 2 → ((s.tile p).abank x.bank).clamped = false) → (s.tile p).nothingWaits = true →
     ∃ t, exec (.unitStepComplete p u) s = .next t ∧ (t.tile p).unit u = rest ∧ (∀ v, v ≠ u → (t.tile p).unit v = (s.tile p).unit v) ∧
       (∀ q, q ≠ p → t.tile q = s.tile q) ∧
       (u = 3 ∨ u = 4 ∨ u = 5 → t.tile p = { s.tile p with units := (t.tile p).units } ∧ t = { s with tiles := t.tiles }) ∧
       (u = 0 → opcodeOf x.ent.word = 3 → (s.tile p).loadsInto (flag x.ent.word 12) = [x] → (t.tile p).codebook (flag x.ent.word 12) =
         { (s.tile p).codebook (flag x.ent.word 12) with valid := true, loading := false }) ∧
       (u = 0 → opcodeOf x.ent.word = 1 → (s.tile p).shadow.owner = some x.strand → (s.tile p).shadow.st = .building → (s.tile p).shadow.share = none →
         (t.tile p).shadow = { (s.tile p).shadow with st := .ready, present := 0xFFFF } ∧ (t.tile p).active = (s.tile p).active) ∧
       (u = 2 → fld x.ent.word 12 2 = 0 → (∀ y ∈ rest, y.strand ≠ x.strand) → (∀ g ∈ ((s.tile p).abank x.bank).groups, g.2.drained = true) →
         ((t.tile p).abank x.bank).st = .free ∧ ((t.tile p).abank x.bank).owner = none))) ∧
  (∀ (p : Nat) (s : State), s.tileRuns p = true →
     (∀ (u : UStep) (rest : List UStep), (s.tile p).unit 1 = u :: rest → u.run = false → u.skipped = false → (s.tile p).shadow.st = .ready →
       (s.tile p).shadow.owner = some u.strand → (s.strand p u.strand).skipping u.ent.tok = false →
       ∃ t, exec (.tableSwap p) s = .next t ∧ (t.tile p).row0 = !(s.tile p).row0 ∧ (t.tile p).swapBusy = true ∧
         (t.tile p).active = { (s.tile p).shadow with st := .active } ∧ (t.tile p).shadow = { (s.tile p).active with st := .ripple, owner := none } ∧
         (t.tile p).unit 1 = { u with run := true } :: rest ∧ (∀ v, v ≠ 1 → (t.tile p).unit v = (s.tile p).unit v) ∧ (∀ q, q ≠ p → t.tile q = s.tile q) ∧
         t.tile p = { s.tile p with tb0 := (t.tile p).tb0, tb1 := (t.tile p).tb1, row0 := (t.tile p).row0, swapBusy := true, units := (t.tile p).units } ∧
         t = { s with tiles := t.tiles }) ∧
     ((s.tile p).swapBusy = true → ∃ t, exec (.rippleEnd p) s = .next t ∧ (t.tile p).shadow = {} ∧ (t.tile p).active = (s.tile p).active ∧
       (t.tile p).row31 = (s.tile p).row0 ∧ (t.tile p).row0 = (s.tile p).row0 ∧ (t.tile p).swapBusy = false ∧ (∀ q, q ≠ p → t.tile q = s.tile q) ∧
       t.tile p = { s.tile p with tb0 := (t.tile p).tb0, tb1 := (t.tile p).tb1, row31 := (t.tile p).row31, swapBusy := false } ∧
       t = { s with tiles := t.tiles }))

/-- LPASS (R74, R126, R128, R181) with a set it may look up and an accumulator bank: the segment is queued on the array, a bank that was FREE
is FILLING for the strand, and FIRST installs its group's context and empties its range of entries.
PASS_RETIRE (R47, R122, R129, R131, R134, R174): the head segment's lookups are added to its group's entries and its Σa′; when it is the
last FINAL segment of the bank's groups and nothing has saturated, the bank is READY; when something has, below replay shift 3 and with a
replay log that holds the row group, the tile replays it: the bank is in REPLAY and the token's shift is one more. (That the lookups of
a segment are taken when it retires is the model's reading, notes/assumptions/16.md.) -/
def Obligations.LookupPassesAreQueuedAndRetired : Prop :=
  (∀ (p k : Nat) (w : BitVec 128) (s : State) (set : TableBank) (b : Nat), s.issues p k w = true → opcodeOf w = 4 →
     let x := s.strand p k
     let e := lpassEnt x { word := w, tok := 0 } false
     let t0 := s.tile p
     let bank := t0.abank b
     let base := fld w 86 8 * 32
     let rows := fld w 94 14
     x.suppressed e.tok = false → (x.rg = none ∨ t0.unitBusy 1 k = false ∨ ∃ g, x.rg = some g ∧ g.tok = e.tok) → x.skipping e.tok = false →
     t0.passSet k (flag w 20) = .ok set → t0.passBank k (flag w 22) = some (some b) → (∀ st ∈ lpassChecks w set bank, st = 0) →
     s.accsClear p k [lpassAcc e (passRows w bank)] = true →
     ∃ t, exec (.lpass p k) s = .next t ∧
       (t.tile p).unit 1 = t0.unit 1 ++ [{ strand := k, uid := x.uid, ent := e, run := !flag w 20, bank := b }] ∧
       (∀ u, u ≠ 1 → (t.tile p).unit u = t0.unit u) ∧
       (bank.st ≠ .free → ((t.tile p).abank b).st = bank.st ∧ ((t.tile p).abank b).owner = bank.owner) ∧
       (bank.st = .free → ((t.tile p).abank b).st = .filling ∧ ((t.tile p).abank b).owner = some k ∧ ((t.tile p).abank b).tok = e.tok) ∧
       (flag w 22 = true → Tab.get none (((t.tile p).abank b).groups.map fun c => (c.1, some c.2)) (fld w 17 3) =
           some { base := base, rows := rows, wfmt := fld w 24 4, part := flag w 108 } ∧
         ∀ n, base ≤ n → n < base + rows → Tab.get none (((t.tile p).abank b).entries.map fun c => (c.1, some c.2)) n = none) ∧
       (bank.st ≠ .free → flag w 22 = false → (t.tile p).abank b = bank) ∧
       (t.strand p k).pass = some (fld w 17 3 :: (if flag w 20 then [] else x.pass.getD [])) ∧ (t.strand p k).next = x.next + 1 ∧
       (∀ j, j ≠ k → t.strand p j = s.strand p j) ∧ t0.stepFrame (t.tile p) ∧ (∀ a, (t.tile p).byte a = t0.byte a) ∧
       (t.tile p).active = t0.active ∧ (t.tile p).shadow = t0.shadow ∧ s.TileOnly t p) ∧
  (∀ (p : Nat) (u : UStep) (rest : List UStep) (c : GroupCtx) (s : State), s.tileRuns p = true → (s.tile p).unit 1 = u :: rest → u.run = true →
     u.skipped = false → (s.strand p u.strand).skipping u.ent.tok = false →
     let t0 := s.tile p
     let x := s.strand p u.strand
     let w := u.ent.word
     let bank := t0.abank u.bank
     let c1 := { c with suma := if u.ent.sum then c.suma + t0.active.sums.foldl (· + ·) 0 else c.suma, final := c.final || flag w 23 }
     let o := runSegment (fun a n => t0.opBytes x.base (u.ent.o1.plus a) n) w t0.active.slots c bank.entries
     let bank1 := { bank with groups := Tab.put bank.groups (fld w 17 3) c1, entries := o.entries }
     Tab.get none (bank.groups.map fun g => (g.1, some g.2)) (fld w 17 3) = some c → o.invalid = none → o.anyGuard = false → u.bank < 2 →
     ∃ t, exec (.passRetire p) s = .next t ∧ (t.tile p).unit 1 = rest ∧ (∀ v, v ≠ 1 → (t.tile p).unit v = t0.unit v) ∧
       ((flag w 23 = false ∨ bank1.allFinal = false) → (t.tile p).abank u.bank = bank1 ∧ t.strand p u.strand = x) ∧
       (flag w 23 = true → bank1.allFinal = true → bank1.saturated = false →
         (t.tile p).abank u.bank = { bank1 with st := .ready } ∧ t.strand p u.strand = { x with rg := none, log := [], logOver := false }) ∧
       (flag w 23 = true → bank1.allFinal = true → bank1.saturated = true → (bank1.groups.all fun g => !g.2.part) = true → x.shiftOf bank.tok < 3 →
         x.log ≠ [] → x.logOver = false →
         ((t.tile p).abank u.bank).st = .replay ∧ (t.tile p).replayCnt = t0.replayCnt + 1 ∧ (t.strand p u.strand).replays = x.replays + 1 ∧
         (∀ r, Tab.get none (x.recs.map fun r => (r.1, some r.2)) bank.tok = some r → (t.strand p u.strand).shiftOf bank.tok = r.shift + 1)) ∧
       (t.tile p).injectCyc = t0.injectCyc + BitVec.ofNat 32 (ceilDiv (fld w 36 9) (blocksPerCycle (fld w 15 2 + 1))) ∧
       (∀ a, (t.tile p).byte a = t0.byte a) ∧ (∀ j, j ≠ u.strand → t.strand p j = s.strand p j) ∧ s.TileOnly t p)

/-- OUTPUT (R129, R149 to R155, R182) of one group, or of two for a paired function or a K8 pair, to the scratchpad: the dequantised outputs
and their side record stand at the destination, the bank is DRAINING and its groups are marked as drained.
PARTIAL (R140, R213, R218) of a part of a reduction group on this node: with a credit of the combining bight it claims the next slot of
its sub-ring, sends its records and then FULL, notes the token as sent, and leaves the bank DRAINING. -/
def Obligations.OutputsLeaveTheirBank : Prop :=
  (∀ (p k b : Nat) (w : BitVec 128) (s : State) (ga gb : GroupCtx) (r : TokRec), s.memOk = true → s.issues p k w = true → opcodeOf w = 5 →
     fld w 12 2 = 0 →
     let x := s.strand p k
     let tok := tokOpnd x (fld w 18 7)
     let bank := (s.tile p).abank b
     let ra := s.totals bank ga
     let rb := if twoGroups w then (ra.2.totals bank gb).1 else []
     let acc := if flag w 92 then (ra.1.zip rb).map (fun q => q.1 + 16 * q.2) else ra.1
     (s.tile p).drainBank k tok = some (some b) → b < 2 → bank.group (fld w 25 3) = some ga →
     (if twoGroups w then bank.group (fld w 28 3) else some ga) = some gb → gb.rows = ga.rows →
     Tab.get none (x.recs.map fun r => (r.1, some r.2)) tok = some r → s.epiClear p k w ga.wfmt acc.length = true →
     ∃ t, exec (.output p k) s = .next t ∧
       s.epiLeaves t p k w r.shift bank.clamped (epiValues (s.tile p) x w ga.wfmt r.scale r.shift acc ga.suma rb gb.suma) ∧
       (t.tile p).abank b = bank.drain (epiGroups w) ∧
       (t.tile p).unit 2 = (s.tile p).unit 2 ++ [{ strand := k, uid := x.uid, ent := { word := w, tok := 0 }, bank := b }] ∧
       t.strand p k = x.issued ∧ (∀ j, j ≠ k → t.strand p j = s.strand p j) ∧ (s.tile p).stepFrame (t.tile p) ∧ s.TileOnly t p) ∧
  (∀ (p k b rank : Nat) (w : BitVec 128) (s : State) (g : RedGroup) (d : BightDecl), s.issues p k w = true → opcodeOf w = 5 → fld w 12 2 = 1 →
     let x := s.strand p k
     let tok := tokOpnd x (fld w 18 7)
     let bank := (s.tile p).abank b
     let red := fld w 86 6
     let pr := s.partials bank (g.parts.idxOf (s.me p)) red tok (x.shiftOf tok)
       (((Tab.get none (x.recs.map fun r => (r.1, some r.2)) tok).map (·.scale)).getD 0)
     let j := s.nextWr g.cbight rank
     x.suppressed tok = false → (s.tile p).drainBank k tok = some (some b) → b < 2 → fld w 93 35 = 0 → fld w 14 3 < 6 → twoGroups w = false →
     (bank.group (fld w 25 3)).isSome = true → Tab.get none s.rig.reduce red = some g → g.parts.contains (s.me p) = true →
     s.bightDecl g.cbight = some d → d.rank (s.me p) = some rank → d.cnode = s.node → d.consumer (s.me p) = false →
     pr.1.length ≤ d.slotsz * 64 → 0 < s.credit g.cbight d rank → s.layHeld d x.uid = false →
     x.ackRoom (piecesOf 256 (d.slotOff j) pr.1.length) = true →
     ∃ t, exec (.partialSend p k) s = .next t ∧ t.credit g.cbight d rank = s.credit g.cbight d rank - 1 ∧ t.nextWr g.cbight rank = d.after j ∧
       (∃ l, t.mesh = s.mesh ++ [{ src := .tile p, dst := s.tileEnd d.ctile, vc := .pst, body := .slot .claim g.cbight j (s.me p) x.uid (.msg p x.uid none) }]
         ++ l ++ [{ src := .tile p, dst := s.tileEnd d.ctile, vc := .pst, body := .slot .full g.cbight j (s.me p) x.uid (.msg p x.uid none) }] ∧
         (t.strand p k).unacked = x.unacked + l.length ∧
         (l.flatMap fun q => match q.body with | .spadWrite data _ _ => data | _ => []) = bytesAt (d.slotOff j) pr.1) ∧
       (∀ y, s.task x.uid = some y → ∃ z, t.task x.uid = some z ∧ (red, tok) ∈ z.sent ∧ red ∈ z.reds) ∧
       ((t.tile p).abank b).st = .draining ∧
       (t.tile p).unit 2 = (s.tile p).unit 2 ++ [{ strand := k, uid := x.uid, ent := { word := w, tok := 0 }, bank := b }] ∧
       (t.strand p k).next = x.next + 1 ∧ (∀ i, i ≠ k → t.strand p i = s.strand p i) ∧ (∀ q, q ≠ p → t.tile q = s.tile q) ∧
       (t.tile p).mem = (s.tile p).mem ∧ t = { s with tiles := t.tiles, bights := t.bights, mesh := t.mesh, sched := t.sched, fresh := t.fresh })

/-- COMBINE (R137, R141, R142) with the records of every part in the slots it takes, of one group or, for a paired function or a K8 pair, of
two, equal in shift and agreeing, and no sum outside its range: the token is accepted, the sums of the parts' totals pass through the
epilogue to the scratchpad, and the slots are EMPTY again. -/
def Obligations.CombineAcceptsAndSums : Prop :=  ∀ (p k : Nat) (w : BitVec 128) (s s1 : State) (g : RedGroup) (d : BightDecl) (js keep : List Nat) (la lb : List PartRec),
    s.memOk = true → s.issues p k w = true → opcodeOf w = 5 → fld w 12 2 = 2 →
    let x := s.strand p k
    let tok := tokOpnd x (fld w 18 7)
    let red := fld w 86 6
    let sh := (la.map (·.shift)).headD 0
    let wf := (la.map (·.wfmt)).headD 0
    let sums := fun (l : List PartRec) => (combineRows l).map (·.1)
    let acc := if flag w 92 then ((sums la).zip (sums lb)).map (fun q => q.1 + 16 * q.2) else sums la
    let records := fun (grp : Nat) => js.map fun j => findPartial ((s.tile p).bytes (d.slotOff j) (d.slotsz * 64)) grp 8
    fld w 93 35 = 0 → fld w 14 3 < 6 → Tab.get none s.rig.reduce red = some g → g.comb = s.me p → s.bightDecl g.cbight = some d →
    (s.endPass p k).takePartials p k red tok g d = some (s1, js, keep) →
    (∀ j ∈ js, (s.tile p).blocked (d.slotOff j) (d.slotsz * 64) = false ∧ (s.tile p).poisonedIn (d.slotOff j) (d.slotsz * 64) = false) →
    combineCheck (records (fld w 25 3)) red tok g.n = (la, [0, 0]) →
    (twoGroups w = true ∧ combineCheck (records (fld w 28 3)) red tok g.n = (lb, [0, 0]) ∧ (lb.map (·.rows)).headD 0 = (la.map (·.rows)).headD 0 ∨
      twoGroups w = false ∧ lb = []) →
    (∀ r ∈ combineRows la ++ combineRows lb, r.2.2.1 = false) → s.epiClear p k w wf acc.length = true →
    (∀ a ∈ (Dest.spad (spadOpnd x (fld w 32 20))).accs acc.length (if flag w 17 then 4 else 2), ∀ off, a.o.abs x.base = some off →
      ∀ v ∈ wordsOf off a.len, s.regionAt p (8 * v) = none) →
    ∃ t, exec (.combine p k) s = .next t ∧
      s.epiLeaves t p k w sh false
        (epiValues (s.tile p) x w wf ((la.map (·.tscale)).headD 0) sh acc (combineSuma la) (sums lb) (combineSuma lb)) ∧
      (∀ n, n < (sums la).length → (sums la).getD n 0 = (la.map fun q => q.totals.getD n 0).foldl (· + ·) 0) ∧
      (∀ j ∈ js, t.slotAt g.cbight j = {}) ∧
      (∀ part ∈ g.parts, part.1 = s.node → { src := .tile p, dst := coreSide p, vc := .ctl, body := .verdict red tok .accept part } ∈ t.mesh) ∧
      (t.tile p).unit 2 = (s.tile p).unit 2 ++ [{ strand := k, uid := x.uid, ent := { word := w, tok := 0 } }] ∧
      (t.strand p k).next = x.next + 1 ∧ (∀ i, i ≠ k → t.strand p i = s.strand p i) ∧ (∀ q, q ≠ p → t.tile q = s.tile q) ∧ t.sched = s.sched

/-! ## Streams and packets that reach a tile -/

/-- A request of the stream engine (R23, R27, R193, R195, R196, R199, R200, R203, R301): the context whose turn it is and that can go on, its
group's bandwidth allowing, sends one read of the block of its next dense byte, or one write of its next bytes, to the channel, the
scratchpad, the host interface or the grommet port of its address, or one multicast packet to the destinations of its group, and moves on
by the bytes that it covers. -/
def Obligations.StreamRequestSendsOnePacket : Prop :=  ∀ (p i : Nat) (x : StreamCtx) (s : State), s.tileRuns p = true → i < 16 →
    let c := ((s.tile p).rr + 1 + i) % 16
    let d := x.desc
    let z := s.strand p x.strand
    let n := d.run (s.slotBytes d) x.pos (d.total - x.pos) 0
    let who := Requester.stream p x.strand x.uid c x.pos n
    let goes := fun (t : State) (dest : Endpoint) (l : List Endpoint) (vc : VC) (b : Body) =>
      t.mesh = s.mesh ++ [{ src := .tile p, dst := dest, vc := vc, body := b, more := l }]
    let only := fun (t : State) => (t.tile p).rr = c ∧ (∀ j, j ≠ x.strand → t.strand p j = s.strand p j) ∧ (∀ q, q ≠ p → t.tile q = s.tile q) ∧
      (∀ a, (t.tile p).byte a = (s.tile p).byte a) ∧ t = { s with tiles := t.tiles, mesh := t.mesh }
    (∀ j, j < i → (s.tile p).ctx (((s.tile p).rr + 1 + j) % 16) = none) → (s.tile p).ctx c = some x → x.spent = false →
    s.ctxSlot p c x = some (.ok (s, x)) → (s.spend p (s.extBytes z x n)).isSome = true →
    (d.dir = false → (s.tile p).outReads < 64 →
      let a := ((d.gaddr : Int) + d.pat x.pos) / 64 * 64
      ∀ tg, s.taskTarget z.lay z.func a false = .ok tg → (∀ q, tg = .peer q → (s.routeTo q).isSome = true) →
      ∃ t, exec (.streamRequest p) s = .next t ∧
        (∀ b f, tg = .dram b f → goes t (.chan (s.exp.locate b).1) [] .req (.read b 64 f (d.cls == 1) who)) ∧
        (∀ l off, tg = .spad l off → goes t (s.tileEnd l) [] .req (.spadRead off 64 who)) ∧
        (tg = .host → goes t (if d.cls = 1 then .chan (s.hostChan a.toNat).1 else hostSide a.toNat) [] .req (.read a.toNat 64 z.func (d.cls == 1) who)) ∧
        (∀ q r, tg = .peer q → s.routeTo q = some r → goes t (.port r) [] .req (.read a.toNat 64 z.func (d.cls == 1) who)) ∧
        (t.tile p).ctx c = some { x with pos := x.pos + n, out := x.out + 1 } ∧ (t.tile p).outReads = (s.tile p).outReads + 1 ∧
        t.strand p x.strand = { z with outRd := z.outRd + 1 } ∧ only t) ∧
    (d.dir = true → d.dbight = false → (∀ v ∈ d.localWords z.base x.pos n, (s.tile p).wordEcc v = .clean) →
      (d.mcast = false → z.ackRoom 1 = true →
        let a := (d.gaddr : Int) + d.pat x.pos
        let bytes := fun (o : Nat) => (List.range n).map fun j =>
          (((d.pat (x.pos + j) - d.pat x.pos) + o).toNat, (s.tile p).byte (z.base + d.loc + x.pos + j))
        ∀ tg, s.taskTarget z.lay z.func a true = .ok tg → (∀ q, tg = .peer q → (s.routeTo q).isSome = true) →
        ∃ t, exec (.streamRequest p) s = .next t ∧
          (∀ b f, tg = .dram b f → goes t (.chan (s.exp.locate b).1) [] .pst (.write b (bytes b) f (some (s.me p)) false who)) ∧
          (∀ l off, tg = .spad l off → goes t (s.tileEnd l) [] .pst (.spadWrite (bytes off) (some (s.me p)) who)) ∧
          (tg = .host → goes t (hostSide a.toNat) [] .pst (.write a.toNat (bytes a.toNat) z.func (some (s.me p)) false who)) ∧
          (∀ q r, tg = .peer q → s.routeTo q = some r → goes t (.port r) [] .pst (.write a.toNat (bytes a.toNat) z.func (some (s.me p)) false who)) ∧
          (t.tile p).ctx c = some { x with pos := x.pos + n, unacked := x.unacked + 1 } ∧
          t.strand p x.strand = { z with unacked := z.unacked + 1 } ∧ only t) ∧
      (∀ (g : McastGroup) (e : Endpoint) (l : List Endpoint), d.mcast = true → Tab.get none s.rig.mcast d.mgroup = some g →
        z.ackRoom g.dest.length = true → g.dest.map s.tileEnd = e :: l →
        (∀ q ∈ g.dest, z.func = 0 ∨ ∃ st, Tab.get none s.rig.place q = some (z.lay, st)) →
        ∃ t, exec (.streamRequest p) s = .next t ∧
          goes t e l .pst (.spadWrite ((List.range n).map fun j =>
            (d.gaddr + (x.pos + j), (s.tile p).byte (z.base + ((d.loc : Int) + d.pat (x.pos + j)).toNat))) (some (s.me p)) who) ∧
          (t.tile p).ctx c = some { x with pos := x.pos + n, unacked := x.unacked + g.dest.length } ∧
          t.strand p x.strand = { z with unacked := z.unacked + g.dest.length } ∧ only t))

/-- A scratchpad write, or a multicast packet's copy, that reaches a tile that takes accesses (R26, R27, R29, R158, R163, R204, R219, R368, R378)
stores its bytes, where each word exists, may be written by the producer and is neither poisoned nor being read again, and is
acknowledged; every other byte reads as before. One whose payload is marked bad stores nothing and is acknowledged with status 0x01
(R362), and one that reaches another tile with 0x0C. A read of clear words inside the usable size (R29, R364) is answered with the bytes.
A read response to a running stream that loads its window (R193, R196, R200) puts the block's bytes at their places and takes one
outstanding read from the stream, the strand and the tile; a write acknowledgement with status 0 takes one unacknowledged write from its
strand (R205), and one with another status ends the task with it (R204). -/
def Obligations.TilePacketsTakeEffect : Prop :=
  (∀ (i p : Nat) (src : Endpoint) (vc : VC) (s : State), (s.tile p).deadRouter = false →
     (∀ (data : List (Nat × Byte)) (prod : Option (Nat × Nat)) (tl k uid : Nat) (l : List Endpoint) (bad : Bool),
       s.deliverable i = some { src := src, dst := .tile p, vc := vc, body := .spadWrite data prod (.step tl k uid), more := l, bad := bad } →
       s.spadOpen p = false ∨ bad = true →
       exec (.scratchpadWrite i) s = .next { s with mesh := (s.unsend i).mesh ++
         [{ src := .tile p, dst := .tile tl, vc := .rsp, body := .ack (if s.spadOpen p then 1 else 0x0C) (.step tl k uid) }] }) ∧
     (∀ (data : List (Nat × Byte)) (prod : Option (Nat × Nat)) (tl k uid : Nat) (l : List Endpoint), s.memOk = true → s.spadOpen p = true →
       s.deliverable i = some { src := src, dst := .tile p, vc := vc, body := .spadWrite data prod (.step tl k uid), more := l } →
       (s.tile p).writeBlocked data = false →
       (∀ e ∈ data, 8 * (e.1 / 8) < (s.tile p).usable ∧ s.slotRule p (8 * (e.1 / 8)) prod = true ∧ (s.tile p).wordEcc (e.1 / 8) = .clean) →
       ∃ t, exec (.scratchpadWrite i) s = .next t ∧
         (∀ a, (t.tile p).byte a = ((data.reverse.find? fun e => e.1 == a).map (·.2)).getD ((s.tile p).byte a)) ∧
         t.mesh = (s.unsend i).mesh ++ [{ src := .tile p, dst := .tile tl, vc := .rsp, body := .ack 0 (.step tl k uid) }] ∧
         (∀ q, q ≠ p → t.tile q = s.tile q) ∧
         t.tile p = { s.tile p with mem := (t.tile p).mem, valid := (t.tile p).valid, ecc := (t.tile p).ecc } ∧
         t = { s with tiles := t.tiles, mesh := t.mesh }) ∧
     (∀ (off len tl k uid c pos n : Nat), s.spadOpen p = true →
       s.deliverable i = some { src := src, dst := .tile p, vc := vc, body := .spadRead off len (.stream tl k uid c pos n) } →
       off + len ≤ (s.tile p).usable → (∀ v ∈ wordsOf off len, (s.tile p).wordEcc v = .clean) →
       exec (.scratchpadRead i) s = .next { s with mesh := s.mesh.eraseIdx i ++
         [{ src := .tile p, dst := .tile tl, vc := .rsp, body := .response ((s.tile p).bytes off len) 0 (.stream tl k uid c pos n) }] })) ∧
  (∀ (i p k uid : Nat) (src : Endpoint) (vc : VC) (s : State), (s.strand p k).uid = uid → (s.strand p k).st = .issuing ∨ (s.strand p k).st = .waiting →
     (∀ (c pos n : Nat) (data : List Byte) (x : StreamCtx), s.memOk = true →
       s.deliverable i = some { src := src, dst := .tile p, vc := vc, body := .response data 0 (.stream p k uid c pos n) } →
       (s.tile p).ctx c = some x → x.uid = uid → x.strand = k → x.stopped = false → x.desc.dbight = false →
       let a0 := (s.strand p k).base + x.desc.loc + pos
       (s.tile p).writeBlocked (s.landing p x pos n data) = false →
       (∀ v ∈ wordsOf a0 n, 8 * v < (s.tile p).usable ∧ s.slotRule p (8 * v) (some (s.me p)) = true ∧ (s.tile p).wordEcc v = .clean) →
       ∃ t, exec (.readResponse i) s = .next t ∧
         (∀ j, j < n → (t.tile p).byte (a0 + j) = data.getD (((x.desc.gaddr : Int) + x.desc.pat (pos + j)) % 64).toNat 0) ∧
         (∀ a, (a < a0 ∨ a0 + n ≤ a) → (t.tile p).byte a = (s.tile p).byte a) ∧
         (t.tile p).ctx c = (if x.spent ∧ x.out ≤ 1 ∧ x.unacked = 0 then none else some { x with out := x.out - 1 }) ∧
         t.strand p k = { s.strand p k with outRd := (s.strand p k).outRd - 1 } ∧ (t.tile p).outReads = (s.tile p).outReads - 1 ∧
         (∀ j, j ≠ k → t.strand p j = s.strand p j) ∧ (∀ q, q ≠ p → t.tile q = s.tile q) ∧
         t = { s with tiles := t.tiles, mesh := s.mesh.eraseIdx i }) ∧
     (∀ st, s.deliverable i = some { src := src, dst := .tile p, vc := vc, body := .ack st (.step p k uid) } → (s.tile p).nothingWaits = true →
       ∃ t, exec (.writeAck i) s = .next t ∧
         (st = 0 → t.strand p k = { s.strand p k with unacked := (s.strand p k).unacked - 1 } ∧
           State.StrandOnly { s with mesh := s.mesh.eraseIdx i } t p k) ∧
         (st ≠ 0 → (t.strand p k).st = .ending ∧ (t.strand p k).status = st ∧ (t.strand p k).unacked = (s.strand p k).unacked - 1 ∧
           (∀ j, j ≠ k → t.strand p j = s.strand p j) ∧ (∀ q, q ≠ p → t.tile q = s.tile q))))

/-- Slot messages and credits (R213, R215, R220): CLAIM makes an EMPTY slot FILLING for the producer of its sub-ring, FULL makes it FULL,
ABANDON makes it EMPTY and sends its credit back, and a credit that returns adds one, up to the depth of the sub-ring. -/
def Obligations.SlotMessagesMoveTheSlot : Prop :=  ∀ (i p : Nat) (src : Endpoint) (vc : VC) (s : State), (s.tile p).deadRouter = false →
    (∀ (m : SlotMsg) (b j tl uid : Nat) (prod : Nat × Nat) (d : BightDecl) (sid : Option (Nat × Nat)), s.spadOpen p = true → s.bightDecl b = some d →
      s.deliverable i = some { src := src, dst := .tile p, vc := vc, body := .slot m b j prod uid (.msg tl uid sid) } →
      let sl := s.slotAt b j
      (m = .claim → sl.st = .empty → d.prod[j % d.nprod]? = some prod → ∃ t, exec (.claim i) s = .next t ∧
        t.slotAt b j = { st := .filling, prod := some prod, puid := some uid } ∧ (∀ l, l ≠ j → t.slotAt b l = s.slotAt b l) ∧
        (∀ a, a ≠ b → t.bight a = s.bight a) ∧ t = { s with bights := t.bights, mesh := s.mesh.eraseIdx i }) ∧
      (m = .full → sl.st = .filling → sl.prod = some prod → ∃ t, exec (.fullUpdate i) s = .next t ∧
        t.slotAt b j = { sl with st := .full } ∧ (∀ l, l ≠ j → t.slotAt b l = s.slotAt b l) ∧
        (∀ a, a ≠ b → t.bight a = s.bight a) ∧ t = { s with bights := t.bights, mesh := s.mesh.eraseIdx i }) ∧
      (m = .abandon → sl.st = .filling → sl.prod = some prod → ∃ t, exec (.abandon i) s = .next t ∧
        t.slotAt b j = {} ∧ (∀ l, l ≠ j → t.slotAt b l = s.slotAt b l) ∧ (∀ a, a ≠ b → t.bight a = s.bight a) ∧
        ((d.prod.getD (j % d.nprod) (0, 0)).1 = s.node → t.mesh = s.mesh.eraseIdx i ++ [
          { src := .tile (s.physOf d.ctile), dst := s.tileEnd (d.prod.getD (j % d.nprod) (0, 0)).2, vc := .pst, body := .credit b (j % d.nprod) }]) ∧
        t = { s with bights := t.bights, mesh := t.mesh })) ∧
    (∀ (b r : Nat) (d : BightDecl), s.bightDecl b = some d →
      s.deliverable i = some { src := src, dst := .tile p, vc := vc, body := .credit b r } →
      ∃ t, exec (.creditReturn i) s = .next t ∧ t.credit b d r = min d.depth (s.credit b d r + 1) ∧
        (∀ q, q ≠ r → t.credit b d q = s.credit b d q) ∧ (∀ j, t.slotAt b j = s.slotAt b j) ∧ (∀ a, a ≠ b → t.bight a = s.bight a) ∧
        t = { s with bights := t.bights, mesh := s.mesh.eraseIdx i })

/-! ## Scheduler -/

/-- Hitches at the scheduler (R222 to R228): an arrival within the target is counted, the one that reaches it releases the round, and one
past it sets OVER; one on a hitch that the rig does not allocate ends its task with status 0x06, and one that an earlier execution of the
task has made in the round is not counted again. A release reaches its strand, and a TMCAST that waited for its own round sends its share
(R68). A verdict (R142, R143) is noted by the part it names: the last that an ended part awaits retires it, with status 0x00, or with 0x04
after a CLAMP, and a REPLAY makes it ready again for its token. -/
def Obligations.ArrivalsReleasesAndVerdicts : Prop :=  ∀ (i : Nat) (src : Endpoint) (vc : VC) (side : Bool) (s : State),
    (∀ (h n uid p k : Nat) (tm : Bool) (y : Task), s.deliverable i = some { src := src, dst := .core side, vc := vc, body := .arrive h n uid p k tm } →
      let x := s.hitch h
      let ends := fun (t : State) (st : Nat) => (s.strand p k).uid = uid → (s.strand p k).st = .issuing → (t.strand p k).st = .ending ∧ (t.strand p k).status = st
      (x.alloc = false → ∃ t, exec (.hitchArrival i) s = .next t ∧ ends t 0x06 ∧ (∀ j, t.hitch j = s.hitch j) ∧ t.sched.tasks = s.sched.tasks) ∧
      (s.task uid = some y → x.alloc = true → y.oldArr.contains (h, x.gen) = true → ∃ t, exec (.hitchArrival i) s = .next t ∧
        t.task uid = some { y with oldArr := y.oldArr.erase (h, x.gen), arrivals := y.arrivals ++ [(h, x.gen)] } ∧
        t = { s with mesh := s.mesh.eraseIdx i, sched := { s.sched with tasks := t.sched.tasks } }) ∧
      (s.task uid = some y → x.alloc = true → y.oldArr.contains (h, x.gen) = false → x.target < 65536 →
        (x.count.toNat + n < x.target → ∃ t, exec (.hitchArrival i) s = .next t ∧ t.hitch h = { x with count := x.count + BitVec.ofNat 16 n } ∧
          (∀ j, j ≠ h → t.hitch j = s.hitch j) ∧ t.task uid = some { y with arrivals := y.arrivals ++ [(h, x.gen)] } ∧
          t = { s with mesh := s.mesh.eraseIdx i, sched := { s.sched with hitches := t.sched.hitches, tasks := t.sched.tasks } }) ∧
        (x.count.toNat + n = x.target → y.st = .running p k → ∃ t, exec (.hitchArrival i) s = .next t ∧ t.hitch h = { x with gen := x.gen + 1, count := 0 } ∧
          (∀ j, j ≠ h → t.hitch j = s.hitch j) ∧
          { src := coreSide p, dst := .tile p, vc := .ctl, body := .release h x.gen p k uid } ∈ t.mesh) ∧
        (x.target < x.count.toNat + n → ∃ t, exec (.hitchArrival i) s = .next t ∧ t.hitch h = { x with ovf := true } ∧
          (∀ j, j ≠ h → t.hitch j = s.hitch j) ∧ ends t 0x0B ∧ t.sched.tasks = s.sched.tasks))) ∧
    (∀ (h p q k uid : Nat) (g : BitVec 16), s.deliverable i = some { src := src, dst := .tile p, vc := vc, body := .release h g q k uid } →
      (s.strand p k).uid = uid → (s.strand p k).st ≠ .free →
      let z := { s.strand p k with arrived := Tab.put (s.strand p k).arrived h (Tab.get 0 (s.strand p k).arrived h - 1) }
      let kept := fun (t : State) => (∀ j, j ≠ k → t.strand p j = s.strand p j) ∧ (∀ r, r ≠ p → t.tile r = s.tile r) ∧
        (∀ v, v ≠ 0 → (t.tile p).unit v = (s.tile p).unit v) ∧
        t.tile p = { s.tile p with strands := (t.tile p).strands, units := (t.tile p).units } ∧ t = { s with tiles := t.tiles, mesh := t.mesh }
      ((∀ u ∈ (s.tile p).unit 0, u.strand = k → u.wait = true → u.arrive = none → fld u.ent.word 120 8 ≠ h) → s.pumpBld p = s →
        ∃ t, exec (.hitchRelease i) s = .next t ∧ t.strand p k = z ∧ (t.tile p).unit 0 = (s.tile p).unit 0 ∧ t.mesh = s.mesh.eraseIdx i ∧ kept t) ∧
      (∀ (u : UStep) (rest : List UStep) (e : Endpoint) (l : List Endpoint), (s.tile p).unit 0 = u :: rest → u.strand = k → u.wait = true → u.arrive = none →
        fld u.ent.word 120 8 = h → u.left ≤ 1 → u.out ≠ [] →
        let others := (((s.shareSet (s.logOf p)).map (·.2)).getD []).filter (· != s.logOf p)
        others.map s.tileEnd = e :: l → (s.strand p k).ackRoom (u.out.length * others.length) = true →
        ∃ t, exec (.hitchRelease i) s = .next t ∧ t.strand p k = { z with unacked := z.unacked + u.out.length * others.length } ∧
          ((t.tile p).unit 0).head? = some { u with left := u.left - 1, wait := false, out := [] } ∧
          t.mesh = s.mesh.eraseIdx i ++ (u.out.map fun o =>
            { src := .tile p, dst := e, vc := .pst, body := .tableSlot u.set.1 u.set.2 o.1 o.2 (.step p k u.uid), more := l }) ∧ kept t)) ∧
    (∀ (red tok u : Nat) (v : VerdictKind) (part : Nat × Nat) (g : RedGroup) (y : Task),
      s.deliverable i = some { src := src, dst := .core side, vc := vc, body := .verdict red tok v part } → Tab.get none s.rig.reduce red = some g →
      part ∈ g.parts → part.1 = s.node → s.taskList = [(u, y)] → s.task u = some y → y.ltile = part.2 → y.sent = [(red, tok)] → y.verds = [] →
      y.aborted = [] →
      (∀ p k, y.st = .running p k → v ≠ .abort → ∃ t, exec (.verdict (.packet i)) s = .next t ∧
        ∃ z, t.task u = some z ∧ z.verds = [(red, tok, v.code)] ∧ z.st = y.st ∧ z.sent = y.sent) ∧
      (y.st = .verdicts → (v = .accept ∨ v = .clamp ∨ (v = .abort ∧ y.reds.contains red = true)) → ∃ t, exec (.verdict (.packet i)) s = .next t ∧
        ∃ z, t.task u = some z ∧ z.st = .retired ∧ z.status = (if v = .clamp then 4 else 0) ∧
          ∃ r ∈ (t.queue y.queue).recs, r.tag = y.tag ∧ r.status = z.status) ∧
      (y.st = .verdicts → v = .replay → ∃ t, exec (.verdict (.packet i)) s = .next t ∧
        ∃ z, t.task u = some z ∧ z.st = .waiting ∧ z.only = some [tok] ∧ z.replays = y.replays + 1 ∧ z.sent = [] ∧ z.verds = [] ∧
          Tab.get 0 z.shifts tok = Tab.get 0 y.shifts tok + 1))

/-- Doorbells (R265, R270 to R274), written whole to a queue of the function: a submission pointer within the ring sets `TAIL`, a
completion pointer no further than the records posted sets `CQ_HEAD`; any other puts the queue in ERROR with its reason, the first being
kept, though a flush under way goes on, and an entry whose packet-level record is still to post stays (R285). One to another function's
queue, or to a DISABLED one, is dropped and logged.
Queue registers (R267, R269, R306) of the queue a function selects and owns. ENABLE 1 sets the pointers to 0, and makes a DISABLED queue
ACTIVE; ENABLE 0 on one of whose tasks none remains makes it DISABLED; a flush retires its waiting tasks with status 0x0A, ends the running
ones with it and passes over the entries not read. -/
def Obligations.QueuesTakeDoorbellsAndRegisters : Prop :=
  (∀ (fn q : Nat) (v : BitVec 32) (s : State), s.barOpen fn = true → q < 32768 →
     let x := s.queue q
     let only := fun (t : State) => (∀ r, r ≠ q → t.queue r = s.queue r) ∧ t = { s with sched := { s.sched with queues := t.sched.queues } }
     let fails := fun (e : BitVec 4) => { x with
       st := if x.st = .flushing then .flushing else .error
       err := if x.err = 0 then e else x.err
       entry := x.entry.filter fun y => y.fault.isSome }
     let lost := fun (t : State) => t.sched = s.sched ∧ ∃ e, t.elog.queue = s.elog.queue ++ [e] ∧ e.event = 0x0011 ∧ e.source = srcSched
     (s.qFunc q = fn → x.st ≠ .disabled → s.glb.st ≠ .halted →
       (x.st ≠ .error → ∃ t, exec (.submissionDoorbell fn (64 * q) 8 (v.setWidth 64)) s = .next t ∧ only t ∧
         ((v - x.head).toNat ≤ ringSize x.sqLog → t.queue q = { x with tail := v }) ∧
         (ringSize x.sqLog < (v - x.head).toNat → t.queue q = fails 1)) ∧
       (∃ t, exec (.completionDoorbell fn (64 * q + 8) 8 (v.setWidth 64)) s = .next t ∧ only t ∧
         ((x.cqTail - v).toNat ≤ (x.cqTail - x.cqHead).toNat → t.queue q = { x with cqHead := v }) ∧
         ((x.cqTail - x.cqHead).toNat < (x.cqTail - v).toNat → t.queue q = fails 2))) ∧
     (s.qFunc q ≠ fn ∨ x.st = .disabled →
       (∃ t, exec (.submissionDoorbell fn (64 * q) 8 (v.setWidth 64)) s = .next t ∧ lost t) ∧
       (∃ t, exec (.completionDoorbell fn (64 * q + 8) 8 (v.setWidth 64)) s = .next t ∧ lost t))) ∧
  (∀ (fn : Nat) (v : Word) (s : State), s.barOpen fn = true → s.blockUp 0x800000 = true → s.qFunc (s.selQ fn) = fn →
     let q := s.selQ fn
     let x := s.queue q
     let zero := fun (y : Queue) => y.head = 0 ∧ y.tail = 0 ∧ y.cqTail = 0 ∧ y.cqHead = 0
     let only := fun (t : State) => (∀ r, r ≠ q → t.queue r = s.queue r) ∧ t = { s with sched := { s.sched with queues := t.sched.queues } }
     (v.getLsbD 0 = true → x.st = .disabled → ∃ t, exec (.queueEnable fn v) s = .next t ∧ (t.queue q).st = .active ∧ (t.queue q).enable = true ∧
       zero (t.queue q) ∧ (t.queue q).err = 0 ∧ (t.queue q).sqBase = x.sqBase ∧ (t.queue q).cqBase = x.cqBase ∧ (t.queue q).prio = getFld v 2 3 ∧
       only t) ∧
     (v.getLsbD 0 = true → x.st ≠ .disabled → ∃ t, exec (.queueEnable fn v) s = .next t ∧ (t.queue q).st = x.st ∧
       (x.enable = true → t = s) ∧ (x.enable = false → (t.queue q).enable = true ∧ zero (t.queue q) ∧ only t)) ∧
     (v.getLsbD 0 = false → (x.st = .active ∨ x.st = .error) → s.queueTasks q = [] →
       ∃ t, exec (.queueEnable fn v) s = .next t ∧ (t.queue q).st = .disabled ∧ (t.queue q).enable = false ∧ (t.queue q).err = 0 ∧ only t) ∧
     (v.getLsbD 0 = true → ∃ t, exec (.queueFlush fn v) s = .next t ∧ (t.queue q).head = x.tail ∧ (t.queue q).tail = x.tail ∧
       (t.queue q).entry = none ∧
       (∀ u y, s.task u = some y → y.queue = q → y.st = .waiting →
         ∃ z, t.task u = some z ∧ z.st = .retired ∧ z.status = 0x0A ∧ ∃ r ∈ (t.queue q).recs, r.tag = y.tag ∧ r.status = 0x0A) ∧
       (∀ u y p k, s.task u = some y → y.queue = q → y.st = .running p k → y.lostTo = false → (s.strand p k).st = .issuing →
         (t.strand p k).st = .ending ∧ (t.strand p k).status = 0x0A)))

/-- The scheduler reads the entry it serves next (R275, R276, R281), one that no other queue's comes before. A MARKER forms its record, or
is kept while earlier tasks of its queue have not posted. A GRAPH entry's packet is fetched and waits; its fetch waits for Bus Master Enable
(R439), and is made when the queue is served again. A malformed entry, a packet with no valid header and a packet read that is refused or
fails form a packet-level record (R283, R307); a ring read that is refused or fails puts the queue in ERROR with reason 3 or 4 (R267).
Acceptance of a fetched packet whose header and padding are in order and for which the limits have room (R277, R278, R282): its tasks
enter, oldest first, with the fields of their descriptors, and the entry is passed; every task accepted before stays. Without room it
waits. -/
def Obligations.EntriesAreReadAndAccepted : Prop :=
  (∀ (q : Nat) (he hp : List Byte) (ok : Bool) (chk : DramCheck) (s : State), s.hasEntry q = true →
     (∀ r, r ≠ q → s.hasEntry r = true → s.readsBefore r q = false) → s.glb.st ≠ .off → s.glb.st ≠ .halted →
     let x := s.queue q
     let f := s.qFunc q
     let kept := fun (t : State) => t.sched.lastQ = q ∧ (∀ r, r ≠ q → t.queue r = s.queue r) ∧ t.sched.tasks = s.sched.tasks
     let faults := fun (t : State) (e : PendEntry) (st : Nat) => (t.queue q).entry = some { e with fault := some st, fetch := none } ∧
       (t.queue q).recs = x.recs ++ [{ tag := e.etag, status := st, flags := if e.irq then 0x42 else 0x02, fin := s.glb.time % 2 ^ 32 }]
     let fetches := fun (s1 t : State) (e : PendEntry) (pkt : Nat) =>
       let h := s1.devRead false f pkt 64 hp ok chk
       let g := h.1.devRead false f pkt e.plen hp ok chk
       (t.queue q).head = x.head ∧ kept t ∧
         if s.fetchWaits q pkt ∨ h.2.1 = heldStatus then (t.queue q).entry = some { e with fetch := some pkt }
         else if h.2.1 ≠ 0 then faults t e h.2.1
         else if packetHeader h.2.2 e.plen = none then faults t e 0x0B
         else if g.2.1 = heldStatus then (t.queue q).entry = some { e with fetch := some pkt }
         else if g.2.1 ≠ 0 then faults t e g.2.1
         else (t.queue q).entry = some { e with bytes := g.2.2, fetch := none } ∧ (t.queue q).recs = x.recs
     (∀ (e : PendEntry) (pkt : Nat), x.entry = some e → e.fetch = some pkt → ∃ t, exec (.entryRead q he hp ok chk) s = .next t ∧
       fetches { s with sched := { s.sched with lastQ := q } } t e pkt) ∧
     (x.entry = none →
       let r := s.devRead false f (x.sqBase.toNat + x.head.toNat % ringSize x.sqLog * 64) 64 he ok chk
       let b := r.2.2
       let pkt := fieldAt b 8 8
       let e : PendEntry := { etag := BitVec.ofNat 32 (fieldAt b 4 4), irq := fieldAt b 1 1 % 2 == 1, plen := fieldAt b 16 4, bytes := [] }
       let clean := fieldAt b 1 1 < 2 ∧ fieldAt b 2 2 = 0 ∧ allZero (slice b 20 44) = true
       let marker := clean ∧ fieldAt b 0 1 = 2 ∧ pkt = 0 ∧ e.plen = 0
       let graph := clean ∧ fieldAt b 0 1 = 1 ∧ pkt < 2 ^ 40 ∧ pkt % 64 = 0
       let m : CRec := { tag := e.etag, status := 0, flags := if e.irq then 0x44 else 0x04 }
       (r.2.1 ≠ 0 → r.2.1 ≠ heldStatus → ∃ t, exec (.entryRead q he hp ok chk) s = .next t ∧ (t.queue q).st = .error ∧
         (t.queue q).err = (if x.err ≠ 0 then x.err else if r.2.1 = 0x0C then 3 else 4) ∧ kept t) ∧
       (r.2.1 = 0 → marker → x.markers = [] → ∃ t, exec (.entryRead q he hp ok chk) s = .next t ∧ (t.queue q).head = x.head + 1 ∧ kept t ∧
         if (s.queueTasks q).any (fun y => decide (y.1 < s.sched.nextUid)) then (t.queue q).markers = [(s.sched.nextUid, m)] ∧ (t.queue q).recs = x.recs
         else (t.queue q).markers = [] ∧ (t.queue q).recs = x.recs ++ [{ m with fin := s.glb.time % 2 ^ 32 }]) ∧
       (r.2.1 = 0 → ¬ marker → ¬ graph → ∃ t, exec (.entryRead q he hp ok chk) s = .next t ∧ (t.queue q).head = x.head ∧ faults t e 0x0B ∧ kept t) ∧
       (r.2.1 = 0 → graph → ∃ t, exec (.entryRead q he hp ok chk) s = .next t ∧
         fetches { r.1 with sched := { r.1.sched with lastQ := q } } t e pkt))) ∧
  (∀ (q nt ne nx : Nat) (e : PendEntry) (s : State), (s.queue q).entry = some e → e.fault = none → e.fetch = none → (s.queue q).st = .active →
     s.glb.st ≠ .halted → s.glb.st ≠ .off → packetHeader e.bytes e.plen = some (nt, ne, nx) →
     let ends := packetEnds nt ne nx
     let d := fun (i : Nat) => (packetTask e.bytes (s.qFunc q) q s.sched.nextUid i ne nx ends.1 ends.2.1).1
     allZero (slice e.bytes (ends.1 + 2 * ne) (ends.2.1 - (ends.1 + 2 * ne))) = true →
     allZero (slice e.bytes (ends.2.1 + 8 * nx) (ends.2.2 - (ends.2.1 + 8 * nx))) = true →
     (s.roomFor q nt = false → exec (.packetAcceptance q) s = .next s) ∧
     (s.roomFor q nt = true → (∀ u, s.sched.nextUid ≤ u → s.task u = none) →
       ∃ t, exec (.packetAcceptance q) s = .next t ∧ (t.queue q).head = (s.queue q).head + 1 ∧ (t.queue q).entry = none ∧
         t.sched.nextUid = s.sched.nextUid + nt ∧
         (∀ i, i < nt → ∃ z, t.task (s.sched.nextUid + i) = some z ∧ z.tag = (d i).tag ∧ z.kernel = (d i).kernel ∧ z.lay = (d i).lay ∧
           z.stage = (d i).stage ∧ z.tile = (d i).tile ∧ z.base = (d i).base ∧ z.size = (d i).size ∧ z.opnds = (d i).opnds ∧ z.queue = q ∧
           z.func = s.qFunc q) ∧
         (∀ u y, s.task u = some y → ∃ z, t.task u = some z ∧ z.tag = y.tag ∧ z.queue = y.queue)))

/-- Dispatch (R33, R287, R292 to R295) of a ready task before which no other comes, to the tile and the strand of its choice: the strand is
ISSUING at the first step of the kernel's directory entry with the task's window and operands (R164, R167, R174), the task runs on it, and a
device that was READY is RUNNING (R5). With no strand free the task goes to the tile's launch slot.
The report of an ENDING strand that is owed nothing (R173, R205, R286, R303): the strand is FREE, or holds the task of the launch slot,
and the task retires with the strand's status and its replays; its record is formed. -/
def Obligations.TasksAreDispatchedAndRetired : Prop :=
  (∀ (u p : Nat) (y : Task) (s : State), s.task u = some y → s.ready y = true → s.held y = false → s.rigCheck y = none →
     (∀ e ∈ s.taskList, e.1 ≠ u → s.before e (u, y) = false) → s.windowOk p y = true → s.crosses (coreSide p) (.tile p) = true →
     (∀ q, (s.tile q).launch ≠ some u) →
     (∀ k, s.placeOf y = some (p, some k) → (kernelDir (s.tile p).psRead y.kernel).valid = true →
       ∃ t, exec (.dispatch u) s = .next t ∧ (∃ z, t.task u = some z ∧ z.st = .running p k ∧ z.ltile = s.logOf p ∧ z.start = s.glb.time % 2 ^ 32) ∧
         t.strand p k = {
           uid := u, func := y.func, kernel := y.kernel, lay := y.lay, base := y.base, size := y.size, st := .issuing
           a := (List.range 15).map fun i => if i < 8 then y.opnds.getD i 0 else 0
           c := [0, 0, 0, 0], next := (kernelDir (s.tile p).psRead y.kernel).entry, shifts := y.shifts, only := y.only } ∧
         (∀ j, j ≠ k → t.strand p j = s.strand p j) ∧ (∀ a, (t.tile p).byte a = (s.tile p).byte a) ∧
         (s.glb.st = .ready → s.glb.degRig = false → s.glb.degChan = false → t.glb.st = .running)) ∧
     (s.placeOf y = some (p, none) → (∀ e ∈ s.taskList, s.groupOf e.2 = s.groupOf y) →
       ∃ t, exec (.dispatch u) s = .next t ∧ (∃ z, t.task u = some z ∧ z.st = .launch p) ∧ (∀ j, t.strand p j = s.strand p j) ∧
         (∀ a, (t.tile p).byte a = (s.tile p).byte a))) ∧
  (∀ (p k : Nat) (y : Task) (s : State), (s.strand p k).st = .ending → (s.strand p k).outRd = 0 → (s.strand p k).unacked = 0 → s.tileRuns p = true →
     k < 8 → s.crosses (.tile p) (coreSide p) = true → s.task (s.strand p k).uid = some y → y.st = .running p k → y.reds = [] → y.lostTo = false →
     (∀ q, (s.tile q).launch ≠ some (s.strand p k).uid) →
     let x := s.strand p k
     ∃ t, exec (.completionReport p k) s = .next t ∧
       (∃ z, t.task x.uid = some z ∧ z.st = .retired ∧ z.status = x.status ∧ z.replays = y.replays + x.replays ∧ z.fin = s.glb.time % 2 ^ 32) ∧
       (∃ r ∈ (t.queue y.queue).recs, r.tag = y.tag ∧ r.status = x.status ∧ r.replay = min 255 (y.replays + x.replays) ∧ r.uid = some x.uid) ∧
       ((s.tile p).launch = none → t.strand p k = {}) ∧ (∀ j, j ≠ k → t.strand p j = s.strand p j) ∧ (∀ a, (t.tile p).byte a = (s.tile p).byte a))

/-- The oldest formed record of a queue (R268, R285, R303 to R305) while the device dispatches, with room in its ring. One whose write is
permitted stands in host memory or in DRAM, `CQ_TAIL` moves on, `HEAD` too after a packet-level record, the task's number is free, and a
record that asks for an interrupt signals the queue; one whose write is refused stays, and the queue is in ERROR with reason 5 (R274); one
whose write waits for Bus Master Enable stays (R439).
The time limit of the records not signalled yet (R305) signals the queue's vector: its message goes, or its Pending Bit is set while the
message may not go (R396, R435, R439, R441); a vector outside the table is dropped and logged. -/
def Obligations.RecordsArePostedAndSignalled : Prop :=  ∀ (q : Nat) (s : State),
    let x := s.queue q
    let f := s.qFunc q
    (∀ (r : CRec) (rest : List CRec), x.recs = r :: rest → s.dispatching = true → x.cqHeld = false →
      (x.cqTail - x.cqHead).toNat < ringSize x.cqLog →
      let w := s.writeRecord q (r.bytes x.cqTail.toNat (ringSize x.cqLog))
      (w = none → exec (.completionRecordPost q) s = .next s) ∧
      (∀ s1, w = some (s1, true) → ∃ t, exec (.completionRecordPost q) s = .next t ∧
        t.queue q = { x with st := if x.st = .flushing then .flushing else .error, err := if x.err = 0 then 5 else x.err, cqHeld := true } ∧
        (∀ j, j ≠ q → t.queue j = s.queue j) ∧ t.sched.tasks = s.sched.tasks) ∧
      (∀ s1, w = some (s1, false) → ∃ t, exec (.completionRecordPost q) s = .next t ∧ (∃ l, (t.queue q).recs = rest ++ l) ∧
        (t.queue q).cqTail = x.cqTail + 1 ∧
        (t.queue q).head = (if (x.entry.any fun e => e.fault.isSome) && r.flags.getLsbD 1 then x.head + 1 else x.head) ∧
        (t.queue q).unsig = (if r.flags.getLsbD 6 ∨ (x.modCount ≠ 0 ∧ x.modCount ≤ x.unsig + 1) then 0 else x.unsig + 1) ∧
        (∀ u, r.uid = some u → NSet.wf (s.sched.tasks.map (·.1)) = true → t.task u = none))) ∧
    (x.modUs ≠ 0 → x.unsig ≠ 0 → x.unsigAt + 100 * x.modUs ≤ s.glb.time →
      let m := Tab.get {} (s.func f).msix x.vector.toNat
      let held := m.masked || !(s.func f).bme || (s.func f).d3 || s.outputHold
      ∃ t, exec (.modUsExpiry q) s = .next t ∧ t.queue q = { x with unsig := 0 } ∧ (∀ r, r ≠ q → t.queue r = s.queue r) ∧
        (x.vector.toNat < 32 → held = false → t.out = .msix f m.addr.toNat m.data :: s.out ∧
          t = { s with sched := { s.sched with queues := t.sched.queues }, out := t.out }) ∧
        (x.vector.toNat < 32 → held = true → (t.func f).pba = (s.func f).pba ||| BitVec.ofNat 32 (2 ^ x.vector.toNat) ∧
          (∀ g, g ≠ f → t.func g = s.func g) ∧ t = { s with sched := { s.sched with queues := t.sched.queues }, funcs := t.funcs }) ∧
        (32 ≤ x.vector.toNat → ∃ e, t.elog.queue = s.elog.queue ++ [e] ∧ e.event = 0x0011 ∧ e.source = srcSched))

/-! ## External memory -/

/-- A read that reaches a channel in service and that no group's share comes before (R207, R302, R316, R318, R320, R333). A refused one is answered with status 0x0C. One that the splice
cache does not share is answered from its block, with the bytes of an open gather buffer over it (R329); a block that fails a damage check
is answered with status 0x05, logged and captured. -/
def Obligations.ReadsAreAnsweredFromTheirBlock : Prop :=  ∀ (i a n f c tl k uid cx pos len : Nat) (weight : Bool) (src : Endpoint) (vc : VC) (s : State),
    let who := Requester.stream tl k uid cx pos len
    let b := blockOf a
    let reply := fun (t : State) (d : List Byte) (st : Nat) => t.mesh = s.mesh.eraseIdx i ++
      [{ src := .chan c, dst := .tile tl, vc := .rsp, body := .response d st who }]
    s.deliverable i = some { src := src, dst := .chan c, vc := vc, body := .read a n f weight who } → s.chanHolds c = false → s.chanStatus c = 0 →
    s.minWaits c who = false → a < 0x8000000000 →
    let same := fun (t : State) => ∀ x, t.chan x =
      { s.chan x with tagLines := (t.chan x).tagLines, window := (t.chan x).window, served := (t.chan x).served, eccCnt := (t.chan x).eccCnt }
    let quiet := fun (t : State) => same t ∧ (∀ x, (t.chan x).eccCnt = (s.chan x).eccCnt) ∧ t = { s with mesh := t.mesh, chans := t.chans }
    (∀ chk, s.dramPermit false f a false ≠ 0 → ∃ t, exec (.memoryRead i chk) s = .next t ∧ reply t [] 0x0C ∧ quiet t) ∧
    (s.dramPermit false f a false = 0 → (weight = false ∨ (s.chan c).shareOn = false) →
      (∀ d, s.blockShows b d →
        ∃ t, exec (.memoryRead i .clean) s = .next t ∧ quiet t ∧
          ((s.chan (s.exp.locate b).1).bufOf b = none → reply t (slice d (a % 512) n) 0) ∧
          ∀ q g, (s.chan (s.exp.locate b).1).bufOf b = some (q, g) → reply t (slice (overlay d g.bytes) (a % 512) n) 0) ∧
      (∀ kind, kind ≠ 0 →
        let cl := s.exp.locate b
        let ch := s.chan cl.1
        let t0 := ch.tag (cl.2 / 512)
        ch.lostWpm.has (cl.2 / 65536) = false → ch.written.has (cl.2 / 65536) = true → ch.lostTags.has (cl.2 / 512) = false → t0 ≠ 0 → t0 ≠ 15 →
        blockDecode (s.classAt b) (s.exp.tbl (s.tableAt b)) t0 (s.crypt true b (Mem.read 0 ch.dram cl.2 (32 * t0))) = .error kind →
        s.badStored b t0 = false →
        ∃ t, exec (.memoryRead i .clean) s = .next t ∧ reply t [] 5 ∧
          (∃ e, t.elog.queue = s.elog.queue ++ [e] ∧ e.event = 0x0030 ∧ e.source = srcExp ∧ e.loc = BitVec.ofNat 64 b ∧ e.info0 = BitVec.ofNat 32 kind) ∧
          (s.exp.dmgInfo.getLsbD 0 = false → t.exp.dmgAddr = BitVec.ofNat 40 b ∧
            t.exp.dmgInfo = BitVec.ofNat 32 (1 + cl.1 * 2 + kind * 2 ^ 4 + f * 2 ^ 8 + s.tableAt b * 2 ^ 14 + t0 * 2 ^ 22)) ∧
          (s.exp.dmgInfo.getLsbD 0 = true → t.exp = s.exp) ∧ same t))

/-- A permitted write that reaches a channel in service, that no group's share comes before, and whose block has no open gather buffer
(R204, R208, R302, R319, R323, R329, R332). A whole block is stored and acknowledged, and its splice-cache lines go. Bytes of a block of class RAW under tag 0 or 15 are stored over it in
place. Bytes of a coded block wait in a gather buffer. When a buffer closes, its bytes are stored over its block and its writes are
acknowledged. -/
def Obligations.WritesStoreTheirBlock : Prop :=  (∀ (i a f c tl k uid : Nat) (data : List (Nat × Byte)) (prod : Option (Nat × Nat)) (peer : Bool) (src : Endpoint) (vc : VC) (s : State),
    s.memOk = true → s.deliverable i = some { src := src, dst := .chan c, vc := vc, body := .write a data f prod peer (.step tl k uid) } →
    s.chanHolds c = false → s.chanStatus c = 0 → s.minWaits c (.step tl k uid) = false → s.dramPermit false f a true = 0 →
    let b := blockOf a
    s.checksApart b →
    let cl := s.exp.locate b
    let ch := s.chan cl.1
    let l := data.map fun e => (e.1 % 512, e.2)
    let ack := [{ src := .chan c, dst := .tile tl, vc := .rsp, body := .ack 0 (.step tl k uid) }]
    let whole := fun (x : List (Nat × Byte)) => ∀ o, o < 512 → ∃ e ∈ x, e.1 = o
    ch.bufOf b = none → ch.lostTags.has (cl.2 / 512) = false →
    let raw := s.classAt b ≠ 1 ∧ s.classAt b ≠ 2
    (whole l → ∃ t, exec (.memoryWrite i .clean) s = .next t ∧ t.holdsBlock b (overlay [] l) ∧ s.OnlyBlock t b ∧
      (∀ x, ∀ z ∈ Tab.get [] (t.chan cl.1).sets x, z.addr ≠ b) ∧ t.mesh = s.mesh.eraseIdx i ++ ack ∧ t = { s with chans := t.chans, mesh := t.mesh }) ∧
    (¬ whole l → raw → (ch.written.has (cl.2 / 65536) = false ∨ ch.tag (cl.2 / 512) = 0) →
      ∃ t, exec (.memoryWrite i .clean) s = .next t ∧ (t.chan cl.1).tag (cl.2 / 512) = 15 ∧
        Mem.read 0 (t.chan cl.1).dram cl.2 512 = s.crypt false b (overlay (List.replicate 512 0) l) ∧ s.OnlyBlock t b ∧
        t.mesh = s.mesh.eraseIdx i ++ ack ∧ t = { s with chans := t.chans, mesh := t.mesh }) ∧
    (¬ whole l → raw → ch.written.has (cl.2 / 65536) = true → ch.tag (cl.2 / 512) = 15 → s.badStored b 15 = false →
      ∃ t, exec (.memoryWrite i .clean) s = .next t ∧ (t.chan cl.1).tag (cl.2 / 512) = 15 ∧
        Mem.read 0 (t.chan cl.1).dram cl.2 512 = s.crypt false b (overlay (s.crypt true b (Mem.read 0 ch.dram cl.2 512)) l) ∧ s.OnlyBlock t b ∧
        t.mesh = s.mesh.eraseIdx i ++ ack ∧ t = { s with chans := t.chans, mesh := t.mesh }) ∧
    (¬ whole l → ¬ raw → ch.bufs.length < 16 →
      ∃ t, exec (.memoryWrite i .clean) s = .next t ∧
        (t.chan cl.1).bufs = Tab.put ch.bufs ch.nextBuf { addr := b, bytes := l, acks := [.step tl k uid] } ∧ (t.chan cl.1).dram = ch.dram ∧
        t.mesh = s.mesh.eraseIdx i ∧ t = { s with chans := t.chans, mesh := t.mesh })) ∧
  ∀ (c q tl k uid : Nat) (g : GatherBuf) (d : List Byte) (s : State), s.memOk = true →
    Tab.get none ((s.chan c).bufs.map fun e => (e.1, some e.2)) q = some g → g.acks = [.step tl k uid] → (s.exp.locate g.addr).1 = c →
    s.chanStatus c = 0 → s.checksApart g.addr →
    (s.chan c).written.has ((s.exp.locate g.addr).2 / 65536) = true → s.blockShows g.addr d →
    ∃ t, exec (.gatherBufferClose c q .clean) s = .next t ∧ t.holdsBlock g.addr (overlay d g.bytes) ∧ s.OnlyBlock t g.addr ∧
      (t.chan c).bufs = Tab.drop (s.chan c).bufs q ∧ t = { s with chans := t.chans, mesh := t.mesh } ∧
      t.mesh = s.mesh ++ [{ src := .chan c, dst := .tile tl, vc := .rsp, body := .ack 0 (.step tl k uid) }]

/-- The splice cache of a channel in service (R206 to R208, R210, R335). A weight-class read of DRAM hits a line that its function filled, waits
on the fill in flight for its block, or starts a fill; one of the host range starts a fill that reads the block from the host. A fill that
completes answers the reads that wait and becomes the line used last of its set; a host-range fill completes with the bytes and the tag that
the host has returned, and one of them that fails its reads ends with status 0x01. A flush empties the share. (Which set holds a block is the
model's choice, notes/assumptions/18.md.) -/
def Obligations.SpliceCacheServesFillsAndFlushes : Prop :=  (∀ (i a n f c tl k uid cx pos len : Nat) (src : Endpoint) (vc : VC) (chk : DramCheck) (s : State),
    let who := Requester.stream tl k uid cx pos len
    let b := blockOf a
    let ch := s.chan c
    let flight := ch.fills.find? fun e => e.2.addr == b && e.2.func == f && e.2.install
    let chans := fun (t : State) (x : Chan) => ∀ y, t.chan y =
      { (if y = c then x else s.chan y) with tagLines := (t.chan y).tagLines, window := (t.chan y).window, served := (t.chan y).served }
    s.deliverable i = some { src := src, dst := .chan c, vc := vc, body := .read a n f true who } → s.chanHolds c = false → s.chanStatus c = 0 →
    s.minWaits c who = false → ch.shareOn = true →
    (a < 0x8000000000 → s.dramPermit false f a false = 0 →
      (∀ l, s.spliceLine c b f = some l → ∃ t, exec (.memoryRead i chk) s = .next t ∧ (t.chan c).hit = ch.hit + 1 ∧ t.spliceLine c b f = some l ∧
        (∀ x, x ≠ s.spliceSet b → Tab.get [] (t.chan c).sets x = Tab.get [] ch.sets x) ∧
        t.mesh = s.mesh.eraseIdx i ++ [{ src := .chan c, dst := .tile tl, vc := .rsp, body := .response (slice l.data (a % 512) n) 0 who }] ∧
        t = { s with chans := t.chans, mesh := t.mesh }) ∧
      (s.spliceLine c b f = none → ∀ q x, flight = some (q, x) →
        ∃ t, exec (.memoryRead i chk) s = .next t ∧ t = { s with chans := t.chans, mesh := s.mesh.eraseIdx i } ∧
          chans t { ch with fills := Tab.put ch.fills q { x with waiters := x.waiters ++ [(a, n, who)] }, merge := ch.merge + 1 }) ∧
      (s.spliceLine c b f = none → flight = none → ch.fills.length < 32 →
        ∃ t, exec (.memoryRead i chk) s = .next t ∧ t = { s with chans := t.chans, mesh := s.mesh.eraseIdx i } ∧ chans t { ch with
          fills := Tab.put ch.fills ch.nextFill { addr := b, func := f, install := true, snap := s.readBlock b, waiters := [(a, n, who)] }
          nextFill := ch.nextFill + 1, miss := ch.miss + 1 })) ∧
    (∀ g h, 0xC000000000 ≤ b → s.hostPermit f a false = 0 → s.hostChan a = (c, true) → s.spliceLine c b f = none → flight = none →
      ch.fills.length < 32 → s.hostCoded f b = none → s.freeTag = some g → s.hostAddr f b = some h →
      ∃ t, exec (.memoryRead i chk) s = .next t ∧ t.out = .hostRead f h 512 g (s.hostRo f) :: s.out ∧
        t.hreads = Tab.put s.hreads g { fn := f, addr := b, len := 512, who := .fill c ch.nextFill, dst := hostSide b } ∧
        t = { s with chans := t.chans, mesh := s.mesh.eraseIdx i, hreads := t.hreads, out := t.out } ∧ chans t { ch with
          fills := Tab.put ch.fills ch.nextFill { addr := b, func := f, install := true, waiters := [(a, n, who)], hostTag := some (some 15) }
          nextFill := ch.nextFill + 1, miss := ch.miss + 1 })) ∧
  (∀ (c q a n tl k uid cx pos len : Nat) (x : SpliceFillSt) (s : State),
    let who := Requester.stream tl k uid cx pos len
    let ends := fun (t : State) (d : List Byte) (st : Nat) => t = { s with chans := t.chans, mesh := t.mesh } ∧
      t.mesh = s.mesh ++ [{ src := .chan c, dst := .tile tl, vc := .rsp, body := .response (if st = 0 then slice d (a % 512) n else []) st who }] ∧
      (∀ y, y ≠ c → t.chan y = s.chan y) ∧ (t.chan c).fills = Tab.drop (s.chan c).fills q ∧
      (st = 0 → x.install = true → (s.chan c).shareOn = true → t.spliceLine c x.addr x.func = some { addr := x.addr, func := x.func, data := d }) ∧
      ∀ y, (st ≠ 0 ∨ x.install = false ∨ y ≠ s.spliceSet x.addr) → Tab.get [] (t.chan c).sets y = Tab.get [] (s.chan c).sets y
    Tab.get none ((s.chan c).fills.map fun e => (e.1, some e.2)) q = some x → s.chanStatus c = 0 → x.waiters = [(a, n, who)] →
    (x.addr < 0x8000000000 → x.snap.st = 0 → (x.snap.touched = true → s.badStored x.addr x.snap.tag = false) →
      ∃ t, exec (.spliceFill c q .clean .clean .clean .clean) s = .next t ∧ ends t x.snap.data 0) ∧
    (∀ host ok tag l i m j, 0x8000000000 ≤ x.addr → x.host = some (host, ok) → x.hostTag = some tag →
      let r := s.hostBlock x.func x.addr host ok tag
      (r.st = 0 ∨ r.st = 1) → ∃ t, exec (.spliceFill c q l i m j) s = .next t ∧ ends t r.data r.st)) ∧
  ∀ (c : Nat) (s : State),
    (∀ v : Word, s.pfWrites 0 (0x600800 + c * 0x10000) = true → c < 8 → (v.getLsbD 1 = true ∨ ((s.chan c).spliceEn = true ∧ v.getLsbD 0 = false)) →
      ∃ t, exec (.spliceFlush 0 c v) s = .next t ∧ (t.chan c).sets = [] ∧ (t.chan c).flushing = true ∧ (t.chan c).spliceEn = v.getLsbD 0 ∧
        (∀ e ∈ (t.chan c).fills, e.2.install = false) ∧ (t.chan c).dram = (s.chan c).dram ∧ (∀ y, y ≠ c → t.chan y = s.chan y) ∧
        t = { s with chans := t.chans }) ∧
    ∃ t, exec (.spliceFlushDone c) s = .next t ∧ t.chan c = { s.chan c with flushing := false } ∧ (∀ y, y ≠ c → t.chan y = s.chan y) ∧
      t = { s with chans := t.chans }

/-- The expander's commands, in writes of the PF that act. A written-page clear (R319, R320) clears the bits of the pages inside its range
and is BUSY until it is done. A table load (R324, R328) takes a valid table that no enabled entry names, and else, or where its source
cannot be read, says why not. A key load
(R331) gives a function its key and its enable. A region entry (R315) is enabled only when it is legal, and while enabled takes only
`EN`. -/
def Obligations.ExpanderCommandsTakeEffect : Prop :=  ∀ (s : State),
    (∀ v : Word, s.pfWrites 0 0x740018 = true → v.getLsbD 0 = true → s.exp.clrBusy = false → s.memOk = true →
      let lo := s.exp.clrBase.toNat * 65536
      let hi := lo + s.exp.clrSize.toNat * 65536
      let on := fun c => s.exp.list.contains c && s.chanStatus c == 0
      ∃ t, exec (.wpmClear 0 { v := v, chk := .clean }) s = .next t ∧ t.exp.clrBusy = true ∧
        (∀ c g, (t.chan c).written.has g = ((s.chan c).written.has g && !(on c && s.clearsPage lo hi g))) ∧
        (∀ c, (s.chan c).bufs = [] → (t.chan c).bufs = []) ∧
        ((∀ c, (s.chan c).bufs = []) → ∀ c, (t.chan c).dram = (s.chan c).dram ∧ (t.chan c).tags = (s.chan c).tags)) ∧
    (exec .wpmClearDone s = .next { s with exp := { s.exp with clrBusy := false } }) ∧
    (∀ (v : Word) (host b : List Byte) (rd : ReadResult) (s1 : State) (st : Nat), s.pfWrites 0 0x740028 = true → v.getLsbD 8 = true →
      s.devRead false 0 (s.exp.tblSrc.toNat / 64 * 64) 128 host rd.ok rd.chk = (s1, st, b) →
      let n := bitsOf v.toNat 0 8
      let refused := fun (q : BitVec 2) =>
        exec (.codeTableLoad 0 v host rd) s = .next { s1 with exp := { s1.exp with tblErr := true, tblReason := q } }
      (st = 0 → tableValid b = true → (∀ e ∈ s.regions, e.en = true → e.table ≠ n) → ∃ t, exec (.codeTableLoad 0 v host rd) s = .next t ∧
        t.exp.tbl n = b ∧ (∀ m, m ≠ n → t.exp.tbl m = s1.exp.tbl m) ∧ t.exp.tblErr = false ∧ t = { s1 with exp := t.exp }) ∧
      (st = 0 → tableValid b = false → refused 0) ∧
      (st = 0 → tableValid b = true → (∃ e ∈ s.regions, e.en = true ∧ e.table = n) → refused 1) ∧
      (st ≠ 0 → st ≠ heldStatus → refused 2)) ∧
    (∀ v : Word, s.pfWrites 0 0x740040 = true → v.getLsbD 7 = true →
      let f := bitsOf v.toNat 0 6
      ∃ t, exec (.keyLoad 0 v) s = .next t ∧ Tab.get 0 t.exp.keys f = s.exp.keyData ∧ (∀ g, g ≠ f → Tab.get 0 t.exp.keys g = Tab.get 0 s.exp.keys g) ∧
        (∀ g, t.exp.keyEn.getLsbD g = if g = f then v.getLsbD 6 else s.exp.keyEn.getLsbD g) ∧ t = { s with exp := t.exp }) ∧
    (∀ (v : Word) (n : Nat), n < 64 → s.pfWrites 0 (0x741008 + 16 * n) = true →
      let r := s.region n
      let r' := { r with ctl := v &&& 0x00FF07FF }
      ∃ t, exec (.regionEnable 0 (0x741008 + 16 * n) v) s = .next t ∧ (∀ m, m ≠ n → t.region m = s.region m) ∧
        t.region n = { r with ctl := (t.region n).ctl } ∧ t = { s with exp := { s.exp with regions := t.exp.regions } } ∧
        (t.region n).en = (v.getLsbD 0 && (r.en || s.regionLegal r')) ∧
        ∀ j, j ≠ 0 → (t.region n).ctl.getLsbD j = if r.en then r.ctl.getLsbD j else r'.ctl.getLsbD j)

/-- Accesses of the host through BAR4 (R25, R437) are split at the boundaries of 64 bytes. A piece that nothing holds up, to a DRAM block or to
the scratchpad of a tile that takes accesses, reads and writes what is there; others are refused. A piece of a read is completed on its own;
of a write to DRAM, bytes of a block of class RAW under tag 0 or 15 are stored over it in place, and bytes of a coded block wait in a
gather buffer. A request at the host interface (R32, R334) goes out as a PCIe request, and a completion returns to the requester, or to the
splice-cache fill that awaits it (R335). -/
def Obligations.HostAccessesReachMemory : Prop :=  (∀ (fn addr : Nat) (s : State), s.barOpen fn = true →
    let b := blockOf addr
    let cl := s.exp.locate b
    let ch := s.chan cl.1
    (∀ (n : Nat) (chk : DramCheck) (s1 : State), 64 < addr % 64 + n → exec (.bar4Read fn addr (64 - addr % 64) chk) s = .next s1 → s1.barOpen fn = true →
      exec (.bar4Read fn addr n chk) s = exec (.bar4Read fn (addr + (64 - addr % 64)) (n - (64 - addr % 64)) chk) s1) ∧
    (∀ (data : List Byte) (chk : DramCheck) (s1 : State), 64 < addr % 64 + data.length →
      exec (.bar4Write fn addr (data.take (64 - addr % 64)) chk) s = .next s1 → s1.barOpen fn = true →
      exec (.bar4Write fn addr data chk) s = exec (.bar4Write fn (addr + (64 - addr % 64)) (data.drop (64 - addr % 64)) chk) s1) ∧
    (∀ (n : Nat) (d : List Byte), 0 < n → addr % 64 + n ≤ 64 → addr + n ≤ 0x8000000000 → s.rangePermit false fn addr n false = 0 →
      s.chanStatus (s.exp.locate addr).1 = 0 → s.chanHolds cl.1 = false → s.hostWaits addr (.chan cl.1) .req = false →
      ch.bufOf b = none → s.blockShows b d →
      ∃ t, exec (.bar4Read fn addr n .clean) s = .next t ∧ t.out = .completion fn (slice d (addr % 512) n) :: s.out ∧
        (∀ c, t.chan c = { s.chan c with tagLines := (t.chan c).tagLines }) ∧ t = { s with chans := t.chans, out := t.out }) ∧
    (∀ (n tl off : Nat), fn = 0 → tl < 68 → addr = spadAddr tl off → 0 < n → off % 64 + n ≤ 64 → off + n ≤ 0x400000 → (s.mapEnt tl).fenced = false →
      s.spadOpen (s.physOf tl) = true → s.hostWaits addr (s.tileEnd tl) .req = false →
      off + n ≤ (s.tile (s.physOf tl)).usable → (∀ w ∈ wordsOf off n, (s.tile (s.physOf tl)).wordEcc w = .clean) →
      exec (.bar4Read fn addr n .clean) s = .next (s.emit (.completion fn ((s.tile (s.physOf tl)).bytes off n)))) ∧
    (∀ (n : Nat) (chk : DramCheck), addr % 64 + n ≤ 64 → 0xC000000000 < addr + n → exec (.bar4Read fn addr n chk) s = .next (s.emit (.abort fn))) ∧
    (∀ data : List Byte, s.memOk = true → data ≠ [] → addr % 64 + data.length ≤ 64 → addr + data.length ≤ 0x8000000000 →
      s.rangePermit false fn addr data.length true = 0 → s.chanStatus cl.1 = 0 → s.chanHolds cl.1 = false →
      s.hostWaits addr (.chan cl.1) .pst = false → s.checksApart b → ch.bufOf b = none → ch.lostTags.has (cl.2 / 512) = false →
      let l := bytesAt (addr % 512) data
      let raw := s.classAt b ≠ 1 ∧ s.classAt b ≠ 2
      (raw → (ch.written.has (cl.2 / 65536) = false ∨ ch.tag (cl.2 / 512) = 0) →
        ∃ t, exec (.bar4Write fn addr data .clean) s = .next t ∧ (t.chan cl.1).tag (cl.2 / 512) = 15 ∧
          Mem.read 0 (t.chan cl.1).dram cl.2 512 = s.crypt false b (overlay (List.replicate 512 0) l) ∧ s.OnlyBlock t b ∧ t = { s with chans := t.chans }) ∧
      (raw → ch.written.has (cl.2 / 65536) = true → ch.tag (cl.2 / 512) = 15 → s.badStored b 15 = false →
        ∃ t, exec (.bar4Write fn addr data .clean) s = .next t ∧ (t.chan cl.1).tag (cl.2 / 512) = 15 ∧
          Mem.read 0 (t.chan cl.1).dram cl.2 512 = s.crypt false b (overlay (s.crypt true b (Mem.read 0 ch.dram cl.2 512)) l) ∧ s.OnlyBlock t b ∧
          t = { s with chans := t.chans }) ∧
      (¬ raw → ch.bufs.length < 16 → ∃ t, exec (.bar4Write fn addr data .clean) s = .next t ∧
        (t.chan cl.1).bufs = Tab.put ch.bufs ch.nextBuf { addr := b, bytes := l, acks := [.bar4 fn addr] } ∧ (t.chan cl.1).dram = ch.dram ∧
        t = { s with chans := t.chans })) ∧
    (∀ (data : List Byte) (tl off : Nat) (chk : DramCheck), s.memOk = true → fn = 0 → tl < 68 → addr = spadAddr tl off → data ≠ [] →
      off % 64 + data.length ≤ 64 → off + data.length ≤ 0x400000 → (s.mapEnt tl).fenced = false → s.spadOpen (s.physOf tl) = true →
      s.hostWaits addr (s.tileEnd tl) .pst = false → (s.tile (s.physOf tl)).writeBlocked (bytesAt off data) = false →
      (∀ w ∈ wordsOf off data.length, 8 * w < (s.tile (s.physOf tl)).usable ∧ s.slotRule (s.physOf tl) (8 * w) none = true ∧
        (s.tile (s.physOf tl)).wordEcc w = .clean) →
      ∃ t, exec (.bar4Write fn addr data chk) s = .next t ∧ (∀ q, q ≠ s.physOf tl → t.tile q = s.tile q) ∧ t = { s with tiles := t.tiles } ∧
        ∀ a, (t.tile (s.physOf tl)).byte a =
          if off ≤ a ∧ a < off + data.length then data.getD (a - off) 0 else (s.tile (s.physOf tl)).byte a)) ∧
  (∀ (i a f tl k uid : Nat) (side : Bool) (src : Endpoint) (vc : VC) (h : Nat) (s : State), s.hostAddr f a = some h →
    (∀ n w who, s.deliverable i = some { src := src, dst := .host side, vc := vc, body := .read a n f w who } → s.hostPermit f a false = 0 →
      s.hreads.length < 768 → ∃ t tag, exec (.hostInterfaceRequest i) s = .next t ∧ tag < 1024 ∧ (∀ e ∈ s.hreads, e.1 ≠ tag) ∧
        t = { s with
          mesh := s.mesh.eraseIdx i, out := .hostRead f h n tag (s.hostRo f) :: s.out
          hreads := Tab.put s.hreads tag { fn := f, addr := a, len := n, who := who, dst := hostSide a } }) ∧
    (∀ l prod peer, s.deliverable i = some { src := src, dst := .host side, vc := vc, body := .write a (bytesAt a l) f prod peer (.step tl k uid) } →
      s.hostPermit f a true = 0 → l ≠ [] → exec (.hostInterfaceRequest i) s = .next { s with
        mesh := s.mesh.eraseIdx i ++ [{ src := .host side, dst := .tile tl, vc := .rsp, body := .ack 0 (.step tl k uid) }]
        out := .hostWrite f h l :: s.out })) ∧
  ∀ (tag tl k uid cx pos len : Nat) (data : List Byte) (ok : Bool) (r : HostRead) (s : State),
    Tab.get none (s.hreads.map fun e => (e.1, some e.2)) tag = some r →
    (r.who = .stream tl k uid cx pos len → exec (.pcieCompletion tag data ok) s = .next { s with
      hreads := Tab.drop s.hreads tag
      mesh := s.mesh ++ [{ src := r.dst, dst := .tile tl, vc := .rsp
                           body := .response (if ok then slice data 0 r.len else []) (if ok then 0 else 1) r.who }] }) ∧
    ∀ c q, r.who = .fill c q → ∃ t, exec (.pcieCompletion tag data ok) s = .next t ∧ (∀ y, y ≠ c → t.chan y = s.chan y) ∧
      t.chan c = { s.chan c with fills := (s.chan c).fills.map fun e => if e.1 = q then (e.1, { e.2 with host := some (slice data 0 r.len, ok) }) else e } ∧
      t = { s with chans := t.chans, hreads := Tab.drop s.hreads tag }

/-- Coding loses nothing (R323 to R327, R348): a block that is coded under a valid table decodes, from the sectors it takes, to the block it
was, and so does the payload of a frame. -/
def Obligations.CodedDataDecodesToItself : Prop :=  ∀ (cls : Nat) (tbl d : List Byte), tableValid tbl = true →
    (∀ x, d.length = 512 → blockEncode cls tbl d = some x → x.length % 32 = 0 ∧ 0 < x.length / 32 ∧ x.length / 32 < 15 ∧
      blockDecode cls tbl (x.length / 32) x = .ok d) ∧
    ∀ x, d.length = 256 → payloadEncode cls tbl d = some x → x.length < 256 ∧ payloadDecode cls tbl x = .ok d

/-! ## Grommet -/

/-- A port's way up and down (R337, R349, R351, R356, R357). A write of `EN` 1 to a port that is DOWN starts training, the last key written
while it was DOWN taking effect, and so does `RETRAIN` on a port held down; a trained port sends its HELLO; a HELLO that agrees makes the
port UP with its neighbour, who learns of its empty buffers, and any other holds it down with a flag; a failed link empties its replay
buffer and an enabled port trains again. Each change is reported to the other nodes. A key is taken only while its port is DOWN. (The HELLO
payload, and who is told, are the model's, notes/assumptions/20.md and 22.md.) -/
def Obligations.PortsTrainComeUpAndFall : Prop :=  ∀ (p : Nat) (s : State), p < 4 → s.pd (76 + p) = 2 → s.portLegal p = true →
    let x := s.port p
    let others := fun (t : State) => State.Told (s.modPort p fun _ => t.port p) t
    (∀ (v : Word) (c : Nat → Nat → Word → Instr), s.pfWrites 0 (0x700000 + p * 0x10000) = true → s.glb.st ≠ .halted → v.getLsbD 0 = true →
      (c = .portEnable ∧ x.st = .down ∨ c = .portRetrain ∧ v.getLsbD 1 = true ∧ x.st = .heldDown) →
      ∃ t, exec (c 0 p v) s = .next t ∧ others t ∧ (t.port p).st = .training ∧ (t.port p).en = true ∧
        (t.port p).keyed = (if x.st = .down then v.getLsbD 2 else x.keyed) ∧ (t.port p).key = (if x.keyNew then x.keyData else x.key) ∧
        (t.port p).txCtr = (if x.keyNew then 0 else x.txCtr) ∧ (t.port p).keyNew = false) ∧
    (∀ (i : Nat) (v : Word), i < 4 → s.pfWrites 0 (0x700010 + p * 0x10000 + 4 * i) = true →
      ∃ t, exec (.csrWrite 0 (0x700010 + p * 0x10000 + 4 * i) 4 (v.setWidth 64)) s = .next t ∧ (∀ q, q ≠ p → t.port q = s.port q) ∧
        t = { s with grm := { s.grm with ports := t.grm.ports } } ∧ (x.st ≠ .down → t.port p = x) ∧
        (x.st = .down → (t.port p).keyData.toNat / 2 ^ (32 * i) % 2 ^ 32 = v.toNat ∧
          t.port p = { x with keyData := (t.port p).keyData, keyNew := true })) ∧
    (x.st = .training → ∃ t g, exec (.linkTrained p) s = .next t ∧ (t.port p).st = .hello ∧ (t.port p).replay = [g] ∧ (t.port p).rxSeq = 0 ∧
      State.Told { s.modPort p (fun _ => t.port p) with out := .frame p g :: s.out } t ∧ g.typ = 7 ∧ g.seq = 0 ∧ g.gcmTag = [] ∧ g.src = s.node ∧
      g.dst = facing s.grm.dimX.toNat s.grm.dimY.toNat s.node p % 16 ∧
      helloOf g.payload = { node := s.grm.node, dimX := s.grm.dimX, dimY := s.grm.dimY, port := BitVec.ofNat 2 p, device := 0x40
                            keyEn := x.keyed, epoch := s.grm.epoch.num }) ∧
    (∀ (f : WireFrame) (pl : List Byte), x.st = .hello → s.rx p f = .ok pl → f.typ = 7 →
      let h := helloOf pl
      let topo := h.node.toNat = facing s.grm.dimX.toNat s.grm.dimY.toNat s.node p ∧ h.dimX = s.grm.dimX ∧ h.dimY = s.grm.dimY
      let ring := (if p % 2 = 0 then s.grm.dimX.toNat else s.grm.dimY.toNat) = 2
      let lone := ∀ q, q < 4 → q ≠ p → (s.port q).st = .up → (s.port q).nb = h.node → q = oppPort p ∧ ring
      ∃ t, exec (.hello p f) s = .next t ∧ (t.port p).nb = h.node ∧ (t.port p).nbValid = true ∧ (t.port p).rxSeq = x.rxSeq + 1 ∧
        (∀ q, q ≠ p → (t.port q).st = (s.port q).st) ∧ .linkCtl p false f.seq none ∈ t.out ∧
        (topo → h.keyEn = x.keyed → lone → (t.port p).st = .up ∧ (t.port p).flags = x.flags ∧ .linkCredits p x.room ∈ t.out) ∧
        (¬ (topo ∧ h.keyEn = x.keyed ∧ lone) → (t.port p).st = .heldDown ∧
          (∃ e ∈ t.elog.queue, e.event = 0x0040 ∧ e.source = srcPort p ∧ e.info0 = 4) ∧
          ((t.port p).flags.getLsbD 0 = true ↔ (x.flags.getLsbD 0 = true ∨ ¬ topo)) ∧
          ((t.port p).flags.getLsbD 1 = true ↔ (x.flags.getLsbD 1 = true ∨ h.keyEn ≠ x.keyed)) ∧
          ((t.port p).flags.getLsbD 2 = true ↔ (x.flags.getLsbD 2 = true ∨ ¬ lone)))) ∧
    (∀ cause, (cause = .laneLock ∨ cause = .resends ∧ (∃ n ∈ x.sends, 8 ≤ n) ∨ cause = .noProgress ∧ x.replay ≠ [] ∨ cause = .tagFailure ∧ x.keyed = true) →
      x.st = .up → s.glb.st ≠ .halted → s.glb.st ≠ .off →
      ∃ t, exec (.linkDown p cause) s = .next t ∧ (t.port p).st = (if x.en then .training else .down) ∧ (t.port p).replay = [] ∧ (t.port p).nbValid = false ∧
        (t.port p).flags = x.flags ||| 0x10 ||| (if cause = .tagFailure then 0x08 else 0) ∧ (∀ q, q ≠ p → (t.port q).st = (s.port q).st) ∧
        (∃ e ∈ t.elog.queue, e.event = 0x0040 ∧ e.source = srcPort p) ∧ t.tiles = s.tiles ∧ t.sched = s.sched)

/-- The link layer (R344, R347, R350, R351) of a port that is UP. An acknowledgement takes the frames up to its number from the replay buffer
and adds its credits; a NAK has every frame from its number on sent again, and takes the link down once one of them has been sent eight
times; a frame with a bad CRC is answered with a NAK for the number expected; a reserved one is taken and logged with its sender's epoch. (The words of the link are the model's where the
manual gives none, notes/assumptions/19.md and 21.md.) -/
def Obligations.LinkWordsKeepTheReplayBuffer : Prop :=  ∀ (p : Nat) (s : State), p < 4 → s.pd (76 + p) = 2 → (s.port p).st = .up →
    let x := s.port p
    let only := fun (t : State) => (∀ q, q ≠ p → t.port q = s.port q) ∧ t = { s with grm := { s.grm with ports := t.grm.ports }, out := t.out }
    (∀ (seq : BitVec 12) (cr : List Nat) (k : Nat), x.replay.findIdx? (fun f => f.seq == seq) = some k → x.mq = [] → x.draining = false →
      (∀ q, q < 4 → (s.port q).held = []) → ∃ t, exec (.linkAck p seq cr) s = .next t ∧ only t ∧ t.out = s.out ∧ (t.port p).replay = x.replay.drop (k + 1) ∧
        (∀ i, i < 8 → Tab.get 0 (t.port p).credits i = Tab.get 0 x.credits i + cr.getD i 0) ∧
        t.port p = { x with replay := x.replay.drop (k + 1), sends := x.sends.drop (k + 1), credits := (t.port p).credits }) ∧
    (∀ (seq : BitVec 12) (k : Nat), x.replay.findIdx? (fun f => f.seq == seq) = some k →
      ((∀ n ∈ x.sends.drop k, n < 8) → ∃ t, exec (.linkNak p seq) s = .next t ∧ only t ∧
        t.out = ((x.replay.drop k).map (OutEvent.frame p)).reverse ++ s.out ∧
        t.port p = { x with replay := x.replay.drop k, sends := (x.sends.drop k).map (· + 1), cnt := satAdd x.cnt 16 16 1 }) ∧
      ((∃ n ∈ x.sends.drop k, 8 ≤ n) → ∃ t, exec (.linkNak p seq) s = .next t ∧ (t.port p).st ≠ .up ∧ (t.port p).replay = [])) ∧
    (∀ f : WireFrame, f.crc ≠ frameCrc f.hdr f.payload f.gcmTag f.seq f.rsv → ∃ t, exec (.frameDiscard p f) s = .next t ∧ only t ∧
      t.out = .linkCtl p true x.rxSeq none :: s.out ∧ t.port p = { x with cnt := satAdd x.cnt 0 16 1 }) ∧
    ∀ f : WireFrame, f.crc = frameCrc f.hdr f.payload f.gcmTag f.seq f.rsv → f.seq = x.rxSeq → f.payload.length = f.len → f.len ≤ 256 → x.keyed = false →
      (10 ≤ f.typ ∨ f.fld 27 1 ≠ 0 ∨ f.fld 107 21 ≠ 0) →
      ∃ t, exec (.frameDiscard p f) s = .next t ∧ (t.port p).rxSeq = x.rxSeq + 1 ∧
        t.out = .linkCtl p false f.seq (if f.typ = 7 then none else some (creditKey f.hdr)) :: s.out ∧
        (∃ e, t.elog.queue = s.elog.queue ++ [e] ∧ e.event = 0x0040 ∧ e.source = srcPort p ∧ e.info0 = 3 ∧ e.info1 = BitVec.ofNat 32 (f.fld 28 8)) ∧ t.tiles = s.tiles ∧ t.mesh = s.mesh

/-- A checked frame for another node (R342, R343, R350, R352), with no earlier one in its receive buffers, leaves through the port of its
route, if that port is ready, with its header but for the lane, and its buffer's credit goes back; else it waits in its buffer; one whose
destination cannot be reached goes no further. A packet at a port that no earlier one holds up is sent as a frame with a tag of its own that
waits for its reply (R339, R344, R353), or is answered with status 0x0D where its node is no member or has no route (R355, R358). -/
def Obligations.FramesLeaveByTheirRoute : Prop :=  ∀ (s : State),
    (∀ (p : Nat) (f : WireFrame) (pl : List Byte), s.rx p f = .ok pl → f.dst ≠ s.node → f.typ < 10 → f.typ ≠ 7 →
      (∀ h ∈ (s.port p).held, creditKey h.1 ≠ creditKey f.hdr) →
      let back := [OutEvent.linkCtl p false f.seq (some (creditKey f.hdr)), .linkCtl p false f.seq none]
      (∀ q, s.outPort f.hdr = some q → (s.port q).ready (f.vc * 2 + s.laneAfter p q f.lane) = true →
        ∃ t g, exec (.frameForward p f) s = .next t ∧ t.out = .frame q g :: (back ++ s.out) ∧ (t.port p).held = (s.port p).held ∧
          g.lane = s.laneAfter p q f.lane % 2 ∧ (∀ j, j ≠ 10 → g.hdr.getLsbD j = f.hdr.getLsbD j) ∧ ((s.port q).keyed = false → g.payload = pl) ∧
          g.seq = (s.port q).txSeq ∧ (t.port q).replay = (s.port q).replay ++ [g] ∧ (∀ r, r ≠ p → r ≠ q → t.port r = s.port r) ∧
          t = { s with grm := { s.grm with ports := t.grm.ports }, out := t.out }) ∧
      (∀ q, s.outPort f.hdr = some q → (s.port q).ready (f.vc * 2 + s.laneAfter p q f.lane) = false →
        ∃ t, exec (.frameForward p f) s = .next t ∧ t.out = .linkCtl p false f.seq none :: s.out ∧ (∀ r, r ≠ p → t.port r = s.port r) ∧
          t.port p = { s.port p with rxSeq := (s.port p).rxSeq + 1, rxCtr := (s.port p).rxCtr + 1, held := (s.port p).held ++ [(f.hdr, pl)] } ∧
          t = { s with grm := { s.grm with ports := t.grm.ports }, out := t.out }) ∧
      (s.outPort f.hdr = none → ∃ t, exec (.frameForward p f) s = .next t ∧ t.out = back ++ s.out ∧ (∀ r, r ≠ p → t.port r = s.port r) ∧
        t.port p = { s.port p with rxSeq := (s.port p).rxSeq + 1, rxCtr := (s.port p).rxCtr + 1 } ∧
        t = { s with grm := { s.grm with ports := t.grm.ports }, out := t.out })) ∧
    ∀ (i a n f p tl k uid cx pos len : Nat) (w : Bool) (src : Endpoint) (vc : VC),
      let who := Requester.stream tl k uid cx pos len
      s.injectable i = some { src := src, dst := .port p, vc := vc, body := .read a n f w who } → s.glb.st.serving = true →
      s.grm.fenced.has (peerNode a) = false → a < 2 ^ 40 →
      (∀ q, s.isMember (peerNode a) = true → s.routeTo (peerNode a) = some q → (s.port q).ready 0 = true → s.grm.pend.length < 65536 →
        ∃ t g, exec (.frameInject i) s = .next t ∧ t.out = .frame q g :: s.out ∧ t.mesh = s.mesh.eraseIdx i ∧ g.typ = 0 ∧ g.dst = peerNode a ∧
          g.src = s.node ∧ g.addr = a / 64 * 64 ∧ g.vc = 0 ∧ g.lane = 0 ∧ g.sep = s.sepOf src % 128 ∧ (∀ e ∈ s.grm.pend, e.1 ≠ g.rtag) ∧
          t.pendAt g.rtag = some { dst := peerNode a, read := true, grp := g.rtag, who := who } ∧ (t.port q).replay = (s.port q).replay ++ [g] ∧
          (∀ r, r ≠ q → t.port r = s.port r) ∧ t.tiles = s.tiles) ∧
      (s.isMember (peerNode a) = false ∨ s.routeTo (peerNode a) = none → exec (.frameInject i) s = .next { s with mesh := s.mesh.eraseIdx i ++
        [{ src := .port p, dst := .tile tl, vc := .rsp, body := .response [] 0x0D who }] })

/-- Frames for this node from a node that it hears (R341, R344, R345, R353). A read or a write inside the node's own window becomes a packet to
its target, and one that is refused is answered with its status; a slot message goes to the consumer tile and a credit to its producer; a
reply returns to the requester that waits for it, and a request that has waited too long ends with status 0x0D, with the other frames of its
write (R355). (The payloads of SLOT and CREDIT, and what a status outside the table counts as, are the model's, notes/assumptions/20.md and
71.md.) -/
def Obligations.PeerFramesReachTheirTargets : Prop :=  ∀ (p : Nat) (f : WireFrame) (pl : List Byte) (s : State),
    let o := peerOff f.addr
    let who := s.peerWho f
    let back := fun (b : Body) => [({ src := .port p, dst := .port (s.portFor f.src), vc := .rsp, body := b } : Packet)]
    let got := fun (c : Instr) (l : List Packet) => ∃ t, exec c s = .next t ∧ t.mesh = s.mesh ++ l ∧ (t.port p).rxSeq = (s.port p).rxSeq + 1 ∧
      (∀ q, q ≠ p → t.port q = s.port q) ∧ t.out = .linkCtl p false f.seq (some (creditKey f.hdr)) :: s.out ∧
      t = { s with
        mesh := t.mesh, out := t.out
        grm := { s.grm with ports := t.grm.ports, pend := t.grm.pend, fenced := t.grm.fenced } }
    (s.rx p f = .ok pl → f.dst = s.node → s.hears f = true → f.coding = 0 →
      (f.typ = 0 → f.addr % 64 = 0 →
        (∀ tl off, s.ownWindow o false = .ok (.spad tl off) →
          got (.rdReq p f) [{ src := .port p, dst := s.tileEnd tl, vc := .req, body := .spadRead off 64 who }]) ∧
        (∀ a fu, s.ownWindow o false = .ok (.dram a fu) →
          got (.rdReq p f) [{ src := .port p, dst := .chan (s.exp.locate a).1, vc := .req, body := .read a 64 fu false who }]) ∧
        ∀ st, s.ownWindow o false = .error st → got (.rdReq p f) (back (.response [] st who))) ∧
      (f.typ = 1 → pl ≠ [] →
        (∀ tl off off', s.ownWindow o true = .ok (.spad tl off) → s.ownWindow (o + pl.length - 1) true = .ok (.spad tl off') →
          got (.wr p f) [{ src := .port p, dst := s.tileEnd tl, vc := .pst, body := .spadWrite (bytesAt off pl) (some (f.src, f.sep)) who }]) ∧
        (∀ a fu a', s.ownWindow o true = .ok (.dram a fu) → s.ownWindow (o + pl.length - 1) true = .ok (.dram a' fu) → a / 512 = a' / 512 →
          got (.wr p f) [{ src := .port p, dst := .chan (s.exp.locate a).1, vc := .pst, body := .write a (bytesAt a pl) fu none true who }]) ∧
        ∀ st, s.ownWindow o true = .error st → got (.wr p f) (back (.ack st who))) ∧
      (∀ (m : SlotMsg) (b j : Nat) (d : BightDecl), f.typ = 2 → b < 256 → j < 256 →
        pl = [match m with | .claim => 1 | .full => 2 | .abandon => 3, BitVec.ofNat 8 b, BitVec.ofNat 8 j] → s.bightDecl b = some d → d.cnode = s.node →
        got (.slot p f) [{ src := .port p, dst := s.tileEnd d.ctile, vc := .pst, body := .slot m b j (f.src, f.sep) 0 who }]) ∧
      (∀ (b r : Nat) (d : BightDecl), f.typ = 3 → b < 256 → pl = leBytes 2 b → s.bightDecl b = some d → d.rank (s.node, o / 0x1000000) = some r →
        got (.credit p f) [{ src := .port p, dst := s.tileEnd (o / 0x1000000), vc := .rsp, body := .credit b r }]) ∧
      ∀ (tl k uid cx pos len : Nat) (y : PendFrame), s.pendAt f.rtag = some y → y.dst = f.src → y.st = 0 →
        (f.typ = 4 → f.addr % 256 = 0 → y.read = true → y.who = .stream tl k uid cx pos len →
          got (.rdRsp p f) [{ src := .port p, dst := .tile tl, vc := .rsp, body := .response pl 0 y.who }]) ∧
        (f.typ = 5 → y.read = false → y.who = .step tl k uid → (∀ e ∈ Tab.drop s.grm.pend f.rtag, e.2.read = false → e.2.grp ≠ y.grp) →
          got (.wrAck p f) [{ src := .port p, dst := .tile tl, vc := .rsp, body := .ack (let st := f.addr % 256
            if st ≤ 0x0D ∨ st = 0x0F then st else 1) y.who }])) ∧
    ∀ (tag tl k uid cx pos len : Nat) (y : PendFrame), s.pendAt tag = some y →
      let ends := fun (l : Tab PendFrame) (b : Body) => ∃ t, exec (.replyTimeout tag) s = .next t ∧ t.grm.pend = l ∧
        t.mesh = s.mesh ++ [{ src := .port (s.portFor y.dst), dst := .tile tl, vc := .rsp, body := b }] ∧
        t = { s with mesh := t.mesh, grm := { s.grm with pend := t.grm.pend, fenced := t.grm.fenced } }
      (y.read = true → y.who = .stream tl k uid cx pos len → ends (Tab.drop s.grm.pend tag) (.response [] 0x0D y.who)) ∧
      (y.read = false → y.who = .step tl k uid →
        ends ((Tab.drop s.grm.pend tag).filter fun e => e.2.read || e.2.grp != y.grp) (.ack 0x0D y.who))

/-- Link state (R357 to R359). A CHANGE is kept, and starts the wait of a leader; the leader then makes an epoch above every number seen, of the
connected nodes that have a port UP; an EPOCH with a higher number takes effect, with the leader and the members that it gives, and raises
the grommet interrupt; any other is ignored. (The payloads of CHANGE and EPOCH, and who is told, are the model's, notes/assumptions/20.md
and 22.md.) -/
def Obligations.EpochsFollowTheLinks : Prop :=  ∀ (s : State),
    let inForce := fun (t : State) (e : EpochRec) => t.grm.epoch = e ∧ (∀ n, n < 16 → t.grm.member.getLsbD n = t.epMember n) ∧
      t.glb.irq.getLsbD 2 = true ∧ t.tmap = s.tmap ∧
      ∀ n, n < 16 → e.up.getLsbD n = true → (∀ m, m < n → e.up.getLsbD m = false) → t.grm.leader.toNat = n
    (∀ (p : Nat) (f : WireFrame) (pl : List Byte), s.rx p f = .ok pl → f.dst = s.node →
      (∀ m : ChangeMsg, f.typ = 8 → pl = changeBytes m → m.node.toNat ≠ s.node → ∃ t, exec (.change p f) s = .next t ∧
        t.report m.node.toNat = some m ∧ (∀ n, n ≠ m.node.toNat → n ≠ s.node → t.report n = s.report n) ∧
        t.grm.maxEpoch.toNat = max s.grm.maxEpoch.toNat m.epoch.toNat ∧ t.grm.epoch = s.grm.epoch ∧
        (t.leads = true → t.grm.collecting = true) ∧ t.tiles = s.tiles ∧ t.sched = s.sched) ∧
      (∀ e : EpochRec, f.typ = 9 → pl = epochBytes e → ∃ t, exec (.epoch p f) s = .next t ∧
        (s.grm.epoch.num.toNat < e.num.toNat → inForce t e ∧ t.grm.maxEpoch.toNat = max s.grm.maxEpoch.toNat e.num.toNat) ∧
        (e.num.toNat ≤ s.grm.epoch.num.toNat → t = s.took p f))) ∧
    (s.grm.collecting = true → s.leads = true → s.glb.st ≠ .off → s.glb.st ≠ .halted → ∃ t, exec .epochIssue s = .next t ∧
      t.grm.collecting = false ∧ ∃ e, inForce t e ∧ e.num = s.grm.maxEpoch + 1 ∧
        ∀ n, n < 16 → (e.up.getLsbD n = true ↔ n ∈ s.connected ∧ ∃ r, s.report n = some r ∧ r.ports ≠ 0) ∧
          (e.transit.getLsbD n = true ↔ n ∈ s.connected ∧ ∃ r, s.report n = some r ∧ r.ports ≠ 0 ∧ r.serving = false) ∧
          ∀ p, p < 4 → (e.links.getLsbD (4 * n + p) = true ↔ n ∈ s.connected ∧ ∃ r, s.report n = some r ∧ r.ports.getLsbD p = true))

/-! ## Errors, faults and the log -/

/-- Words that do not check clean, in a tile whose clock runs (R363, R364, R366, R367, R370 to R372), in the maps of a channel and in the mesh
(R362): a word read again proves transient or is poisoned, a heal test tells a healed word from a hard one, the scrubber goes on by one valid
word or ends its lap, and a lap that lasts too long raises the alarm. No byte changes. (That the effects of other memories' errors come with a
command, and that a correctable one is noted there, is the model's choice, notes/assumptions/12.md and 69.md.) -/
def Obligations.ErrorsAreReadAgainAndScrubbed : Prop :=  ∀ (p w : Nat) (s : State), s.memOk = true → s.tileRuns p = true →
    let x := s.tile p
    let src := srcTile p
    let logged := fun (t : State) (code : BitVec 16) => ∃ e, t.elog.queue = s.elog.queue ++ [e] ∧ e.event = code ∧ e.source = src
    let only := fun (t : State) => s.TileOnly t p ∧ ∀ a, (t.tile p).byte a = (s.tile p).byte a
    let warned := fun (t : State) => logged t 0x0006 ∧ t.glb.irq.getLsbD 0 = true
    (∀ (o : Ecc) (scrub : Bool), Tab.get none (x.rereads.map fun e => (e.1, some e.2)) w = some scrub → x.valid.has w = true →
      ((o = .clean ∨ o = .correctable) → ∃ t, exec (.reread (.scratchpad p w) ⟨.uncorrectable, o⟩) s = .next t ∧ only t ∧ logged t 0x0004 ∧ (t.tile p).wordEcc w = o ∧
        t.tile p = { x with
          rereads := Tab.drop x.rereads w, ecc := (t.tile p).ecc, eccCnt := satAdd x.eccCnt 16 8 1, eccSt := x.eccSt ||| 2 }) ∧
      ((o = .uncorrectable ∨ o = .poisoned) → ∃ t, exec (.reread (.scratchpad p w) ⟨.uncorrectable, o⟩) s = .next t ∧ only t ∧ (t.tile p).wordEcc w = .poisoned ∧
        (if scrub then warned t else t.elog = s.elog) ∧
        t.tile p = { x with
          rereads := Tab.drop x.rereads w, ecc := (t.tile p).ecc, eccCnt := satAdd x.eccCnt 24 8 1, eccSt := x.eccSt ||| 4 })) ∧
    (∀ o, ∃ t, exec (.reread (.programStore p) ⟨.correctable, o⟩) s = .next t ∧ s.TileOnly t p ∧ logged t 0x0001 ∧
      t.tile p = { x with eccCnt := satAdd x.eccCnt 0 16 1, eccSt := x.eccSt ||| 1 }) ∧
    (∀ i q o, s.mesh[i]? = some q → exec (.reread (.meshPacket i) ⟨.uncorrectable, o⟩) s = .next { s with mesh := s.mesh.set i { q with bad := true } }) ∧
    (∀ c g, c < 8 → (∃ t, exec (.reread (.tagCache c g) ⟨.uncorrectable, .uncorrectable⟩) s = .next t ∧ t = { s with chans := t.chans } ∧
        (∀ d, d ≠ c → t.chan d = s.chan d) ∧ t.chan c = { s.chan c with
          lostTags := (t.chan c).lostTags, tagLines := (s.chan c).tagLines.filter fun l => !(l.host == none && l.key == g) } ∧
        ∀ b, (t.chan c).lostTags.has b = (b / 128 == g || (s.chan c).lostTags.has b)) ∧
      ∃ t, exec (.reread (.writtenMap c g) ⟨.uncorrectable, .uncorrectable⟩) s = .next t ∧ t = { s with chans := t.chans } ∧
        (∀ d, d ≠ c → t.chan d = s.chan d) ∧ t.chan c = { s.chan c with lostWpm := (t.chan c).lostWpm } ∧
        ∀ b, (t.chan c).lostWpm.has b = (b / 64 == g || (s.chan c).lostWpm.has b)) ∧
    (x.heals.has (x.place w) = true → x.valid.has w = true → (x.wordEcc w = .clean ∨ x.wordEcc w = .correctable) → ∀ o, (o = .clean ∨ o = .correctable) →
      ∃ t, exec (.healTest p w o) s = .next t ∧ only t ∧ logged t (if o = .clean then 0x0002 else 0x0003) ∧ (t.tile p).wordEcc w = o ∧
        t.tile p = { x with heals := x.heals.del (x.place w), ecc := (t.tile p).ecc, eccSt := if o = .clean then x.eccSt else x.eccSt ||| 8 }) ∧
    (s.scrubs p = true →
      (∀ o, x.nextScrub x.scrubPos = some w → x.valid.has w = true → x.wordEcc w ≠ .poisoned → o ≠ .poisoned →
        ∃ t, exec (.scrub p o) s = .next t ∧ only t ∧ (t.tile p).wordEcc w = o ∧ (t.tile p).scrubPos = x.scrubKey w + 1 ∧
          (o = .clean → t.elog = s.elog) ∧ (o = .correctable → logged t 0x0001 ∧ (t.tile p).eccCnt = satAdd x.eccCnt 0 16 1) ∧
          (o = .uncorrectable → t.elog = s.elog ∧ (t.tile p).rereads = Tab.put x.rereads w true)) ∧
      (∀ o, x.nextScrub x.scrubPos = some w → x.wordEcc w = .poisoned →
        ∃ t, exec (.scrub p o) s = .next t ∧ only t ∧ warned t ∧ t.tile p = { x with scrubPos := x.scrubKey w + 1 }) ∧
      (x.nextScrub x.scrubPos = none → x.scrubPos = x.scrubEnd + 8191 → ∃ t, exec (.scrub p .clean) s = .next t ∧ only t ∧ t.elog = s.elog ∧
        (t.tile p).scrubLap = x.scrubLap + 1 ∧ (t.tile p).scrubPos = 0 ∧ (t.tile p).alarmed = false ∧
        (t.tile p).lapUs = BitVec.ofNat 32 ((s.glb.time - x.lapStart) / 100)) ∧
      (let age := (s.glb.time - x.lapStart) / 100
       x.alarmed = false → max 1 (getFld x.scrubCtl 16 16) * 1000 < age →
        ∃ t, exec (.scrubAlarm p age) s = .next t ∧ only t ∧ logged t 0x0008 ∧ t.tile p = { x with scrubAlarm := true, alarmed := true } ∧
          ∀ e ∈ t.elog.queue.getLast?, e.info0 = BitVec.ofNat 32 age))

/-- A lost tile (R377, R379, R383, R385, R422). The fault is latched as entry 0, the logical tile that the tile serves is fenced, its router stops
delivering, and retrains under way end; with two other faults latched the device halts. Recovering a tile on which nothing runs moves its
logical tile to the lowest spare that qualifies, with the slots of its bights, once the mesh holds no packet for the spare, or retires it where
none does; the tile is recorded as retired and goes OFF. -/
def Obligations.LostTilesMoveToSpares : Prop :=  ∀ (p : Nat) (s : State),
    let l := s.logOf p
    let placed := (Tab.get none s.rig.place l).isSome
    let ent : FaultEnt := { source := srcTile p, kind := 1, at_ := s.glb.time }
    let raised := fun (b : Bool) => p < 68 ∧ s.glb.st ≠ .halted ∧ s.glb.st ≠ .off ∧ (s.tile p).lost = false ∧ (b = true ∨ s.pd p = 2)
    (∀ b, raised b → s.svc.faults = [] → ∃ t, exec (.tileLost p b) s = .next t ∧ t.svc.faults = [ent] ∧ (t.tile p).lost = true ∧
      (t.tile p).deadRouter = true ∧ t.mapEnt l = { s.mapEnt l with fenced := placed } ∧ (∀ n, n ≠ l → t.mapEnt n = s.mapEnt n) ∧
      (∃ e, t.elog.queue = s.elog.queue ++ [e] ∧ e.event = 0x0020 ∧ e.source = srcTile p ∧ e.info0 = 1 ∧ e.info1 = 0) ∧
      (∀ c, t.chan c = if (s.chan c).retrain then { s.chan c with retrain := false, busy := false, due := true } else s.chan c) ∧
      (∀ q, q ≠ p → t.tile q = s.tile q) ∧ t.sched = s.sched ∧ t.glb = s.glb) ∧
    (∀ b f g, raised b → s.svc.faults = [f, g] → f.source ≠ srcTile p → g.source ≠ srcTile p →
      ∃ t, exec (.tileLost p b) s = .next t ∧ t.glb.st = .halted ∧ t.glb.haltCause = 1 ∧ t.pins.faultN = false ∧ t.svc = s.svc ∧
        (∀ q, q < 4 → (t.port q).st = .down) ∧ ∃ e ∈ t.elog.queue, e.event = 0x0060) ∧
    ∀ (f : FaultEnt) (rest : List FaultEnt), p < 68 → s.svc.faults = f :: rest → (∀ g ∈ rest, g.acted = false) → f.source = srcTile p → f.kind = 1 → f.acted = false → f.uids = [] →
      s.glb.st ≠ .halted → s.glb.st ≠ .off → placed = true → (s.mapEnt l).phys = p → (s.mapEnt l).role = 0 → s.onTile p = [] → s.svc.retireTile = none →
      (∀ n, s.chooseSpare l = some n → s.physOf n ≠ p → (∀ w ∈ s.liveWords l, (s.tile p).wordReads w = true) →
        let q := s.physOf n
        (∀ x ∈ s.mesh, x.dests.contains (.tile q) = true → x.dst ≠ .tile p → x.src ≠ .tile p →
          ∃ t, exec (.faultRecovery true .readable) s = .next t ∧ t.svc.faults = { f with spare := some q } :: rest ∧ t.svc.pd = s.svc.pd ∧
            t.mapEnt l = { s.mapEnt l with fenced := true } ∧ t.mapEnt n = { s.mapEnt n with fenced := true } ∧
            ∀ m, m ≠ l → m ≠ n → t.mapEnt m = s.mapEnt m) ∧
        (s.meshClear q = true → ∃ t, exec (.faultRecovery true .readable) s = .next t ∧ t.mapEnt l = { phys := q, role := 0 } ∧ t.mapEnt n = { phys := p, role := 2 } ∧
          (∀ m, m ≠ l → m ≠ n → t.mapEnt m = s.mapEnt m) ∧ t.pd p = 0 ∧ t.pd q = 2 ∧ t.journal.tiles.has p = true ∧ t.svc.faults = rest ∧
          (∀ e ∈ s.consumedOn l, ∀ j, j < e.2.slots → (s.slotAt e.1 j).st = .full → t.slotAt e.1 j = s.slotAt e.1 j ∧
            (s.memOk = true → ∀ a, e.2.slotOff j ≤ a → a < e.2.slotOff j + e.2.slotsz * 64 → (s.tile p).valid.has (a / 8) = true →
              (t.tile q).byte a = (s.tile p).byte a)) ∧
          (∃ e ∈ t.elog.queue, e.event = 0x0022 ∧ e.source = srcTile p ∧ e.info0 = 2 ∧ e.info1 = BitVec.ofNat 32 q) ∧
          ∃ e ∈ t.elog.queue, e.event = 0x0021 ∧ e.source = srcTile p)) ∧
      ∀ a b, s.chooseSpare l = none → ∃ t, exec (.faultRecovery a b) s = .next t ∧ t.mapEnt l = { phys := p, role := 2 } ∧
        (∀ m, m < 68 → m ≠ l → t.mapEnt m = if (s.mapEnt m).role = 1 then { s.mapEnt m with fenced := false } else s.mapEnt m) ∧ t.pd p = 0 ∧ t.journal.tiles.has p = true ∧ t.svc.faults = rest ∧
        ∃ e ∈ t.elog.queue, e.event = 0x0020 ∧ e.source = srcTile p ∧ e.info0 = 1 ∧
          e.sev = (if (List.range 68).any fun n => (s.mapEnt n).role == 1 then 3 else 4)

/-- Retirements on command (R373 to R376), in a write of the PF that acts while none is in progress. A line takes the lowest free spare line of
its bank and no byte changes; a bank is recorded for the next whole load; a tile is lost, and the command is BUSY until its recovery. -/
def Obligations.RetirementsAreRecorded : Prop :=  ∀ (v : Word) (s : State), s.pfWrites 0 0x10600 = true → v.getLsbD 31 = true → s.svc.retireBusy = false → s.svc.romMode = false →
    s.glb.st ≠ .halted → getFld v 2 7 < 68 →
    let p := getFld v 2 7
    let bank := getFld v 9 6
    let line := getFld v 15 11
    let logged := fun (t : State) (kind : Word) => ∃ e, t.elog.queue = s.elog.queue ++ [e] ∧ e.event = 0x0022 ∧ e.source = srcTile p ∧ e.info0 = kind
    (getFld v 0 2 = 0 →
      (∀ m k, addSpare (s.tile p).spare bank line = some (m, k) → ∃ t, exec (.lineRetirement 0 v true) s = .next t ∧ logged t 0 ∧
        t.tile p = { s.tile p with spare := m } ∧ (∀ q, q ≠ p → t.tile q = s.tile q) ∧ t.journal.lines = s.journal.lines ++ [(p, bank, line)] ∧
        t.svc.retireDone = true ∧ t.svc.retireErr = s.svc.retireErr ∧ t.svc.retireReason = 0) ∧
      ∀ b, addSpare (s.tile p).spare bank line = none → ∃ t, exec (.lineRetirement 0 v b) s = .next t ∧ t.svc.retireErr = true ∧ t.svc.retireReason = 1 ∧
        t.tiles = s.tiles ∧ t.journal = s.journal ∧ t.flash = s.flash) ∧
    (getFld v 0 2 = 1 → (s.rig.placeOf (s.logOf p)).isSome = false → ∃ t, exec (.bankRetirement 0 v true) s = .next t ∧ logged t 1 ∧ t.tiles = s.tiles ∧
      (Tab.get 0 t.journal.banks p).getLsbD bank = true ∧ (∀ b, b ≠ bank → (Tab.get 0 t.journal.banks p).getLsbD b = (Tab.get 0 s.journal.banks p).getLsbD b) ∧
      t.svc.retireDone = true ∧ t.svc.retireReason = 0) ∧
    ∀ b, getFld v 0 2 = 2 → s.journal.tiles.has p = false → s.svc.faults = [] → ∃ t, exec (.tileRetirement 0 v b) s = .next t ∧ t.svc.retireBusy = true ∧
      t.svc.retireTile = some p ∧ (t.tile p).lost = true ∧ t.svc.faults = [{ source := srcTile p, kind := 1, at_ := s.glb.time }] ∧ t.sched = s.sched

/-- The log (R387, R390 to R393). Its oldest event, 1,000 ticks after its time, takes the next `SEQ` and a place: one of the first 896, or the
next of the ring, whose oldest entry goes when it is full. An entry whose copies differ is counted. The interrupt follows the severity.
CLEAR empties the log and keeps the events that are not committed yet. (When an event is committed, and that `SEQ` counts the entry itself,
are DEDUCED, notes/assumptions/39.md.) -/
def Obligations.TheLogCommitsInOrder : Prop :=  (∀ (e : LogEvent) (rest : List LogEvent) (copies reads : Bool) (s : State), s.elog.queue = e :: rest → (∀ f ∈ rest, f.before e = false) →
    e.time + 1000 ≤ s.glb.time → s.glb.st ≠ .off →
    let g := s.elog
    let x : LogStored := { ev := { e with late := decide (e.time + 1000 < s.glb.time) }, seq := BitVec.ofNat 16 (g.seq + 1), lost := !reads }
    ∃ t, exec (.logCommit copies reads) s = .next t ∧ t.elog.queue = rest ∧ t.elog.seq = g.seq + 1 ∧
      (g.first.length < 896 → t.elog.first = g.first ++ [x] ∧ t.elog.ring = g.ring ∧ t.elog.ovf = g.ovf) ∧
      (896 ≤ g.first.length → g.rcount < 128 → t.elog.first = g.first ∧ t.elog.ring = Tab.put g.ring ((g.rhead + g.rcount) % 128) x ∧
        t.elog.rcount = g.rcount + 1 ∧ t.elog.rhead = g.rhead ∧ t.elog.ovf = g.ovf) ∧
      (896 ≤ g.first.length → 128 ≤ g.rcount → t.elog.first = g.first ∧ t.elog.ring = Tab.put g.ring g.rhead x ∧ t.elog.rcount = g.rcount ∧
        t.elog.rhead = (g.rhead + 1) % 128 ∧ t.elog.ovf = true) ∧
      ((copies = true ∧ reads = true) → t.elog.loss = g.loss ∧ t.elog.lostCount = g.lostCount) ∧
      (¬ (copies = true ∧ reads = true) → t.elog.loss = true ∧ t.elog.lostCount = satAdd g.lostCount 0 32 1) ∧
      ((g.irqSev.getLsbD e.sev.toNat = true ∨ 3 ≤ e.sev.toNat) → t.glb.irq.getLsbD 0 = true) ∧
      (copies = true → reads = true → g.irqSev.getLsbD e.sev.toNat = false → e.sev.toNat < 3 → t.glb = s.glb) ∧
      t.tiles = s.tiles ∧ t.sched = s.sched ∧ t.mesh = s.mesh) ∧
  ∀ (v : Word) (s : State), s.pfWrites 0 0x900004 = true → v.getLsbD 0 = true → ∃ t, exec (.logClear 0 v) s = .next t ∧
    t = { s with elog := { s.elog with
      first := [], ring := [], rhead := 0, rcount := 0, ovf := false, seq := 0, irqSev := BitVec.ofNat 5 (getFld v 8 5) } }

/-- Re-centring (R420 to R422, R386) of a trained channel in ON: at its slot it stops serving, for a full retrain when it is 15 degrees or more
from its training point, or owes one from an earlier slot, and no other channel retrains, unless a recovery window defers it; when the re-centre
or the retrain ends it serves again, and a retrain that fails takes it out of service. Elsewhere than at its slot it takes none. (What is held
meanwhile, and that a slot in a window is put off, are the model's reading, notes/assumptions/27.md and 40.md.) -/
def Obligations.ChannelsRecentreAndRetrain : Prop :=  ∀ (c : Nat) (s : State), c < 8 →
    let x := s.chan c
    let only := fun (t : State) => (∀ d, d ≠ c → t.chan d = s.chan d) ∧ t = { s with chans := t.chans }
    (∀ temp : Int, s.glb.time % 100000 ≠ 12500 * c → exec (.recentre c temp) s = .next s) ∧
    (∀ temp : Int, s.glb.time % 100000 = 12500 * c → s.pd (68 + c) = 2 → x.train = .trained → x.busy = false → x.retrain = false → s.glb.st ≠ .off →
      (s.svc.faults = [] →
        let full := x.due || decide (15 ≤ (temp - x.tTrain).natAbs)
        let other := (List.range 8).any fun d => d != c && (s.chan d).retrain
        ∃ t, exec (.recentre c temp) s = .next t ∧ only t ∧
          t.chan c = { x with tNow := temp, busy := true, deferred := false, retrain := full && !other, due := full && other }) ∧
      (s.svc.faults ≠ [] → ∃ t, exec (.recentre c temp) s = .next t ∧ only t ∧ t.chan c = { x with deferred := true })) ∧
    (x.busy = true → x.retrain = false → ∃ t, exec (.recentreEnd c) s = .next t ∧ only t ∧
      t.chan c = { x with busy := false, trainCnt := satAdd x.trainCnt 0 16 1 }) ∧
    (x.retrain = true →
      (∃ t, exec (.fullRetrainEnd c true) s = .next t ∧ only t ∧
        t.chan c = { x with busy := false, retrain := false, tTrain := x.tNow, trainCnt := satAdd x.trainCnt 16 16 1 }) ∧
      (s.svc.faults = [] → x.train ≠ .out → ∃ t, exec (.fullRetrainEnd c false) s = .next t ∧ (t.chan c).train = .out ∧ t.chanHolds c = false ∧ t.glb.degChan = true ∧
        (s.glb.st.serving = true → t.glb.st = .degraded) ∧ (∃ e ∈ t.elog.queue, e.event = 0x0023 ∧ e.source = srcChan c) ∧
        t.svc.faults = [{ source := srcChan c, kind := 4, at_ := s.glb.time }] ∧ t.tiles = s.tiles ∧
        ∀ d, d ≠ c → t.chan d = if (s.chan d).retrain then { s.chan d with retrain := false, busy := false, due := true } else s.chan d))

/-! ## Rigs and firmware -/

/-- Rig commands (R254 to R256, R259, R261, R262), in a write of the PF that the serving device takes while no service command runs. A slot write
stores the image and makes the slot VALID when it validates and BAD when it does not; a load validates its image first and, when it passes,
waits for the tasks in flight while the running rig stays; SET_BOOT and REVOKE are committed; compaction keeps what the journal says. -/
def Obligations.RigCommandsValidateFirst : Prop :=  ∀ (v : Word) (io : SourceIo) (s : State), s.svcBusy = false →
    let j := s.journal
    let done := fun (t : State) => t.svc.rigDone = true ∧ t.svc.rigReason = 0 ∧ t.svc.rigBusy = false
    let failed := fun (t : State) (e : ImgErr) => t.svc.rigErr = true ∧ t.svc.rigReason = BitVec.ofNat 8 e.reason ∧ t.svc.rigBusy = false
    let same := fun (t : State) => t.rig = s.rig ∧ t.tmap = s.tmap ∧ t.bights = s.bights ∧ t.sched = s.sched ∧ t.tiles = s.tiles ∧ t.glb.st = s.glb.st
    let waits := fun (t : State) (k : DrainKind) (r : Rig) => t.svc.rigBusy = true ∧ ∃ d, t.svc.drain = some d ∧ d.kind = k ∧ d.rig = r
    let kept := fun (t : State) => t.journal = { j with seq := t.journal.seq, comm := t.journal.comm, pos := t.journal.pos } ∧
      (Mem.wf 0xFF s.flash = true → ∀ a, a < 0x3800000 → Mem.get 0xFF t.flash a = Mem.get 0xFF s.flash a)
    (s.pfWrites 0 0x1042C = true → s.svc.romMode = false → s.svc.memFail = false → s.glb.st.serving = true → io.flashOk = true →
      (∀ s1 b, getFld v 0 4 = 1 → Mem.wf 0xFF s.flash = true → s.runsSlot (slotOf v) = false →
        (j.boot = slotOf v → (j.rig (slotOf v)).st ≠ .valid) → s.source io 0x1800000 = some (s1, b) →
        let n := slotOf v
        ∃ t, exec (.writeSlot 0 v io) s = .next t ∧ same t ∧ t.flashRead (rigBase n) b.length = b ∧ t.journal.rig (!n) = j.rig (!n) ∧ t.journal.boot = j.boot ∧
          (∀ a, a < 0x3800000 → (a < rigBase n ∨ rigBase n + 0x1800000 ≤ a) → Mem.get 0xFF t.flash a = Mem.get 0xFF s.flash a) ∧
          match s.fullErr b with
          | none => (t.journal.rig n).st = .valid ∧ (t.journal.rig n).ver = imgVersion b ∧ (t.journal.rig n).len = b.length ∧ done t
          | some e => (t.journal.rig n).st = .bad ∧ (t.journal.rig n).reason = BitVec.ofNat 8 e.reason ∧ failed t e) ∧
      (∀ (m : Bool) (c : Nat → Word → SourceIo → Instr),
        (c = .activate ∧ getFld v 0 4 = 2 ∧ m = slotOf v ∨ c = .rollback ∧ getFld v 0 4 = 3 ∧ m = !j.boot) → (j.rig m).st = .valid →
        ∃ t, exec (c 0 v io) s = .next t ∧ same t ∧ match s.checkFull (s.slotImage m) with
          | .ok r => waits t (.whole (some m)) r.1 ∧ t.journal = j
          | .error e => (t.journal.rig m).st = .bad ∧ (t.journal.rig m).reason = BitVec.ofNat 8 e.reason ∧ failed t e) ∧
      (∀ s1 b, s.source io 0x1800000 = some (s1, b) →
        (getFld v 0 4 = 4 → ∃ t, exec (.load 0 v io) s = .next t ∧ same t ∧ t.flash = s.flash ∧ match s.checkFull b with
          | .ok r => waits t (.whole none) r.1
          | .error e => failed t e) ∧
        (getFld v 0 4 = 5 → ∃ t, exec (.reconfLay 0 v io) s = .next t ∧ same t ∧ t.flash = s.flash ∧ match s.checkLay b with
          | .ok r => waits t (.lay (imgTarget b)) r
          | .error e => failed t e) ∧
        (getFld v 0 4 = 6 → ∃ t, exec (.reconfTile 0 v io) s = .next t ∧ same t ∧ t.flash = s.flash ∧ match s.checkTile b with
          | .ok r => waits t (.tile (imgTarget b)) r ∧ t.shadow = r
          | .error e => failed t e)) ∧
      (getFld v 0 4 = 7 → (j.rig (slotOf v)).st = .valid → (j.rig (slotOf v)).ver = s.rig.version →
        (∀ l, l < 16 → (rigOf (s.slotImage (slotOf v))).layVer l = s.rig.layVer l) →
        ∃ t, exec (.setBoot 0 v io) s = .next t ∧ same t ∧ t.journal.boot = slotOf v ∧ t.journal.rig0 = j.rig0 ∧ t.journal.rig1 = j.rig1 ∧ done t) ∧
      (getFld v 0 4 = 8 → ∃ t, exec (.compact 0 v io) s = .next t ∧ same t ∧ kept t ∧ done t) ∧
      (let key := getFld v 8 2
       getFld v 0 4 = 9 → (∀ m, (j.rig m).st = .valid → (j.rig m).key.toNat ≠ key) → (s.svc.rigActive.getLsbD 0 = true → s.rig.key ≠ key) →
        ∃ t, exec (.revoke 0 v io) s = .next t ∧ same t ∧ (∀ i, t.journal.revoked.getLsbD i = (i == key || j.revoked.getLsbD i)) ∧ done t)) ∧
    (48 < s.journalUsed → s.glb.st ≠ .off → s.glb.st ≠ .halted → ∃ t, exec (.journalCompaction true) s = .next t ∧ same t ∧ kept t ∧ t.svc = s.svc)

/-- The end of a drain (R259 to R262, R228), when the tasks and packets that it waits for are gone: a tile load rewrites the tile's program
store, a lay load the structure of its lay, and a whole load the tile map and every hitch, after which the device serves and the slot is the
boot slot; where the flash does not take that record, the rig that ran stays and the slot is BAD. At its limit the tasks still in flight end
with status 0x06. -/
def Obligations.DrainsEndInTheNewRig : Prop :=  ∀ (d : DrainSt) (s : State), s.svc.drain = some d → s.glb.st ≠ .off → s.glb.st ≠ .halted →
    let ended := fun (t : State) => t.rig = d.rig ∧ t.shadow = d.rig ∧ t.svc.rigBusy = false ∧ t.svc.drain = none ∧ t.svc.rigDone = true ∧
      t.svc.rigReason = 0
    let fresh := fun (t : State) (h : Nat) => (t.hitch h).count = 0 ∧ (t.hitch h).gen = 0 ∧ match Tab.get none d.rig.hitches h with
      | some (n, l) => (t.hitch h).target = n ∧ (t.hitch h).lay = l ∧ (t.hitch h).alloc = true
      | none => (t.hitch h).alloc = false ∧ ((t.hitch h).target, (t.hitch h).lay) = Tab.get (0, 0) d.rig.idle h
    let placed := fun (t : State) (q : Nat) => t.tile q = { s.tile q with
      pstore := (t.tile q).pstore, masks := (t.tile q).masks, turn := (t.tile q).turn, closed := (t.tile q).closed, launch := (t.tile q).launch
      tokens := (t.tile q).tokens, tokMark := (t.tile q).tokMark }
    (s.drainDone d = true →
      (∀ b l, d.kind = .tile l → ∃ t, exec (.drainEnd b) s = .next t ∧ ended t ∧ t.svc.rigActive = s.svc.rigActive ||| 8 ∧
        (t.tile (s.physOf l)).pstore = Mem.write 0 [] 0 ((d.rig.store l).getD []) ∧ (∀ q, placed t q) ∧
        (∀ q, q ≠ s.physOf l → (t.tile q).pstore = (s.tile q).pstore ∧ (t.tile q).masks = (s.tile q).masks) ∧
        (s.taskList = [] → t.sched = s.sched) ∧ t.bights = s.bights ∧ t.tmap = s.tmap) ∧
      (∀ b n, d.kind = .lay n → ∃ t, exec (.drainEnd b) s = .next t ∧ ended t ∧ t.svc.rigActive = s.svc.rigActive ||| 8 ∧ t.tmap = s.tmap ∧
        ∀ h, h < 256 → (s.resetsHitch d h = true → fresh t h) ∧ (s.resetsHitch d h = false → t.hitch h = s.hitch h)) ∧
      (∀ slot, d.kind = .whole slot → d.set = none → ∃ t, exec (.drainEnd true) s = .next t ∧ ended t ∧ t.svc.rigActive = activeWord slot d.rig ∧
        (∀ l, l < 68 → t.mapEnt l = { phys := d.phys.getD l l, role := d.role.getD l 0 }) ∧ (∀ h, h < 256 → fresh t h) ∧
        t.glb.st.serving = true ∧ t.glb.degRig = d.rig.degraded ∧ (∀ n, slot = some n → t.journal.boot = n) ∧ (slot = none → t.journal = s.journal)) ∧
      (∀ n, d.kind = .whole (some n) → ∃ t, exec (.drainEnd false) s = .next t ∧ t.rig = s.rig ∧ t.tmap = s.tmap ∧ t.bights = s.bights ∧
        t.glb.st = s.glb.st ∧ (t.journal.rig n).st = .bad ∧ t.journal.boot = s.journal.boot ∧ t.svc.rigErr = true ∧ t.svc.rigReason = 0x0F ∧
        t.svc.rigBusy = false ∧ t.svc.drain = none)) ∧
    ∃ t, exec .drainLimit s = .next t ∧ (∀ u y, s.task u = some y → s.drains d y = true →
      (∀ p k, y.st = .running p k → ((s.strand p k).st = .issuing ∨ (s.strand p k).st = .waiting) →
        (t.strand p k).st = .ending ∧ (t.strand p k).status = 6) ∧
      ((y.st = .verdicts ∨ ∃ p, y.st = .launch p) → ∃ z, t.task u = some z ∧ z.st = .retired ∧ z.status = 6)) ∧ t.rig = s.rig ∧ t.svc.drain = some d

/-- Service firmware (R418, R424 to R427), in writes of the PF that are taken. A slot write stores its image and makes the slot VALID or BAD;
SWITCH hands over to a slot that authenticates, in a quiet state, and fails with BUSY when none comes; an alive firmware is committed and
one that is not gives way to the old one; SET_BOOT commits the running slot; the ROM's LOAD runs an image that authenticates. -/
def Obligations.FirmwareSlotsSwitchAndRevert : Prop :=  ∀ (v : Word) (io : SourceIo) (s : State),
    let j := s.journal
    let n := slotOf v
    let done := fun (t : State) => t.svc.fwDone = true ∧ t.svc.fwReason = 0
    let failed := fun (t : State) (r : Nat) => t.svc.fwErr = true ∧ t.svc.fwReason = BitVec.ofNat 8 r
    let same := fun (t : State) => t.rig = s.rig ∧ t.tmap = s.tmap ∧ t.bights = s.bights ∧ t.sched = s.sched ∧ t.tiles = s.tiles ∧ t.glb.st = s.glb.st
    (s.pfWrites 0 0x10800 = true → s.svcBusy = false → (s.glb.st.serving = true ∨ s.glb.st = .held) → io.flashOk = true →
      (∀ s1 b, getFld v 0 4 = 1 → Mem.wf 0xFF s.flash = true → s.runsFw n = false → (j.fwBoot = n → (j.fw n).st ≠ .valid) →
        s.source io 4194304 = some (s1, b) →
        ∃ t, exec (.fwWriteSlot 0 v io) s = .next t ∧ same t ∧ t.flashRead (fwBase n) b.length = b ∧ t.journal.fw (!n) = j.fw (!n) ∧
          (∀ a, a < 0x3800000 → (a < fwBase n ∨ fwBase n + 4194304 ≤ a) → Mem.get 0xFF t.flash a = Mem.get 0xFF s.flash a) ∧
          match s.fwErrOf b with
          | none => (t.journal.fw n).st = .valid ∧ (t.journal.fw n).ver = imgVersion b ∧ done t
          | some e => (t.journal.fw n).st = .bad ∧ (t.journal.fw n).reason = BitVec.ofNat 8 e.reason ∧ failed t e.reason) ∧
      (s.svc.romMode = false → getFld v 0 4 = 3 → (j.fw n).st = .valid → s.runsFw n = true →
        ∃ t, exec (.fwSetBoot 0 v io) s = .next t ∧ same t ∧ t.journal.fwBoot = n ∧ t.journal.fw0 = j.fw0 ∧ t.journal.fw1 = j.fw1 ∧ done t) ∧
      (s.svc.romMode = false → getFld v 0 4 = 2 → (j.fw n).st = .valid → s.runsFw n = false →
        ∃ t, exec (.switch 0 v io) s = .next t ∧ same t ∧ match s.fwErrOf (s.fwImage n) with
          | some e => (t.journal.fw n).st = .bad ∧ failed t e.reason ∧ t.svc.runSlot = s.svc.runSlot
          | none => t = { s with svc := t.svc } ∧ t.svc.fwBusy = true ∧
            (s.fwQuiet = true → t.svc.runSlot = n ∧ t.svc.fwVersion = (j.fw n).ver ∧ t.svc.fwWait = none ∧
              t.svc.fwAlive = some (s.svc.runSlot, s.svc.fwVersion, s.svc.fwMem, n)) ∧
            (s.fwQuiet = false → t.svc.runSlot = s.svc.runSlot ∧ t.svc.fwWait = some n)) ∧
      (∀ env s1 b, s.svc.romMode = true → getFld v 0 4 = 4 → s.source io 4194304 = some (s1, b) →
        ∃ t, exec (.fwLoad 0 v io env) s = .next t ∧ match s.fwErrOf b with
          | some e => same t ∧ failed t e.reason ∧ t.svc.romMode = true
          | none => t.svc.romMode = false ∧ t.svc.fwMem = true ∧ t.svc.fwVersion = imgVersion b ∧ (t.glb.st.serving = true ∨ t.glb.st = .held))) ∧
    (∀ m, s.svc.fwWait = some m → s.fwQuiet = false → ∃ t, exec .switchWaitTimeout s = .next t ∧ same t ∧ failed t 0x0D ∧ t.svc.fwBusy = false ∧
      t.svc.runSlot = s.svc.runSlot ∧ t.journal = j) ∧
    ∀ old ver mem m, s.svc.fwWait = none → s.svc.fwAlive = some (old, ver, mem, m) →
      (∃ t, exec (.fwAlive true) s = .next t ∧ same t ∧ done t ∧ t.journal.fwBoot = m ∧ t.svc.runSlot = s.svc.runSlot ∧ t.svc.fwBusy = false ∧
        t.svc.fwAlive = none) ∧
      ∃ t, exec (.fwAliveTimeout true) s = .next t ∧ same t ∧ t.svc.runSlot = old ∧ t.svc.fwVersion = ver ∧ t.svc.fwMem = mem ∧ t.svc.fwReverted = true ∧
        t.svc.fwErr = true ∧ (t.journal.fw m).st = .bad ∧ t.journal.fwBoot = j.fwBoot ∧ t.svc.fwBusy = false

/-! ## Registers -/

/-- Accesses to BAR0 (R13, R15, R176, R438, R441 to R443) of a function whose BARs answer. A write to an RW register reads back in the bits it
has, and no other of them changes; an RW1C flag goes when 1 is written to it; a read returns the register, and that of the low word of
a 64-bit one holds its high word for the next read; a log entry no two of whose copies are equal is counted when it is read (R392); a read of
the program store goes on by one word; an access of another size or alignment is aborted and logged; unmasking an interrupt that is raised
sends its message, or sets its Pending Bit while the message may not go (R396). (Which pairs R13 takes in is DEDUCED, notes/assumptions/70.md.) -/
def Obligations.RegistersReadWhatWasWritten : Prop :=  ∀ (p : Nat) (s : State), p < 68 → s.barOpen 0 = true →
    (∀ e ∈ rwRegisters p, ∀ v : BitVec 64, s.blockUp e.1 = true → ∃ t, exec (.csrWrite 0 e.1 4 v) s = .next t ∧ t.csr 0 e.1 = v.setWidth 32 &&& e.2 ∧
      (∀ g ∈ rwRegisters p, g.1 ≠ e.1 → t.csr 0 g.1 = s.csr 0 g.1) ∧ (∀ q, q ≠ p → t.tile q = s.tile q) ∧ t.sched = s.sched ∧ t.chans = s.chans ∧
      (∀ a, (t.tile p).byte a = (s.tile p).byte a)) ∧
    (∀ v : BitVec 64, s.blockUp 0x100000 = true →
      (∃ t, exec (.csrWrite 0 (0x100280 + p * 0x10000) 4 v) s = .next t ∧ (∀ q, q ≠ p → t.tile q = s.tile q) ∧ t = { s with tiles := t.tiles } ∧
        t.tile p = { s.tile p with vecSt := (s.tile p).vecSt &&& ~~~(v.setWidth 32 &&& 7) }) ∧
      ∃ t, exec (.csrWrite 0 (0x100500 + p * 0x10000) 4 v) s = .next t ∧ (∀ q, q ≠ p → t.tile q = s.tile q) ∧ t = { s with tiles := t.tiles } ∧
        t.tile p = { s.tile p with eccSt := (s.tile p).eccSt &&& ~~~(v.setWidth 32 &&& 0x3F) }) ∧
    (∀ off, off % 4 = 0 → latches 0 off = false → (off < 4 ∨ latches 0 (off - 4) = false) →
      ¬ (0x100000 ≤ off ∧ off < 0x540000 ∧ off % 0x10000 = 0x304) →
      exec (.lowWordRead 0 off ⟨4, true⟩) s = .next (s.emit (.completion 0 (leBytes 4 (s.csr 0 off).toNat)))) ∧
    (∀ off (u : State), latches 0 off = true → off % 4 = 0 → ∃ t, exec (.lowWordRead 0 off ⟨4, true⟩) s = .next t ∧
      t.out = .completion 0 (leBytes 4 (s.csr 0 off).toNat) :: s.out ∧ t = { s with funcs := t.funcs, out := t.out } ∧
      (u.barOpen 0 = true → u.latchOf 0 off = s.latchOf 0 off → (u.func 0).latch = (t.func 0).latch →
        ∃ w, exec (.lowWordRead 0 (off + 4) ⟨4, true⟩) u = .next w ∧ w.out = .completion 0 (leBytes 4 (s.csr 0 (off + 4)).toNat) :: u.out)) ∧
    (s.blockUp 0x10 = true → (s.csr 0 0x10).toNat = s.glb.time % 2 ^ 32 ∧ (s.csr 0 0x14).toNat = s.glb.time / 2 ^ 32 % 2 ^ 32) ∧
    (∀ i k x, i < 1024 → k < 8 → s.elog.entry i = some x → x.lost = false → ∃ t, exec (.lowWordRead 0 (0x901000 + 32 * i + 4 * k) ⟨4, false⟩) s = .next t ∧
      t.elog.entry i = some { x with lost := true } ∧ (∀ j, j < 1024 → j ≠ i → t.elog.entry j = s.elog.entry j) ∧ t.elog.loss = true ∧
      t.elog.lostCount = satAdd s.elog.lostCount 0 32 1 ∧ t.glb.irq.getLsbD 0 = true) ∧
    (s.blockUp 0x100000 = true → ∃ t, exec (.pstoreDataRead 0 p) s = .next t ∧
      t.out = .completion 0 (leBytes 4 (leNat ((s.tile p).psRead (4 * (s.tile p).pstoreAddr.toNat) 4))) :: s.out ∧
      t.tile p = { s.tile p with pstoreAddr := (s.tile p).pstoreAddr + 1 } ∧ (∀ q, q ≠ p → t.tile q = s.tile q) ∧
      t = { s with tiles := t.tiles, out := t.out }) ∧
    (∀ off size, goodAccess off size = false →
      (∃ t, exec (.completerAbort 0 off size) s = .next t ∧ t.out = .abort 0 :: s.out ∧
        (∃ e, t.elog.queue = s.elog.queue ++ [e] ∧ e.event = 0x0011 ∧ e.source = srcHost) ∧ t.tiles = s.tiles ∧ t.glb = s.glb) ∧
      ∀ v, ∃ t, exec (.csrWrite 0 off size v) s = .next t ∧ t.tiles = s.tiles ∧ t.glb = s.glb ∧ t.svc = s.svc ∧ t.sched = s.sched ∧
        ∃ e, t.elog.queue = s.elog.queue ++ [e] ∧ e.event = 0x0011 ∧ e.source = srcHost) ∧
    ∀ v : Word, s.blockUp 0x34 = true → ∃ t, exec (.irqMaskWrite 0 v) s = .next t ∧ t.glb = { s.glb with mask := v.setWidth 4 } ∧
      t = { s with glb := t.glb, funcs := t.funcs, out := t.out } ∧
      ∀ i, i < 4 → v.getLsbD i = false → s.glb.irq.getLsbD i = true →
        let m := Tab.get {} (s.func 0).msix i
        (m.masked = false → (s.func 0).bme = true → s.outputHold = false → .msix 0 m.addr.toNat m.data ∈ t.out) ∧
        ((m.masked = true ∨ (s.func 0).bme = false ∨ s.outputHold = true) → (t.func 0).pba.getLsbD i = true)

/-! ## What every command keeps -/

/-- A latched discrepancy fault (R395, R397) stays latched through every command but a clear of it, a loss of power and the rise of
PWR_GOOD. -/
def Obligations.LatchedDiscrepancyFaultPersists : Prop :=  ∀ (c : Instr) (s t : State), exec c s = .next t → s.hold.disc = true → (∀ fn v, c ≠ .discFaultClear fn v) → c ≠ .powerLoss →
    (∀ env, c ≠ .powerGood env) → t.hold.disc = true

/-- HALTED is left by a reset only (R3): every other command leaves a device that is HALTED so. -/
def Obligations.OnlyAResetLeavesHalted : Prop :=  ∀ (c : Instr) (s t : State), exec c s = .next t → s.glb.st = .halted → c ≠ .powerLoss → (∀ env, c ≠ .perstAssert env) → (∀ env, c ≠ .hotReset env) →
    (∀ fn v env, c ≠ .glbResetWarm fn v env) → (∀ env, c ≠ .functionLevelReset 0 env) → t.glb.st = .halted

/-- Every step keeps a sound state sound: FAULT_N is low exactly in HALTED and under a latched discrepancy fault (R393), and a run of
disagreeing samples is counted only while the last sample disagreed (R394, R395). -/
def Obligations.EveryStepKeepsTheStateSound : Prop := ∀ (s t : State), step s = .next t → s.sound = true → t.sound = true

/-- Every step keeps the canonical form of every memory of the device: the scratchpads and program stores with their valid and check bits, the
DRAM of the channels with its tags and maps, and the flash. -/
def Obligations.EveryStepKeepsTheMemories : Prop := ∀ (s t : State), step s = .next t → s.memOk = true → t.memOk = true

/-- No command changes the queue of the commands that wait: only a step takes its front. -/
def Obligations.CommandsLeaveTheQueueAlone : Prop := ∀ (c : Instr) (s t : State), exec c s = .next t → t.pending = s.pending
end

