-- ==== Sys2Proof/Laws/Keep.lean ====
section
/-! SUPPORT. What every operation keeps: the relation between a state and a later one that each operation of the model but the
hold logic, the resets and the tick of the timebase preserves, and the tactic-level lemmas about it. -/

namespace Sys2Proof.Machine

/-- What every operation keeps: the hold logic but for its discrepancy time and its counters, the timebase
and the queue of commands are unchanged, HALTED stays HALTED, and FAULT_N
stays right. -/
structure Keep (s t : State) : Prop where
  hold : t.hold = { s.hold with discMs := t.hold.discMs, cnt := t.hold.cnt, max := t.hold.max }
  pending : t.pending = s.pending
  time : t.glb.time = s.glb.time
  halted : s.glb.st = .halted → t.glb.st = .halted
  faultOk : s.faultOk → t.faultOk

theorem Keep.refl (s : State) : Keep s s := ⟨rfl, rfl, rfl, id, id⟩

theorem Keep.trans {a b c : State} (h : Keep a b) (k : Keep b c) : Keep a c :=
  ⟨by rw [k.hold, h.hold], k.pending.trans h.pending, k.time.trans h.time, fun x => k.halted (h.halted x), fun x => k.faultOk (h.faultOk x)⟩

/-- A write of the discrepancy time or of the counters of the hold logic. -/
theorem keep_holdWrite {a x : State} {d : BitVec 8} {c : BitVec 16} {m : Word} (h : Keep a x) :
    Keep a { x with hold := { x.hold with discMs := d, cnt := c, max := m } } :=
  ⟨by rw [h.hold], h.pending, h.time, h.halted, h.faultOk⟩

/-- A record update that leaves the hold logic, the queue, the timebase, the device state and FAULT_N alone. -/
theorem keep_mk {a x : State} {glb : Glb} {pins : Pins} {funcs tmap tiles sched rig shadow bights svc flash journal elog chans exp
    grm mesh hreads out fresh} (hs : glb.st = x.glb.st) (ht : glb.time = x.glb.time) (hp : pins.faultN = x.pins.faultN) :
    Keep a (State.mk glb pins x.hold funcs tmap tiles sched rig shadow bights svc flash journal elog chans exp grm mesh hreads out
      fresh x.pending) ↔ Keep a x := by
  constructor <;> intro h <;> exact ⟨h.hold, h.pending, by simpa [ht] using h.time, by simpa [hs] using h.halted,
    by simpa [State.faultOk, hs, hp] using h.faultOk⟩

/-- The state in the outcome of an attempt to issue. -/
def Issued.st : Issued → State
  | .wait _ s => s
  | .stop _ s => s
  | .go s => s
  | .jump s _ => s

/-- The state in the outcome of the operand checks. -/
def Prep.st : Prep → State
  | .bad _ s => s
  | .hold s => s
  | .ok s => s

theorem keep_ite {c : Prop} [Decidable c] {a x y : State} (hx : c → Keep a x) (hy : ¬c → Keep a y) : Keep a (if c then x else y) := by
  split
  · exact hx ‹_›
  · exact hy ‹_›

theorem keep_ite_issued {c : Prop} [Decidable c] {a : State} {x y : Issued} (hx : c → Keep a x.st) (hy : ¬c → Keep a y.st) :
    Keep a (if c then x else y).st := by
  split
  · exact hx ‹_›
  · exact hy ‹_›

theorem keep_ite_fst {β : Type} {c : Prop} [Decidable c] {a : State} {x y : State × β} (hx : c → Keep a x.1) (hy : ¬c → Keep a y.1) :
    Keep a (if c then x else y).1 := by
  split
  · exact hx ‹_›
  · exact hy ‹_›

theorem keep_ite_snd {β : Type} {c : Prop} [Decidable c] {a : State} {x y : β × State} (hx : c → Keep a x.2) (hy : ¬c → Keep a y.2) :
    Keep a (if c then x else y).2 := by
  split
  · exact hx ‹_›
  · exact hy ‹_›

theorem keep_getD {a d : State} {o : Option State} (hd : Keep a d) (hs : ∀ t, o = some t → Keep a t) : Keep a (o.getD d) := by
  cases o with
  | none => exact hd
  | some t => exact hs t rfl

theorem keep_svc {a x : State} {v : Svc} (h : Keep a x) : Keep a { x with svc := v } := keep_mk rfl rfl rfl |>.2 h

theorem keep_foldl {α : Type} {a s : State} {f : State → α → State} {l : List α} (hs : Keep a s) (h : ∀ b x, Keep b (f b x)) :
    Keep a (l.foldl f s) := by
  induction l generalizing s with
  | nil => exact hs
  | cons x l ih => exact ih (hs.trans (h s x))

theorem keep_foldl_fst {α β : Type} {a : State} {f : State × β → α → State × β} {s : State × β} {l : List α} (hs : Keep a s.1)
    (h : ∀ b x, Keep b.1 (f b x).1) : Keep a (l.foldl f s).1 := by
  induction l generalizing s with
  | nil => exact hs
  | cons x l ih => exact ih (hs.trans (h s x))

theorem keep_foldl_snd {α β : Type} {a : State} {f : β × State → α → β × State} {s : β × State} {l : List α} (hs : Keep a s.2)
    (h : ∀ b x, Keep b.2 (f b x).2) : Keep a (l.foldl f s).2 := by
  induction l generalizing s with
  | nil => exact hs
  | cons x l ih => exact ih (hs.trans (h s x))

theorem Issued.st_wait (r : Reason) (s : State) : (Issued.wait r s).st = s := rfl
theorem Issued.st_stop (n : Nat) (s : State) : (Issued.stop n s).st = s := rfl
theorem Issued.st_go (s : State) : (Issued.go s).st = s := rfl
theorem Issued.st_jump (s : State) (n : Nat) : (Issued.jump s n).st = s := rfl
theorem Prep.st_bad (n : Nat) (s : State) : (Prep.bad n s).st = s := rfl
theorem Prep.st_hold (s : State) : (Prep.hold s).st = s := rfl
theorem Prep.st_ok (s : State) : (Prep.ok s).st = s := rfl

theorem keep_next {s t : State} {x : State} (h : Keep s x) (e : (Host.Outcome.next x : Ans) = .next t) : Keep s t := by
  cases e; exact h

theorem keep_some {α : Type} {s : State} {x t : α} {f : α → State} (h : Keep s (f x)) (e : some x = some t) : Keep s (f t) := by
  cases e; exact h

end Sys2Proof.Machine
end

