-- ==== Sys2Proof/Laws/KeepTile.lean ====
section
/-! SUPPORT. The relation Keep (Sys2Proof/Laws/Keep.lean) through the operations and commands of a tile. -/

set_option linter.unusedVariables false
set_option linter.unusedSimpArgs false

namespace Sys2Proof.Machine

/-! ### Ops -/

theorem State.setTile_keep {a : State} {v0 : State} {v1 : Nat} {v2 : Tile} (h : Keep a v0) : Keep a (State.setTile v0 v1 v2) := by
  unfold State.setTile
  (try dsimp only)
  repeat' first
    | with_reducible exact h
    | simp only [keep_mk]

theorem State.setMap_keep {a : State} {v0 : State} {v1 : Nat} {v2 : MapEnt} (h : Keep a v0) : Keep a (State.setMap v0 v1 v2) := by
  unfold State.setMap
  (try dsimp only)
  repeat' first
    | with_reducible exact h
    | simp only [keep_mk]

theorem State.modGroup_keep {a : State} {v0 : State} {v1 : Nat} {v2 : QGroup → QGroup} (h : Keep a v0) : Keep a (State.modGroup v0 v1 v2) := by
  unfold State.modGroup
  (try dsimp only)
  repeat' first
    | with_reducible exact h
    | simp only [keep_mk]

theorem State.freeWord_keep {a : State} {v0 : State} (h : Keep a v0) : Keep a (State.freeWord v0).2 := by
  unfold State.freeWord
  (try dsimp only)
  repeat' first
    | with_reducible exact h
    | simp only [keep_mk]
theorem State.freeWord_keepe {a : State} {v0 : State} {z w} (h : Keep a v0) (e : State.freeWord v0 = (z, w)) : Keep a w := by
  have k := State.freeWord_keep (v0 := v0) h
  rw [e] at k
  exact k

theorem State.infoWord_keep {a : State} {v0 : State} {v1 : Option Word} (h : Keep a v0) : Keep a (State.infoWord v0 v1).2 := by
  unfold State.infoWord
  (try dsimp only)
  repeat' first
    | with_reducible exact h
    | with_reducible apply State.freeWord_keep
    | split
theorem State.infoWord_keepe {a : State} {v0 : State} {v1 : Option Word} {z w} (h : Keep a v0) (e : State.infoWord v0 v1 = (z, w)) : Keep a w := by
  have k := State.infoWord_keep (v0 := v0) (v1 := v1) h
  rw [e] at k
  exact k

theorem State.modFunc_keep {a : State} {v0 : State} {v1 : Nat} {v2 : Func → Func} (h : Keep a v0) : Keep a (State.modFunc v0 v1 v2) := by
  unfold State.modFunc
  (try dsimp only)
  repeat' first
    | with_reducible exact h
    | simp only [keep_mk]

theorem State.emit_keep {a : State} {v0 : State} {v1 : OutEvent} (h : Keep a v0) : Keep a (State.emit v0 v1) := by
  unfold State.emit
  (try dsimp only)
  repeat' first
    | with_reducible exact h
    | simp only [keep_mk]

theorem State.msix_keep {a : State} {v0 : State} {v1 : Nat} {v2 : Nat} {v3 : Bool} (h : Keep a v0) : Keep a (State.msix v0 v1 v2 v3) := by
  unfold State.msix
  (try dsimp only)
  repeat' first
    | with_reducible exact h
    | with_reducible apply State.modFunc_keep
    | with_reducible apply State.emit_keep
    | split

theorem State.send_keep {a : State} {v0 : State} {v1 : Packet} (h : Keep a v0) : Keep a (State.send v0 v1) := by
  unfold State.send
  (try dsimp only)
  repeat' first
    | with_reducible exact h
    | simp only [keep_mk]

theorem State.completeRead_keep {a : State} {v0 : State} {v1 : Nat} {v2 : Nat} {v3 : List Byte} {v4 : Nat} (h : Keep a v0) : Keep a (State.completeRead v0 v1 v2 v3 v4) := by
  unfold State.completeRead
  (try dsimp only)
  repeat' first
    | with_reducible exact h
    | with_reducible apply State.emit_keep
    | split

theorem State.respond_keep {a : State} {v0 : State} {v1 : Endpoint} {v2 : Requester} {v3 : List Byte} {v4 : Nat} (h : Keep a v0) : Keep a (State.respond v0 v1 v2 v3 v4) := by
  unfold State.respond
  (try dsimp only)
  repeat' first
    | with_reducible exact h
    | with_reducible apply State.send_keep
    | with_reducible apply State.completeRead_keep
    | split

theorem State.modTile_keep {a : State} {v0 : State} {v1 : Nat} {v2 : Tile → Tile} (h : Keep a v0) : Keep a (State.modTile v0 v1 v2) := by
  unfold State.modTile
  (try dsimp only)
  repeat' first
    | with_reducible exact h
    | with_reducible apply State.setTile_keep

theorem State.modStrand_keep {a : State} {v0 : State} {v1 : Nat} {v2 : Nat} {v3 : Strand → Strand} (h : Keep a v0) : Keep a (State.modStrand v0 v1 v2 v3) := by
  unfold State.modStrand
  (try dsimp only)
  repeat' first
    | with_reducible exact h
    | with_reducible apply State.modTile_keep

theorem State.logSev_keep {a : State} {v0 : State} {v1 : BitVec 16} {v2 : Ev} {v3 : BitVec 8} {v4 : BitVec 64} {v5 : Option Word} {v6 : Option Word} (h : Keep a v0) : Keep a (State.logSev v0 v1 v2 v3 v4 v5 v6) := by
  unfold State.logSev
  (try dsimp only)
  repeat' first
    | with_reducible exact h
    | with_reducible apply State.infoWord_keep
    | simp only [keep_mk]

theorem State.logEv_keep {a : State} {v0 : State} {v1 : BitVec 16} {v2 : Ev} {v3 : BitVec 64} {v4 : Option Word} {v5 : Option Word} (h : Keep a v0) : Keep a (State.logEv v0 v1 v2 v3 v4 v5) := by
  unfold State.logEv
  (try dsimp only)
  repeat' first
    | with_reducible exact h
    | with_reducible apply State.logSev_keep

theorem State.logDrop_keep {a : State} {v0 : State} {v1 : BitVec 16} {v2 : Nat} (h : Keep a v0) : Keep a (State.logDrop v0 v1 v2) := by
  unfold State.logDrop
  (try dsimp only)
  repeat' first
    | with_reducible exact h
    | with_reducible apply State.logEv_keep

theorem State.setPd_keep {a : State} {v0 : State} {v1 : Nat} {v2 : Nat} (h : Keep a v0) : Keep a (State.setPd v0 v1 v2) := by
  unfold State.setPd
  (try dsimp only)
  repeat' first
    | with_reducible exact h
    | simp only [keep_mk]

theorem State.modPort_keep {a : State} {v0 : State} {v1 : Nat} {v2 : Port → Port} (h : Keep a v0) : Keep a (State.modPort v0 v1 v2) := by
  unfold State.modPort
  (try dsimp only)
  repeat' first
    | with_reducible exact h
    | simp only [keep_mk]

theorem State.syncFaultN_keep {a s : State} (h : Keep a s) : Keep a s.syncFaultN :=
  ⟨h.hold, h.pending, h.time, h.halted, fun _ => by simp [State.faultOk, State.syncFaultN]⟩

theorem State.modQueue_keep {a : State} {v0 : State} {v1 : Nat} {v2 : Queue → Queue} (h : Keep a v0) : Keep a (State.modQueue v0 v1 v2) := by
  unfold State.modQueue
  (try dsimp only)
  repeat' first
    | with_reducible exact h
    | simp only [keep_mk]

theorem State.ackTo_keep {a : State} {v0 : State} {v1 : Endpoint} {v2 : Requester} {v3 : Nat} (h : Keep a v0) : Keep a (State.ackTo v0 v1 v2 v3) := by
  unfold State.ackTo
  (try dsimp only)
  repeat' first
    | with_reducible exact h
    | with_reducible apply State.send_keep
    | with_reducible apply State.logDrop_keep
    | split

theorem State.modChan_keep {a : State} {v0 : State} {v1 : Nat} {v2 : Chan → Chan} (h : Keep a v0) : Keep a (State.modChan v0 v1 v2) := by
  unfold State.modChan
  (try dsimp only)
  repeat' first
    | with_reducible exact h
    | simp only [keep_mk]

theorem State.irq_keep {a : State} {v0 : State} {v1 : Nat} (h : Keep a v0) : Keep a (State.irq v0 v1) := by
  unfold State.irq
  (try dsimp only)
  repeat' first
    | with_reducible exact h
    | with_reducible apply State.msix_keep
    | simp only [keep_mk]
    | split

theorem State.passBy_keep {a : State} {v0 : State} {v1 : Nat} (h : Keep a v0) : Keep a (State.passBy v0 v1) := by
  unfold State.passBy
  (try dsimp only)
  repeat' first
    | with_reducible assumption
    | simp only [keep_mk]

theorem State.freeByte_keep {a : State} {v0 : State} (h : Keep a v0) : Keep a (State.freeByte v0).2 := by
  unfold State.freeByte
  (try dsimp only)
  repeat' first
    | with_reducible exact h
    | simp only [keep_mk]
theorem State.freeByte_keepe {a : State} {v0 : State} {z w} (h : Keep a v0) (e : State.freeByte v0 = (z, w)) : Keep a w := by
  have k := State.freeByte_keep (v0 := v0) h
  rw [e] at k
  exact k

theorem State.dropTask_keep {a : State} {v0 : State} {v1 : Nat} (h : Keep a v0) : Keep a (State.dropTask v0 v1) := by
  unfold State.dropTask
  (try dsimp only)
  repeat' first
    | with_reducible exact h
    | simp only [keep_mk]

theorem State.modBight_keep {a : State} {v0 : State} {v1 : Nat} {v2 : BightSt → BightSt} (h : Keep a v0) : Keep a (State.modBight v0 v1 v2) := by
  unfold State.modBight
  (try dsimp only)
  repeat' first
    | with_reducible exact h
    | simp only [keep_mk]

theorem State.flushPba_keep {a : State} {v0 : State} {v1 : Nat} (h : Keep a v0) : Keep a (State.flushPba v0 v1) := by
  unfold State.flushPba
  (try dsimp only)
  repeat' first
    | with_reducible exact h
    | with_reducible exact Keep.refl _
    | with_reducible apply State.emit_keep
    | with_reducible apply State.modFunc_keep
    | with_reducible apply keep_foldl
    | (intro _)
    | split

theorem State.dropLinks_keep {a : State} {v0 : State} (h : Keep a v0) : Keep a (State.dropLinks v0) := by
  unfold State.dropLinks
  (try dsimp only)
  repeat' first
    | with_reducible exact h
    | with_reducible exact Keep.refl _
    | with_reducible apply State.modPort_keep
    | with_reducible apply keep_foldl
    | (intro _)

theorem State.setDev_keep {a s : State} {d : DevState} (h : Keep a s) (hd : s.glb.st = .halted → d = .halted) : Keep a (s.setDev d) := by
  unfold State.setDev
  split
  · exact h
  · refine Keep.trans h ⟨?_, ?_, ?_, ?_, fun _ => by simp [State.faultOk, State.syncFaultN]⟩ <;>
      simp [State.syncFaultN, State.irq, State.msix, State.modFunc, State.emit] <;> (repeat' split) <;> simp_all

theorem State.halt_keep {a s : State} {c : Nat} (h : Keep a s) : Keep a (s.halt c) := by
  unfold State.halt
  split
  · exact h
  · refine State.emit_keep (State.dropLinks_keep (State.setDev_keep ?_ fun _ => rfl))
    refine State.logEv_keep ?_
    simp only [keep_mk]; exact h

theorem State.setTask_keep {a : State} {v0 : State} {v1 : Nat} {v2 : Task} (h : Keep a v0) : Keep a (State.setTask v0 v1 v2) := by
  unfold State.setTask
  (try dsimp only)
  repeat' first
    | with_reducible exact h
    | simp only [keep_mk]

theorem State.settle_keep {a s : State} (h : Keep a s) : Keep a s.settle := by
  unfold State.settle
  split
  · rename_i hs
    refine State.setDev_keep h fun e => ?_
    rw [e] at hs; cases hs
  · exact h

theorem State.unsend_keep {a : State} {v0 : State} {v1 : Nat} (h : Keep a v0) : Keep a (State.unsend v0 v1) := by
  unfold State.unsend
  (try dsimp only)
  repeat' first
    | with_reducible exact h
    | simp only [keep_mk]

theorem State.release_keep {a : State} {v0 : State} {v1 : Nat} (h : Keep a v0) : Keep a (State.release v0 v1) := by
  unfold State.release
  (try dsimp only)
  repeat' first
    | with_reducible exact h
    | simp only [keep_mk]

theorem State.modTask_keep {a : State} {v0 : State} {v1 : Nat} {v2 : Task → Task} (h : Keep a v0) : Keep a (State.modTask v0 v1 v2) := by
  unfold State.modTask
  (try dsimp only)
  repeat' first
    | with_reducible exact h
    | with_reducible apply State.setTask_keep
    | split

theorem State.setHitch_keep {a : State} {v0 : State} {v1 : Nat} {v2 : Hitch} (h : Keep a v0) : Keep a (State.setHitch v0 v1 v2) := by
  unfold State.setHitch
  (try dsimp only)
  repeat' first
    | with_reducible exact h
    | simp only [keep_mk]

/-! ### Latch -/

theorem State.endRetrains_keep {a : State} {v0 : State} (h : Keep a v0) : Keep a (State.endRetrains v0) := by
  unfold State.endRetrains
  (try dsimp only)
  repeat' first
    | with_reducible assumption
    | simp only [keep_mk]

theorem State.latchFault_keep {a : State} {v0 : State} {v1 : BitVec 16} {v2 : Nat} {v3 : optParam (Option (List Nat)) Option.none} (h : Keep a v0) : Keep a (State.latchFault v0 v1 v2 v3) := by
  unfold State.latchFault
  (try dsimp only)
  repeat' first
    | with_reducible assumption
    | with_reducible apply State.irq_keep
    | with_reducible apply State.halt_keep
    | with_reducible apply State.logEv_keep
    | with_reducible apply State.endRetrains_keep
    | simp only [keep_mk]
    | split

theorem State.channelOut_keep {a : State} {v0 : State} {v1 : Nat} (h : Keep a v0) : Keep a (State.channelOut v0 v1) := by
  unfold State.channelOut
  (try dsimp only)
  repeat' first
    | with_reducible assumption
    | with_reducible apply State.modChan_keep
    | with_reducible apply State.logEv_keep
    | with_reducible apply State.settle_keep
    | with_reducible apply State.latchFault_keep
    | simp only [keep_mk]
    | with_reducible refine keep_ite (fun _ => ?_) (fun _ => ?_)

theorem State.loseTile_keep {a : State} {v0 : State} {v1 : Nat} (h : Keep a v0) : Keep a (State.loseTile v0 v1) := by
  unfold State.loseTile
  (try dsimp only)
  repeat' first
    | with_reducible assumption
    | with_reducible apply State.latchFault_keep
    | with_reducible apply State.modTile_keep
    | with_reducible apply State.setMap_keep
    | with_reducible refine keep_ite (fun _ => ?_) (fun _ => ?_)
    | split

theorem State.tileFault_keep {a : State} {v0 : State} {v1 : Nat} {v2 : Nat} {v3 : Option (List Nat)} (h : Keep a v0) : Keep a (State.tileFault v0 v1 v2 v3) := by
  unfold State.tileFault
  (try dsimp only)
  repeat' first
    | with_reducible assumption
    | with_reducible apply State.modTile_keep
    | with_reducible apply State.loseTile_keep
    | with_reducible apply State.latchFault_keep
    | with_reducible refine keep_ite (fun _ => ?_) (fun _ => ?_)

/-! ### Scratch -/

theorem State.poisonWord_keep {a : State} {v0 : State} {v1 : Nat} {v2 : Nat} (h : Keep a v0) : Keep a (State.poisonWord v0 v1 v2) := by
  unfold State.poisonWord
  (try dsimp only)
  repeat' first
    | with_reducible assumption
    | with_reducible apply State.modTile_keep

theorem State.ceEvent_keep {a : State} {v0 : State} {v1 : Nat} {v2 : Nat} (h : Keep a v0) : Keep a (State.ceEvent v0 v1 v2) := by
  unfold State.ceEvent
  (try dsimp only)
  repeat' first
    | with_reducible assumption
    | with_reducible apply State.modTile_keep
    | with_reducible apply State.logEv_keep

theorem State.noteCe_keep {a : State} {v0 : State} {v1 : Nat} {v2 : Nat} {v3 : Nat} (h : Keep a v0) : Keep a (State.noteCe v0 v1 v2 v3) := by
  unfold State.noteCe
  (try dsimp only)
  repeat' first
    | with_reducible assumption
    | with_reducible exact Keep.refl _
    | with_reducible apply State.ceEvent_keep
    | with_reducible refine keep_ite (fun _ => ?_) (fun _ => ?_)
    | with_reducible apply keep_foldl
    | (intro _)

theorem State.logRefused_keep {a : State} {v0 : State} {v1 : Nat} {v2 : Nat} {v3 : Word} (h : Keep a v0) : Keep a (State.logRefused v0 v1 v2 v3) := by
  unfold State.logRefused
  (try dsimp only)
  repeat' first
    | with_reducible assumption
    | with_reducible apply State.logEv_keep

theorem State.writeWord_keep {a : State} {v0 : State} {v1 : Nat} {v2 : Option (Nat × Nat)} {v3 : Word} {v4 : Nat × List (Nat × Byte)} (h : Keep a v0) : Keep a (State.writeWord v0 v1 v2 v3 v4).1 := by
  unfold State.writeWord
  (try dsimp only)
  repeat' first
    | with_reducible assumption
    | with_reducible apply State.ceEvent_keep
    | with_reducible apply State.modTile_keep
    | with_reducible apply State.logRefused_keep
    | split
theorem State.writeWord_keepe {a : State} {v0 : State} {v1 : Nat} {v2 : Option (Nat × Nat)} {v3 : Word} {v4 : Nat × List (Nat × Byte)} {z w} (h : Keep a v0) (e : State.writeWord v0 v1 v2 v3 v4 = (z, w)) : Keep a z := by
  have k := State.writeWord_keep (v0 := v0) (v1 := v1) (v2 := v2) (v3 := v3) (v4 := v4) h
  rw [e] at k
  exact k

theorem State.spadWrite_keep {a : State} {v0 : State} {v1 : Nat} {v2 : Option (Nat × Nat)} {v3 : Word} {v4 : List (Nat × Byte)} (h : Keep a v0) : Keep a (State.spadWrite v0 v1 v2 v3 v4).1 := by
  unfold State.spadWrite
  (try dsimp only)
  repeat' first
    | with_reducible assumption
    | with_reducible exact Keep.refl _
    | with_reducible apply State.writeWord_keep
    | with_reducible apply keep_foldl_fst
    | (intro _)
theorem State.spadWrite_keepe {a : State} {v0 : State} {v1 : Nat} {v2 : Option (Nat × Nat)} {v3 : Word} {v4 : List (Nat × Byte)} {z w} (h : Keep a v0) (e : State.spadWrite v0 v1 v2 v3 v4 = (z, w)) : Keep a z := by
  have k := State.spadWrite_keep (v0 := v0) (v1 := v1) (v2 := v2) (v3 := v3) (v4 := v4) h
  rw [e] at k
  exact k

/-! ### Bights -/

theorem State.sendTo_keep {a : State} {v0 : State} {v1 : Endpoint} {v2 : Nat} {v3 : Nat} {v4 : VC} {v5 : Body} (h : Keep a v0) : Keep a (State.sendTo v0 v1 v2 v3 v4 v5) := by
  unfold State.sendTo
  (try dsimp only)
  repeat' first
    | with_reducible assumption
    | with_reducible apply State.send_keep
    | with_reducible refine keep_ite (fun _ => ?_) (fun _ => ?_)
    | split

theorem State.returnCredit_keep {a : State} {v0 : State} {v1 : Nat} {v2 : Nat} (h : Keep a v0) : Keep a (State.returnCredit v0 v1 v2) := by
  unfold State.returnCredit
  (try dsimp only)
  repeat' first
    | with_reducible assumption
    | with_reducible apply State.sendTo_keep
    | split

theorem State.setSlot_keep {a : State} {v0 : State} {v1 : Nat} {v2 : Nat} {v3 : BSlot} (h : Keep a v0) : Keep a (State.setSlot v0 v1 v2 v3) := by
  unfold State.setSlot
  (try dsimp only)
  repeat' first
    | with_reducible assumption
    | with_reducible apply State.modBight_keep

theorem State.slotApply_keep {a : State} {v0 : State} {v1 : SlotMsg} {v2 : Nat} {v3 : Nat} {v4 : Nat × Nat} {v5 : Nat} (h : Keep a v0) : Keep a (State.slotApply v0 v1 v2 v3 v4 v5) := by
  unfold State.slotApply
  (try dsimp only)
  repeat' first
    | with_reducible assumption
    | with_reducible apply State.setSlot_keep
    | with_reducible apply State.returnCredit_keep
    | with_reducible refine keep_ite (fun _ => ?_) (fun _ => ?_)
    | split

theorem State.slotMsg_keep {a : State} {v0 : State} {v1 : Nat} {v2 : SlotMsg} {v3 : Nat} {v4 : BightDecl} {v5 : Nat} {v6 : Nat} {v7 : Bool} {v8 : Option Nat} (h : Keep a v0) : Keep a (State.slotMsg v0 v1 v2 v3 v4 v5 v6 v7 v8) := by
  unfold State.slotMsg
  (try dsimp only)
  repeat' first
    | with_reducible assumption
    | with_reducible apply State.slotApply_keep
    | with_reducible apply State.sendTo_keep
    | split

theorem State.claimSlot_keep {a : State} {v0 : State} {v1 : Nat} {v2 : Nat} {v3 : BightDecl} {v4 : Nat} {v5 : Nat} {v6 : Option Nat} {t} (h : Keep a v0) (e : State.claimSlot v0 v1 v2 v3 v4 v5 v6 = some t) : Keep a t.1 := by
  unfold State.claimSlot at e
  (try dsimp only at e)
  (repeat' split at e) <;> (try cases e)
  repeat' first
    | with_reducible assumption
    | with_reducible apply State.modBight_keep
    | with_reducible apply State.slotMsg_keep
theorem State.claimSlot_keepe {a : State} {v0 : State} {v1 : Nat} {v2 : Nat} {v3 : BightDecl} {v4 : Nat} {v5 : Nat} {v6 : Option Nat} {z w} (h : Keep a v0) (e : State.claimSlot v0 v1 v2 v3 v4 v5 v6 = some (z, w)) : Keep a z := State.claimSlot_keep h e

theorem State.freeSlot_keep {a : State} {v0 : State} {v1 : Nat} {v2 : Nat} (h : Keep a v0) : Keep a (State.freeSlot v0 v1 v2) := by
  unfold State.freeSlot
  (try dsimp only)
  repeat' first
    | with_reducible assumption
    | with_reducible apply State.returnCredit_keep
    | with_reducible apply State.setSlot_keep

theorem State.endSlots_keep {a : State} {v0 : State} {v1 : Nat} {v2 : Nat} {v3 : Nat} (h : Keep a v0) : Keep a (State.endSlots v0 v1 v2 v3) := by
  unfold State.endSlots
  (try dsimp only)
  repeat' first
    | with_reducible assumption
    | with_reducible exact Keep.refl _
    | with_reducible apply State.freeSlot_keep
    | with_reducible apply State.setSlot_keep
    | with_reducible apply State.slotMsg_keep
    | with_reducible apply State.modStrand_keep
    | with_reducible apply keep_foldl
    | (intro _)
    | split

theorem State.sendMany_keep {a : State} {v0 : State} {v1 : Endpoint} {v2 : List Nat} {v3 : VC} {v4 : Body} (h : Keep a v0) : Keep a (State.sendMany v0 v1 v2 v3 v4) := by
  unfold State.sendMany
  (try dsimp only)
  repeat' first
    | with_reducible assumption
    | with_reducible apply State.send_keep
    | split

theorem State.takeSlot_keep {a : State} {v0 : State} {v1 : Nat} {v2 : Nat} {v3 : Nat} {v4 : BightDecl} {v5 : Nat} (h : Keep a v0) : Keep a (State.takeSlot v0 v1 v2 v3 v4 v5) := by
  unfold State.takeSlot
  (try dsimp only)
  repeat' first
    | with_reducible assumption
    | with_reducible apply State.setSlot_keep
    | with_reducible apply State.modBight_keep
    | with_reducible apply State.modStrand_keep
    | with_reducible refine keep_ite (fun _ => ?_) (fun _ => ?_)

theorem State.sendVerdict_keep {a : State} {v0 : State} {v1 : Nat} {v2 : Nat} {v3 : Nat} {v4 : VerdictKind} (h : Keep a v0) : Keep a (State.sendVerdict v0 v1 v2 v3 v4) := by
  unfold State.sendVerdict
  (try dsimp only)
  repeat' first
    | with_reducible assumption
    | with_reducible exact Keep.refl _
    | with_reducible apply State.send_keep
    | with_reducible refine keep_ite (fun _ => ?_) (fun _ => ?_)
    | with_reducible apply keep_foldl
    | (intro _)
    | split

theorem State.slotWrite_keep {a : State} {v0 : State} {v1 : Nat} {v2 : BightDecl} {v3 : Nat} {v4 : Nat} {v5 : List Byte} {v6 : Requester} (h : Keep a v0) : Keep a (State.slotWrite v0 v1 v2 v3 v4 v5 v6).1 := by
  unfold State.slotWrite
  (try dsimp only)
  repeat' first
    | with_reducible assumption
    | with_reducible exact Keep.refl _
    | with_reducible apply State.sendTo_keep
    | with_reducible refine keep_ite (fun _ => ?_) (fun _ => ?_)
    | with_reducible apply keep_foldl
    | (intro _)
theorem State.slotWrite_keepe {a : State} {v0 : State} {v1 : Nat} {v2 : BightDecl} {v3 : Nat} {v4 : Nat} {v5 : List Byte} {v6 : Requester} {z w} (h : Keep a v0) (e : State.slotWrite v0 v1 v2 v3 v4 v5 v6 = (z, w)) : Keep a z := by
  have k := State.slotWrite_keep (v0 := v0) (v1 := v1) (v2 := v2) (v3 := v3) (v4 := v4) (v5 := v5) (v6 := v6)  h
  rw [e] at k
  exact k

/-! ### Steps -/

theorem State.opWrite_keep {a : State} {v0 : State} {v1 : Nat} {v2 : Nat} {v3 : Opnd} {v4 : List Byte} (h : Keep a v0) : Keep a (State.opWrite v0 v1 v2 v3 v4).1 := by
  unfold State.opWrite
  (try dsimp only)
  repeat' first
    | with_reducible assumption
    | with_reducible apply State.spadWrite_keep
    | split
theorem State.opWrite_keepe {a : State} {v0 : State} {v1 : Nat} {v2 : Nat} {v3 : Opnd} {v4 : List Byte} {z w} (h : Keep a v0) (e : State.opWrite v0 v1 v2 v3 v4 = (z, w)) : Keep a z := by
  have k := State.opWrite_keep (v0 := v0) (v1 := v1) (v2 := v2) (v3 := v3) (v4 := v4) h
  rw [e] at k
  exact k

theorem State.stopLoad_keep {a : State} {v0 : State} {v1 : Codebook} (h : Keep a v0) : Keep a (State.stopLoad v0 v1).2 := by
  unfold State.stopLoad
  (try dsimp only)
  repeat' first
    | with_reducible assumption
    | simp only [keep_mk]
    | with_reducible refine keep_ite_snd (fun _ => ?_) (fun _ => ?_)
theorem State.stopLoad_keepe {a : State} {v0 : State} {v1 : Codebook} {z w} (h : Keep a v0) (e : State.stopLoad v0 v1 = (z, w)) : Keep a w := by
  have k := State.stopLoad_keep (v0 := v0) (v1 := v1)  h
  rw [e] at k
  exact k

theorem State.stopLoadInto_keep {a : State} {v0 : State} {v1 : Nat} {v2 : Nat} {v3 : Bool} (h : Keep a v0) : Keep a (State.stopLoadInto v0 v1 v2 v3) := by
  unfold State.stopLoadInto
  (try dsimp only)
  repeat' first
    | with_reducible assumption
    | with_reducible apply State.stopLoad_keep
    | with_reducible apply State.modTile_keep
    | split

theorem State.stopLoads_keep {a : State} {v0 : State} {v1 : Nat} {v2 : Nat} (h : Keep a v0) : Keep a (State.stopLoads v0 v1 v2) := by
  unfold State.stopLoads
  (try dsimp only)
  repeat' first
    | with_reducible assumption
    | with_reducible apply State.stopLoadInto_keep

theorem State.sendAborts_keep {a : State} {v0 : State} {v1 : Nat} {v2 : Nat} (h : Keep a v0) : Keep a (State.sendAborts v0 v1 v2) := by
  unfold State.sendAborts
  (try dsimp only)
  repeat' first
    | with_reducible assumption
    | with_reducible exact Keep.refl _
    | with_reducible apply State.sendVerdict_keep
    | with_reducible apply keep_foldl
    | (intro _)
    | split

theorem State.sendArrive_keep {a : State} {v0 : State} {v1 : Nat} {v2 : Nat} {v3 : Nat} {v4 : Nat} {v5 : Bool} (h : Keep a v0) : Keep a (State.sendArrive v0 v1 v2 v3 v4 v5) := by
  unfold State.sendArrive
  (try dsimp only)
  repeat' first
    | with_reducible assumption
    | with_reducible apply State.send_keep
    | with_reducible apply State.modStrand_keep

theorem State.sendShare_keep {a : State} {v0 : State} {v1 : Nat} {v2 : UStep} {v3 : List Nat} (h : Keep a v0) : Keep a (State.sendShare v0 v1 v2 v3) := by
  unfold State.sendShare
  (try dsimp only)
  repeat' first
    | with_reducible assumption
    | with_reducible exact Keep.refl _
    | with_reducible apply State.modStrand_keep
    | with_reducible apply State.sendMany_keep
    | with_reducible apply keep_foldl
    | (intro _)

theorem State.pumpBld_keep {a : State} {v0 : State} {v1 : Nat} (h : Keep a v0) : Keep a (State.pumpBld v0 v1) := by
  unfold State.pumpBld
  (try dsimp only)
  repeat' first
    | with_reducible assumption
    | with_reducible apply State.sendArrive_keep
    | with_reducible apply State.modTile_keep
    | with_reducible apply State.sendShare_keep
    | split

theorem State.pumpSyn_keep {a : State} {v0 : State} {v1 : Nat} (h : Keep a v0) : Keep a (State.pumpSyn v0 v1) := by
  unfold State.pumpSyn
  (try dsimp only)
  repeat' first
    | with_reducible assumption
    | with_reducible apply State.sendArrive_keep
    | with_reducible apply State.modTile_keep
    | with_reducible refine keep_ite (fun _ => ?_) (fun _ => ?_)
    | split

theorem State.logStatus_keep {a : State} {v0 : State} {v1 : Nat} {v2 : Nat} {v3 : Nat} (h : Keep a v0) : Keep a (State.logStatus v0 v1 v2 v3) := by
  unfold State.logStatus
  (try dsimp only)
  repeat' first
    | with_reducible assumption
    | with_reducible apply State.logEv_keep
    | split

theorem State.endTaskWith_keep {a : State} {v0 : State} {v1 : Nat} {v2 : Nat} {v3 : Nat} {v4 : Bool} (h : Keep a v0) : Keep a (State.endTaskWith v0 v1 v2 v3 v4) := by
  unfold State.endTaskWith
  (try dsimp only)
  repeat' first
    | with_reducible assumption
    | with_reducible apply State.stopLoads_keep
    | with_reducible apply State.modTile_keep
    | with_reducible apply State.endSlots_keep
    | with_reducible apply State.sendAborts_keep
    | with_reducible apply State.modStrand_keep
    | with_reducible apply State.pumpBld_keep
    | with_reducible apply State.pumpSyn_keep
    | with_reducible apply State.logStatus_keep
    | split

theorem State.endTask_keep {a : State} {v0 : State} {v1 : Nat} {v2 : Nat} {v3 : Nat} (h : Keep a v0) : Keep a (State.endTask v0 v1 v2 v3) := by
  unfold State.endTask
  (try dsimp only)
  repeat' first
    | with_reducible assumption
    | with_reducible apply State.endTaskWith_keep

theorem State.holdAt_keep {a : State} {v0 : State} {v1 : State} {v2 : Nat} (h0 : Keep a v0) (h : Keep a v1) : Keep a (State.holdAt v0 v1 v2).st := by
  unfold State.holdAt
  (try dsimp only)
  repeat' first
    | with_reducible assumption
    | with_reducible apply State.modTile_keep
    | simp only [Issued.st_wait, Issued.st_stop, Issued.st_go, Issued.st_jump, Prep.st_bad, Prep.st_hold, Prep.st_ok]

theorem State.endPass_keep {a : State} {v0 : State} {v1 : Nat} {v2 : Nat} (h : Keep a v0) : Keep a (State.endPass v0 v1 v2) := by
  unfold State.endPass
  (try dsimp only)
  repeat' first
    | with_reducible assumption
    | with_reducible apply State.modStrand_keep

theorem State.advance_keep {a : State} {v0 : State} {v1 : Nat} {v2 : Nat} {v3 : Bool} {v4 : Option Nat} (h : Keep a v0) : Keep a (State.advance v0 v1 v2 v3 v4) := by
  unfold State.advance
  (try dsimp only)
  repeat' first
    | with_reducible assumption
    | with_reducible apply State.modStrand_keep

theorem State.refused_keep {a : State} {v0 : State} {v1 : Nat} {v2 : Nat} {v3 : Nat} (h : Keep a v0) : Keep a (State.refused v0 v1 v2 v3) := by
  unfold State.refused
  (try dsimp only)
  repeat' first
    | with_reducible assumption
    | with_reducible apply State.logStatus_keep
    | with_reducible apply State.modStrand_keep
    | with_reducible apply State.endTask_keep
    | split

theorem State.prep_keep {a : State} {v0 : State} {v1 : Nat} {v2 : Nat} {v3 : LogEnt} {v4 : List Access} {v5 : List Nat} (h : Keep a v0) : Keep a (State.prep v0 v1 v2 v3 v4 v5).st := by
  unfold State.prep
  (try dsimp only)
  repeat' first
    | with_reducible assumption
    | with_reducible exact Keep.refl _
    | with_reducible apply State.modTile_keep
    | with_reducible apply State.logEv_keep
    | with_reducible apply State.noteCe_keep
    | with_reducible apply keep_foldl
    | (intro _)
    | split
    | simp only [Issued.st_wait, Issued.st_stop, Issued.st_go, Issued.st_jump, Prep.st_bad, Prep.st_hold, Prep.st_ok]
theorem State.prep_bad_keep {a : State} {v0 : State} {v1 : Nat} {v2 : Nat} {v3 : LogEnt} {v4 : List Access} {v5 : List Nat} {x t} (h : Keep a v0) (e : State.prep v0 v1 v2 v3 v4 v5 = .bad x t) : Keep a t := by
  have k := State.prep_keep (v0 := v0) (v1 := v1) (v2 := v2) (v3 := v3) (v4 := v4) (v5 := v5)  h
  rw [e] at k
  exact k
theorem State.prep_hold_keep {a : State} {v0 : State} {v1 : Nat} {v2 : Nat} {v3 : LogEnt} {v4 : List Access} {v5 : List Nat} {t} (h : Keep a v0) (e : State.prep v0 v1 v2 v3 v4 v5 = .hold t) : Keep a t := by
  have k := State.prep_keep (v0 := v0) (v1 := v1) (v2 := v2) (v3 := v3) (v4 := v4) (v5 := v5)  h
  rw [e] at k
  exact k
theorem State.prep_ok_keep {a : State} {v0 : State} {v1 : Nat} {v2 : Nat} {v3 : LogEnt} {v4 : List Access} {v5 : List Nat} {t} (h : Keep a v0) (e : State.prep v0 v1 v2 v3 v4 v5 = .ok t) : Keep a t := by
  have k := State.prep_keep (v0 := v0) (v1 := v1) (v2 := v2) (v3 := v3) (v4 := v4) (v5 := v5)  h
  rw [e] at k
  exact k

theorem State.stopAt_keep {a : State} {v0 : State} {v1 : Nat} {v2 : Nat} {v3 : LogEnt} {v4 : List Access} {v5 : List Nat} (h : Keep a v0) : Keep a (State.stopAt v0 v1 v2 v3 v4 v5).st := by
  unfold State.stopAt
  (try dsimp only)
  repeat' first
    | with_reducible assumption
    | with_reducible refine State.prep_bad_keep ?_ (by assumption)
    | with_reducible refine State.prep_hold_keep ?_ (by assumption)
    | with_reducible refine State.prep_ok_keep ?_ (by assumption)
    | split
    | simp only [Issued.st_wait, Issued.st_stop, Issued.st_go, Issued.st_jump, Prep.st_bad, Prep.st_hold, Prep.st_ok]

theorem State.setWait_keep {a : State} {v0 : State} {v1 : Nat} {v2 : Nat} {v3 : Reason} (h : Keep a v0) : Keep a (State.setWait v0 v1 v2 v3) := by
  unfold State.setWait
  (try dsimp only)
  repeat' first
    | with_reducible assumption
    | with_reducible apply State.modStrand_keep

theorem State.opWrites_keep {a : State} {v0 : State} {v1 : Nat} {v2 : Nat} {v3 : List (Opnd × List Byte)} (h : Keep a v0) : Keep a (State.opWrites v0 v1 v2 v3).1 := by
  unfold State.opWrites
  (try dsimp only)
  repeat' first
    | with_reducible assumption
    | with_reducible exact Keep.refl _
    | with_reducible apply State.opWrite_keep
    | with_reducible refine keep_ite_fst (fun _ => ?_) (fun _ => ?_)
    | with_reducible apply keep_foldl_fst
    | (intro _)
theorem State.opWrites_keepe {a : State} {v0 : State} {v1 : Nat} {v2 : Nat} {v3 : List (Opnd × List Byte)} {z w} (h : Keep a v0) (e : State.opWrites v0 v1 v2 v3 = (z, w)) : Keep a z := by
  have k := State.opWrites_keep (v0 := v0) (v1 := v1) (v2 := v2) (v3 := v3)  h
  rw [e] at k
  exact k

theorem State.issue_keep {a s : State} {p k : Nat} {isRow : BitVec 128 → Bool} {body : LogEnt → Bool → State → Issued} (h : Keep a s)
    (hb : ∀ e r, Keep a (body e r s).st) : Keep a (s.issue p k isRow body) := by
  unfold State.issue
  split
  · exact h
  · exact State.endTask_keep h
  · rename_i e r _
    have k := hb e r
    dsimp only
    split; · exact h
    split; · exact State.setWait_keep h
    split
    all_goals split
    all_goals first
      | exact State.setWait_keep h
      | (split <;> rename_i hq <;> rw [hq] at k <;>
          first | exact State.setWait_keep k | exact State.endTask_keep k | exact State.advance_keep k)

theorem State.pushUnit_keep {a : State} {v0 : State} {v1 : Nat} {v2 : Nat} {v3 : UStep} (h : Keep a v0) : Keep a (State.pushUnit v0 v1 v2 v3) := by
  unfold State.pushUnit
  (try dsimp only)
  repeat' first
    | with_reducible assumption
    | with_reducible apply State.modTile_keep

/-! ### Control -/

theorem loopBody_keep {a : State} {v0 : Nat} {v1 : Nat} {v2 : LogEnt} {v3 : Bool} {v4 : State} (h : Keep a v4) : Keep a (loopBody v0 v1 v2 v3 v4).st := by
  unfold loopBody
  (try dsimp only)
  repeat' first
    | with_reducible assumption
    | with_reducible apply State.endPass_keep
    | with_reducible apply State.modStrand_keep
    | with_reducible refine keep_ite_issued (fun _ => ?_) (fun _ => ?_)
    | simp only [Issued.st_wait, Issued.st_stop, Issued.st_go, Issued.st_jump, Prep.st_bad, Prep.st_hold, Prep.st_ok]

theorem setrBody_keep {a : State} {v0 : Nat} {v1 : Nat} {v2 : LogEnt} {v3 : Bool} {v4 : State} (h : Keep a v4) : Keep a (setrBody v0 v1 v2 v3 v4).st := by
  unfold setrBody
  (try dsimp only)
  repeat' first
    | with_reducible assumption
    | with_reducible apply State.modStrand_keep
    | with_reducible apply State.endPass_keep
    | with_reducible refine keep_ite_issued (fun _ => ?_) (fun _ => ?_)
    | split
    | simp only [Issued.st_wait, Issued.st_stop, Issued.st_go, Issued.st_jump, Prep.st_bad, Prep.st_hold, Prep.st_ok]

theorem endBody_keep {a : State} {v0 : Nat} {v1 : Nat} {v2 : LogEnt} {v3 : Bool} {v4 : State} (h : Keep a v4) : Keep a (endBody v0 v1 v2 v3 v4).st := by
  unfold endBody
  (try dsimp only)
  repeat' first
    | with_reducible assumption
    | with_reducible refine keep_ite_issued (fun _ => ?_) (fun _ => ?_)
    | split
    | simp only [Issued.st_wait, Issued.st_stop, Issued.st_go, Issued.st_jump, Prep.st_bad, Prep.st_hold, Prep.st_ok]

/-! ### Tables -/

theorem State.joinGroup_keep {a : State} {v0 : State} {v1 : Nat} {v2 : Nat} {v3 : LogEnt} {v4 : Bool} {v5 : Bool} {t} (h : Keep a v0) (e : State.joinGroup v0 v1 v2 v3 v4 v5 = some t) : Keep a t := by
  unfold State.joinGroup at e
  (try dsimp only at e)
  (repeat' split at e) <;> (try cases e)
  repeat' first
    | with_reducible assumption
    | with_reducible apply State.modStrand_keep
    | with_reducible apply State.modTile_keep

theorem buildBody_keep {a : State} {v0 : Nat} {v1 : Nat} {v2 : Bool} {v3 : LogEnt} {v4 : Bool} {v5 : State} (h : Keep a v5) : Keep a (buildBody v0 v1 v2 v3 v4 v5).st := by
  unfold buildBody
  (try dsimp only)
  repeat' first
    | with_reducible assumption
    | with_reducible apply State.endPass_keep
    | with_reducible refine State.joinGroup_keep ?_ (by assumption)
    | with_reducible refine State.prep_bad_keep ?_ (by assumption)
    | with_reducible refine State.prep_ok_keep ?_ (by assumption)
    | with_reducible apply State.modTile_keep
    | with_reducible apply State.modStrand_keep
    | with_reducible apply State.pumpBld_keep
    | with_reducible apply State.pushUnit_keep
    | split
    | simp only [Issued.st_wait, Issued.st_stop, Issued.st_go, Issued.st_jump, Prep.st_bad, Prep.st_hold, Prep.st_ok]

theorem execTableSwap_keep {v0 : Nat} {v1 : State} {t : State} (e : execTableSwap v0 v1 = .next t) : Keep v1 t := by
  refine keep_next ?_ e
  have h := Keep.refl v1
  repeat' first
    | with_reducible assumption
    | with_reducible apply State.setTile_keep
    | simp only [keep_mk]
    | with_reducible refine keep_ite (fun _ => ?_) (fun _ => ?_)
    | split

theorem execTableMulticastPacket_keep {v0 : Nat} {v1 : State} {t : State} (e : execTableMulticastPacket v0 v1 = .next t) : Keep v1 t := by
  refine keep_next ?_ e
  have h := Keep.refl v1
  repeat' first
    | with_reducible assumption
    | with_reducible apply State.unsend_keep
    | with_reducible apply State.setTile_keep
    | with_reducible apply State.ackTo_keep
    | simp only [keep_mk]
    | with_reducible refine keep_ite (fun _ => ?_) (fun _ => ?_)
    | split

theorem execSetTimeout_keep {v0 : Nat} {v1 : Nat} {v2 : State} {t : State} (e : execSetTimeout v0 v1 v2 = .next t) : Keep v2 t := by
  refine keep_next ?_ e
  have h := Keep.refl v2
  repeat' first
    | with_reducible assumption
    | with_reducible apply State.endTask_keep
    | with_reducible apply State.modTile_keep
    | simp only [keep_mk]
    | with_reducible refine keep_ite (fun _ => ?_) (fun _ => ?_)

theorem execRippleEnd_keep {v0 : Nat} {v1 : State} {t : State} (e : execRippleEnd v0 v1 = .next t) : Keep v1 t := by
  refine keep_next ?_ e
  have h := Keep.refl v1
  repeat' first
    | with_reducible assumption
    | with_reducible apply State.setTile_keep
    | simp only [keep_mk]
    | with_reducible refine keep_ite (fun _ => ?_) (fun _ => ?_)

theorem cbloadBody_keep {a : State} {v0 : Nat} {v1 : Nat} {v2 : LogEnt} {v3 : Bool} {v4 : State} (h : Keep a v4) : Keep a (cbloadBody v0 v1 v2 v3 v4).st := by
  unfold cbloadBody
  (try dsimp only)
  repeat' first
    | with_reducible assumption
    | with_reducible apply State.endPass_keep
    | with_reducible refine State.prep_bad_keep ?_ (by assumption)
    | with_reducible refine State.prep_hold_keep ?_ (by assumption)
    | with_reducible refine State.prep_ok_keep ?_ (by assumption)
    | with_reducible apply State.pushUnit_keep
    | with_reducible apply State.modTile_keep
    | with_reducible refine keep_ite_issued (fun _ => ?_) (fun _ => ?_)
    | split
    | simp only [Issued.st_wait, Issued.st_stop, Issued.st_go, Issued.st_jump, Prep.st_bad, Prep.st_hold, Prep.st_ok]

/-! ### Bandwidth -/

theorem State.spend_keep {a : State} {v0 : State} {v1 : Nat} {v2 : Nat} {t} (h : Keep a v0) (e : State.spend v0 v1 v2 = some t) : Keep a t := by
  unfold State.spend at e
  (try dsimp only at e)
  (repeat' split at e) <;> (try cases e)
  repeat' first
    | with_reducible assumption
    | with_reducible apply State.setTile_keep

theorem State.refillAll_keep {a : State} {v0 : State} (h : Keep a v0) : Keep a (State.refillAll v0) := by
  unfold State.refillAll
  (try dsimp only)
  repeat' first
    | with_reducible assumption
    | with_reducible exact Keep.refl _
    | with_reducible apply State.setTile_keep
    | with_reducible apply keep_foldl
    | (intro _)
    | split

theorem State.setTurn_keep {a : State} {v0 : State} {v1 : Nat} {v2 : Option Nat} (h : Keep a v0) : Keep a (State.setTurn v0 v1 v2) := by
  unfold State.setTurn
  (try dsimp only)
  repeat' first
    | with_reducible assumption
    | with_reducible apply State.modTile_keep
    | with_reducible apply State.refillAll_keep
    | split

/-! ### Streams -/

theorem State.streamStop_keep {a : State} {v0 : State} {v1 : Nat} {v2 : Nat} {v3 : Nat} {v4 : Bool} {v5 : Nat} (h : Keep a v0) : Keep a (State.streamStop v0 v1 v2 v3 v4 v5) := by
  unfold State.streamStop
  (try dsimp only)
  repeat' first
    | with_reducible assumption
    | with_reducible apply State.modTile_keep
    | with_reducible apply State.refused_keep
    | split

theorem State.msgRefused_keep {a : State} {v0 : State} {v1 : Nat} {v2 : Nat} {v3 : Nat} {v4 : Option (Nat × Nat)} (h : Keep a v0) : Keep a (State.msgRefused v0 v1 v2 v3 v4) := by
  unfold State.msgRefused
  (try dsimp only)
  repeat' first
    | with_reducible assumption
    | with_reducible apply State.refused_keep
    | with_reducible apply State.modTile_keep
    | split

theorem State.takeAck_keep {a : State} {v0 : State} {v1 : Nat} {v2 : Requester} (h : Keep a v0) : Keep a (State.takeAck v0 v1 v2) := by
  unfold State.takeAck
  (try dsimp only)
  repeat' first
    | with_reducible assumption
    | with_reducible apply State.modStrand_keep
    | with_reducible apply State.modTile_keep
    | with_reducible apply State.streamStop_keep
    | with_reducible apply State.msgRefused_keep
    | with_reducible apply State.refused_keep
    | with_reducible apply State.pumpBld_keep
    | with_reducible apply State.pumpSyn_keep
    | split

theorem State.streamAdvance_keep {a : State} {v0 : State} {v1 : Nat} {v2 : Nat} {v3 : Nat} {v4 : Nat} {v5 : Nat} (h : Keep a v0) : Keep a (State.streamAdvance v0 v1 v2 v3 v4 v5) := by
  unfold State.streamAdvance
  (try dsimp only)
  repeat' first
    | with_reducible assumption
    | with_reducible apply State.modStrand_keep
    | with_reducible apply State.modTile_keep
    | split

theorem State.streamLoad_keep {a : State} {v0 : State} {v1 : Nat} {v2 : Nat} {v3 : StreamCtx} {v4 : Nat} (h : Keep a v0) : Keep a (State.streamLoad v0 v1 v2 v3 v4) := by
  unfold State.streamLoad
  (try dsimp only)
  repeat' first
    | with_reducible assumption
    | with_reducible apply State.streamStop_keep
    | with_reducible apply State.streamAdvance_keep
    | with_reducible apply State.send_keep
    | split

theorem State.streamSlot_keep {a : State} {v0 : State} {v1 : Nat} {v2 : Nat} {v3 : StreamCtx} {v4 : BightDecl} {v5 : Nat} {t} (h : Keep a v0) (e : State.streamSlot v0 v1 v2 v3 v4 v5 = some t) : Keep a t.1 := by
  unfold State.streamSlot at e
  (try dsimp only at e)
  (repeat' split at e) <;> (try cases e)
  repeat' first
    | with_reducible assumption
    | with_reducible refine State.claimSlot_keepe ?_ (by assumption)
    | with_reducible apply State.modTile_keep
    | with_reducible apply State.modStrand_keep
theorem State.streamSlot_keepe {a : State} {v0 : State} {v1 : Nat} {v2 : Nat} {v3 : StreamCtx} {v4 : BightDecl} {v5 : Nat} {z w} (h : Keep a v0) (e : State.streamSlot v0 v1 v2 v3 v4 v5 = some (z, w)) : Keep a z := State.streamSlot_keep h e

theorem State.ctxSlot_keep {a s : State} {p c : Nat} {x : StreamCtx} {t : State} {y : StreamCtx} (h : Keep a s)
    (e : s.ctxSlot p c x = some (.ok (t, y))) : Keep a t := by
  unfold State.ctxSlot at e
  split at e
  · cases e; exact h
  · split at e
    · cases e
    · split at e
      · simp only [Option.map_eq_some_iff] at e
        obtain ⟨q, hq, e⟩ := e
        cases e
        exact State.streamSlot_keep h hq
      · cases e

theorem State.slotProgress_keep {a : State} {v0 : State} {v1 : Nat} {v2 : Nat} {v3 : Nat} {v4 : Nat} {v5 : Bool} (h : Keep a v0) : Keep a (State.slotProgress v0 v1 v2 v3 v4 v5) := by
  unfold State.slotProgress
  (try dsimp only)
  repeat' first
    | with_reducible assumption
    | with_reducible apply State.modTile_keep
    | with_reducible apply State.modStrand_keep
    | with_reducible apply State.slotMsg_keep
    | split

theorem State.streamStore_keep {a : State} {v0 : State} {v1 : Nat} {v2 : Nat} {v3 : StreamCtx} {v4 : Nat} (h : Keep a v0) : Keep a (State.streamStore v0 v1 v2 v3 v4) := by
  unfold State.streamStore
  (try dsimp only)
  repeat' first
    | with_reducible assumption
    | with_reducible apply State.sendMany_keep
    | with_reducible apply State.streamAdvance_keep
    | with_reducible apply State.streamStop_keep
    | with_reducible apply State.slotWrite_keep
    | with_reducible apply State.slotProgress_keep
    | with_reducible apply State.send_keep
    | split

theorem State.ctxRequest_keep {a s : State} {p c : Nat} {t : State} (h : Keep a s) (e : s.ctxRequest p c = some t) : Keep a t := by
  unfold State.ctxRequest at e
  (try dsimp only at e)
  (repeat' split at e) <;> (try cases e)
  repeat' first
    | with_reducible assumption
    | with_reducible exact Keep.refl _
    | with_reducible refine State.ctxSlot_keep ?_ (by assumption)
    | with_reducible refine State.spend_keep ?_ (by assumption)
    | with_reducible apply State.streamStop_keep
    | with_reducible apply State.streamLoad_keep
    | with_reducible apply State.streamStore_keep
    | with_reducible apply State.logEv_keep
    | with_reducible apply State.modTile_keep
    | with_reducible apply State.noteCe_keep
    | with_reducible apply keep_foldl
    | (intro _)

theorem execReadResponse_keep {v0 : Nat} {v1 : State} {t : State} (e : execReadResponse v0 v1 = .next t) : Keep v1 t := by
  refine keep_next ?_ e
  have h := Keep.refl v1
  repeat' first
    | with_reducible exact Keep.refl _
    | with_reducible apply State.unsend_keep
    | with_reducible apply State.modTile_keep
    | with_reducible apply State.modStrand_keep
    | with_reducible apply State.streamStop_keep
    | with_reducible apply State.spadWrite_keep
    | with_reducible apply State.slotProgress_keep
    | split
    | simp only [Issued.st_wait, Issued.st_stop, Issued.st_go, Issued.st_jump, Prep.st_bad, Prep.st_hold, Prep.st_ok]

theorem execWriteAck_keep {v0 : Nat} {v1 : State} {t : State} (e : execWriteAck v0 v1 = .next t) : Keep v1 t := by
  refine keep_next ?_ e
  have h := Keep.refl v1
  repeat' first
    | with_reducible assumption
    | with_reducible apply State.takeAck_keep
    | with_reducible apply State.unsend_keep
    | split

theorem swaitBody_keep {a : State} {v0 : Nat} {v1 : Nat} {v2 : LogEnt} {v3 : Bool} {v4 : State} (h : Keep a v4) : Keep a (swaitBody v0 v1 v2 v3 v4).st := by
  unfold swaitBody
  (try dsimp only)
  repeat' first
    | with_reducible assumption
    | with_reducible apply State.endPass_keep
    | with_reducible refine keep_ite_issued (fun _ => ?_) (fun _ => ?_)
    | simp only [Issued.st_wait, Issued.st_stop, Issued.st_go, Issued.st_jump, Prep.st_bad, Prep.st_hold, Prep.st_ok]

theorem execStreamRequest_keep {p : Nat} {s t : State} (e : execStreamRequest p s = .next t) : Keep s t := by
  refine keep_next ?_ e
  dsimp only
  split; · exact Keep.refl s
  split
  · rename_i c s' hq
    obtain ⟨c', _, hc⟩ := List.exists_of_findSome?_eq_some hq
    simp only [Option.map_eq_some_iff] at hc
    obtain ⟨s'', hs, hq⟩ := hc
    cases hq
    exact State.modTile_keep (State.ctxRequest_keep (Keep.refl s) hs)
  · exact Keep.refl s

theorem sstartBody_keep {a : State} {v0 : Nat} {v1 : Nat} {v2 : LogEnt} {v3 : Bool} {v4 : State} (h : Keep a v4) : Keep a (sstartBody v0 v1 v2 v3 v4).st := by
  unfold sstartBody
  (try dsimp only)
  repeat' first
    | with_reducible assumption
    | with_reducible refine State.prep_bad_keep ?_ (by assumption)
    | with_reducible refine State.prep_hold_keep ?_ (by assumption)
    | with_reducible refine State.prep_ok_keep ?_ (by assumption)
    | with_reducible apply State.endPass_keep
    | with_reducible apply State.modTile_keep
    | with_reducible refine keep_ite_issued (fun _ => ?_) (fun _ => ?_)
    | split
    | simp only [Issued.st_wait, Issued.st_stop, Issued.st_go, Issued.st_jump, Prep.st_bad, Prep.st_hold, Prep.st_ok]

/-! ### Deliver -/

theorem State.takeSlotMsg_keep {a : State} {v0 : State} {v1 : Nat} {v2 : SlotMsg} (h : Keep a v0) : Keep a (State.takeSlotMsg v0 v1 v2) := by
  unfold State.takeSlotMsg
  (try dsimp only)
  repeat' first
    | with_reducible assumption
    | with_reducible apply State.unsend_keep
    | with_reducible apply State.ackTo_keep
    | with_reducible apply State.slotApply_keep
    | with_reducible refine keep_ite (fun _ => ?_) (fun _ => ?_)
    | split

theorem execClaim_keep {v0 : Nat} {v1 : State} {t : State} (e : execClaim v0 v1 = .next t) : Keep v1 t := by
  refine keep_next ?_ e
  have h := Keep.refl v1
  repeat' first
    | with_reducible assumption
    | with_reducible apply State.takeSlotMsg_keep

theorem execAbandon_keep {v0 : Nat} {v1 : State} {t : State} (e : execAbandon v0 v1 = .next t) : Keep v1 t := by
  refine keep_next ?_ e
  have h := Keep.refl v1
  repeat' first
    | with_reducible assumption
    | with_reducible apply State.takeSlotMsg_keep

theorem execFullUpdate_keep {v0 : Nat} {v1 : State} {t : State} (e : execFullUpdate v0 v1 = .next t) : Keep v1 t := by
  refine keep_next ?_ e
  have h := Keep.refl v1
  repeat' first
    | with_reducible assumption
    | with_reducible apply State.takeSlotMsg_keep

theorem State.arriveWrite_keep {a : State} {v0 : State} {v1 : Nat} {v2 : List (Nat × Byte)} {v3 : Option (Nat × Nat)} {v4 : Requester} (h : Keep a v0) : Keep a (State.arriveWrite v0 v1 v2 v3 v4) := by
  unfold State.arriveWrite
  (try dsimp only)
  repeat' first
    | with_reducible assumption
    | with_reducible apply State.spadWrite_keep
    | with_reducible apply State.ackTo_keep

theorem execScratchpadWrite_keep {v0 : Nat} {v1 : State} {t : State} (e : execScratchpadWrite v0 v1 = .next t) : Keep v1 t := by
  refine keep_next ?_ e
  have h := Keep.refl v1
  repeat' first
    | with_reducible exact Keep.refl _
    | with_reducible apply State.unsend_keep
    | with_reducible apply State.ackTo_keep
    | with_reducible apply State.passBy_keep
    | with_reducible apply State.modTile_keep
    | with_reducible apply State.arriveWrite_keep
    | split

theorem execCreditReturn_keep {v0 : Nat} {v1 : State} {t : State} (e : execCreditReturn v0 v1 = .next t) : Keep v1 t := by
  refine keep_next ?_ e
  have h := Keep.refl v1
  repeat' first
    | with_reducible assumption
    | with_reducible apply State.unsend_keep
    | with_reducible apply State.modBight_keep
    | with_reducible refine keep_ite (fun _ => ?_) (fun _ => ?_)
    | split

theorem execScratchpadRead_keep {v0 : Nat} {v1 : State} {t : State} (e : execScratchpadRead v0 v1 = .next t) : Keep v1 t := by
  refine keep_next ?_ e
  have h := Keep.refl v1
  repeat' first
    | with_reducible assumption
    | with_reducible apply State.unsend_keep
    | with_reducible apply State.respond_keep
    | with_reducible apply State.modTile_keep
    | with_reducible apply State.logEv_keep
    | with_reducible apply State.noteCe_keep
    | simp only [keep_mk]
    | with_reducible refine keep_ite (fun _ => ?_) (fun _ => ?_)
    | split

/-! ### Lookup -/

theorem State.replay_keep {a : State} {v0 : State} {v1 : Nat} {v2 : Nat} {v3 : Nat} {v4 : Nat} (h : Keep a v0) : Keep a (State.replay v0 v1 v2 v3 v4) := by
  unfold State.replay
  (try dsimp only)
  repeat' first
    | with_reducible assumption
    | with_reducible apply State.modStrand_keep
    | with_reducible apply State.setTile_keep

theorem lpassBody_keep {a : State} {v0 : Nat} {v1 : Nat} {v2 : LogEnt} {v3 : Bool} {v4 : State} (h : Keep a v4) : Keep a (lpassBody v0 v1 v2 v3 v4).st := by
  unfold lpassBody
  (try dsimp only)
  repeat' first
    | with_reducible assumption
    | with_reducible apply State.modStrand_keep
    | with_reducible refine State.joinGroup_keep ?_ (by assumption)
    | with_reducible apply State.pushUnit_keep
    | with_reducible apply State.stopAt_keep
    | with_reducible refine State.prep_bad_keep ?_ (by assumption)
    | with_reducible refine State.prep_ok_keep ?_ (by assumption)
    | with_reducible apply State.modTile_keep
    | split
    | simp only [Issued.st_wait, Issued.st_stop, Issued.st_go, Issued.st_jump, Prep.st_bad, Prep.st_hold, Prep.st_ok]

theorem State.judge_keep {a : State} {v0 : State} {v1 : Nat} {v2 : Nat} {v3 : Nat} (h : Keep a v0) : Keep a (State.judge v0 v1 v2 v3) := by
  unfold State.judge
  (try dsimp only)
  repeat' first
    | with_reducible assumption
    | with_reducible apply State.modStrand_keep
    | with_reducible apply State.modTile_keep
    | with_reducible apply State.endTask_keep
    | with_reducible apply State.replay_keep
    | with_reducible refine keep_ite (fun _ => ?_) (fun _ => ?_)

theorem State.passRetire_keep {a : State} {v0 : State} {v1 : Nat} (h : Keep a v0) : Keep a (State.passRetire v0 v1) := by
  unfold State.passRetire
  (try dsimp only)
  repeat' first
    | with_reducible assumption
    | with_reducible apply State.judge_keep
    | with_reducible apply State.setTile_keep
    | with_reducible apply State.endTask_keep
    | with_reducible apply State.modStrand_keep
    | with_reducible refine keep_ite (fun _ => ?_) (fun _ => ?_)
    | split

theorem execPassRetire_keep {v0 : Nat} {v1 : State} {t : State} (e : execPassRetire v0 v1 = .next t) : Keep v1 t := by
  refine keep_next ?_ e
  have h := Keep.refl v1
  repeat' first
    | with_reducible assumption
    | with_reducible apply State.passRetire_keep
    | with_reducible refine keep_ite (fun _ => ?_) (fun _ => ?_)

/-! ### Epilogue -/

theorem State.epiGate_keep {a s0 s : State} {p k : Nat} {e : LogEnt} {tok wfmt n : Nat} {more : List Nat} {s1 : State} {d : Dest}
    (h : Keep a s) (q : s0.epiGate s p k e tok wfmt n more = .ok (s1, d)) : Keep a s1 := by
  unfold State.epiGate at q
  dsimp only at q
  (repeat' split at q) <;> cases q <;> exact State.prep_ok_keep h ‹_›
theorem State.epiGate_error_keep {a s0 s : State} {p k : Nat} {e : LogEnt} {tok wfmt n : Nat} {more : List Nat} {i : Issued}
    (h0 : Keep a s0) (h : Keep a s) (q : s0.epiGate s p k e tok wfmt n more = .error i) : Keep a i.st := by
  unfold State.epiGate at q
  dsimp only at q
  (repeat' split at q) <;> cases q <;> first
    | exact h0
    | exact State.prep_bad_keep h ‹_›
    | exact State.holdAt_keep h0 (State.prep_hold_keep h ‹_›)
    | (simp only [Issued.st_stop]; exact State.modTile_keep (State.prep_ok_keep h ‹_›))

theorem State.epiWrite_keep {a : State} {v0 : State} {v1 : Nat} {v2 : Nat} {v3 : Dest} {v4 : List Byte} {v5 : List Byte} (h : Keep a v0) : Keep a (State.epiWrite v0 v1 v2 v3 v4 v5).1 := by
  unfold State.epiWrite
  (try dsimp only)
  repeat' first
    | with_reducible assumption
    | with_reducible apply State.opWrite_keep
    | with_reducible refine State.claimSlot_keepe ?_ (by assumption)
    | with_reducible apply State.modStrand_keep
    | with_reducible apply State.slotWrite_keep
    | with_reducible apply State.slotMsg_keep
    | split
theorem State.epiWrite_keepe {a : State} {v0 : State} {v1 : Nat} {v2 : Nat} {v3 : Dest} {v4 : List Byte} {v5 : List Byte} {z w} (h : Keep a v0) (e : State.epiWrite v0 v1 v2 v3 v4 v5 = (z, w)) : Keep a z := by
  have k := State.epiWrite_keep (v0 := v0) (v1 := v1) (v2 := v2) (v3 := v3) (v4 := v4) (v5 := v5) h
  rw [e] at k
  exact k

theorem State.epiEmit_keep {a s0 s : State} {p k : Nat} {e : LogEnt} {tok wfmt : Nat} {sa : Word} {sh : Nat} {clamped : Bool}
    {l : List Int} {sumA : Int} {b : List Int} {sumB : Int} {more : List Nat} {before after : State → State} (h0 : Keep a s0) (h : Keep a s)
    (hb : ∀ x, Keep a x → Keep a (before x)) (ha : ∀ x, Keep a x → Keep a (after x)) :
    Keep a (s0.epiEmit s p k e tok wfmt sa sh clamped l sumA b sumB more before after).st := by
  unfold State.epiEmit
  dsimp only
  split
  · exact State.epiGate_error_keep h0 h ‹_›
  · have k := hb _ (State.epiGate_keep h ‹_›)
    split
    · exact State.epiWrite_keep k
    · exact ha _ (State.epiWrite_keep k)

theorem State.totals_keep {a : State} {v0 : State} {v1 : AccBank} {v2 : GroupCtx} (h : Keep a v0) : Keep a (State.totals v0 v1 v2).2 := by
  unfold State.totals
  (try dsimp only)
  repeat' first
    | with_reducible assumption
    | simp only [keep_mk]
theorem State.totals_keepe {a : State} {v0 : State} {v1 : AccBank} {v2 : GroupCtx} {z w} (h : Keep a v0) (e : State.totals v0 v1 v2 = (z, w)) : Keep a w := by
  have k := State.totals_keep (v0 := v0) (v1 := v1) (v2 := v2)  h
  rw [e] at k
  exact k

theorem State.partials_keep {a : State} {v0 : State} {v1 : AccBank} {v2 : Nat} {v3 : Nat} {v4 : Nat} {v5 : Nat} {v6 : Word} (h : Keep a v0) : Keep a (State.partials v0 v1 v2 v3 v4 v5 v6).2 := by
  unfold State.partials
  (try dsimp only)
  repeat' first
    | with_reducible assumption
    | with_reducible exact Keep.refl _
    | with_reducible apply State.totals_keep
    | with_reducible apply keep_foldl_snd
    | (intro _)
theorem State.partials_keepe {a : State} {v0 : State} {v1 : AccBank} {v2 : Nat} {v3 : Nat} {v4 : Nat} {v5 : Nat} {v6 : Word} {z w} (h : Keep a v0) (e : State.partials v0 v1 v2 v3 v4 v5 v6 = (z, w)) : Keep a w := by
  have k := State.partials_keep (v0 := v0) (v1 := v1) (v2 := v2) (v3 := v3) (v4 := v4) (v5 := v5) (v6 := v6)  h
  rw [e] at k
  exact k

theorem State.takeUntil_keep {a s : State} {p k b : Nat} {d : BightDecl} {ok : List Nat → Bool} {n : Nat} {l : List Nat} {t}
    (h : Keep a s) (e : s.takeUntil p k b d ok n l = some t) : Keep a t.1 := by
  induction n generalizing s l with
  | zero =>
    unfold State.takeUntil at e
    split at e <;> cases e
    exact h
  | succ n ih =>
    unfold State.takeUntil at e
    split at e
    · cases e; exact h
    · split at e
      · cases e
      · exact ih (State.takeSlot_keep h) e

theorem State.takePartials_keep {a s : State} {p k red tok : Nat} {g : RedGroup} {d : BightDecl} {t} (h : Keep a s)
    (e : s.takePartials p k red tok g d = some t) : Keep a t.1 := by
  unfold State.takePartials at e
  simp only [Option.map_eq_some_iff] at e
  obtain ⟨q, hq, rfl⟩ := e
  exact State.takeUntil_keep h hq

theorem State.combined_keep {a : State} {v0 : State} {v1 : Nat} {v2 : Nat} {v3 : Nat} {v4 : Nat} {v5 : Nat} {v6 : List (Nat × Nat)} {v7 : List Nat} {v8 : List Nat} {v9 : Tile → Tile} {v10 : VerdictKind} (h : Keep a v0) : Keep a (State.combined v0 v1 v2 v3 v4 v5 v6 v7 v8 v9 v10) := by
  unfold State.combined
  (try dsimp only)
  repeat' first
    | with_reducible assumption
    | with_reducible exact Keep.refl _
    | with_reducible apply State.sendVerdict_keep
    | with_reducible apply State.modTile_keep
    | with_reducible apply State.noteCe_keep
    | with_reducible apply State.modStrand_keep
    | with_reducible apply State.freeSlot_keep
    | with_reducible apply keep_foldl
    | (intro _)

theorem combineBody_keep {a s : State} {p k : Nat} {e : LogEnt} {r : Bool} (h : Keep a s) : Keep a (combineBody p k e r s).st := by
  unfold combineBody
  extract_lets -lift s0
  have h1 : Keep a s0 := State.endPass_keep h
  split; · exact h1
  split; · exact h1
  split; · exact h1
  split; · exact h
  have k1 := State.takePartials_keep h1 ‹_›
  (try extract_lets -lift)
  split; · exact keep_foldl h fun _ _ => State.modTile_keep (Keep.refl _)
  split; · exact State.logEv_keep k1
  (try extract_lets -lift)
  split
  · split
    · exact State.epiGate_error_keep h k1 ‹_›
    · rw [Issued.st_wait]
      exact State.modStrand_keep (State.combined_keep k1)
  · (try extract_lets -lift)
    refine State.epiEmit_keep h ?_ (fun x hx => State.combined_keep hx) fun x hx => State.pushUnit_keep hx
    exact keep_ite (fun _ => State.modTile_keep k1) fun _ => k1

theorem outputBody_keep {a s : State} {p k : Nat} {e : LogEnt} {r : Bool} (h : Keep a s) : Keep a (outputBody p k e r s).st := by
  unfold outputBody
  have h1 : Keep a (s.endPass p k) := State.endPass_keep h
  dsimp only
  split; · exact h1
  split; · exact h
  · exact h1
  split; · exact h1
  refine State.epiEmit_keep h ?_ (fun x hx => hx) fun x hx => State.pushUnit_keep (State.modTile_keep hx)
  repeat' first
    | with_reducible assumption
    | with_reducible apply State.totals_keep
    | split

theorem partialBody_keep {a : State} {v0 : Nat} {v1 : Nat} {v2 : LogEnt} {v3 : Bool} {v4 : State} (h : Keep a v4) : Keep a (partialBody v0 v1 v2 v3 v4).st := by
  unfold partialBody
  (try dsimp only)
  repeat' first
    | with_reducible assumption
    | with_reducible apply State.endPass_keep
    | with_reducible apply State.partials_keep
    | with_reducible refine State.claimSlot_keepe ?_ (by assumption)
    | with_reducible apply State.slotWrite_keep
    | with_reducible apply State.modStrand_keep
    | with_reducible apply State.slotMsg_keep
    | with_reducible apply State.modTask_keep
    | with_reducible apply State.pushUnit_keep
    | with_reducible apply State.modTile_keep
    | split
    | simp only [Issued.st_wait, Issued.st_stop, Issued.st_go, Issued.st_jump, Prep.st_bad, Prep.st_hold, Prep.st_ok]

/-! ### Sync -/

theorem State.synStep_keep {a : State} {v0 : State} {v1 : Nat} {v2 : Nat} {v3 : LogEnt} (h : Keep a v0) : Keep a (State.synStep v0 v1 v2 v3) := by
  unfold State.synStep
  (try dsimp only)
  repeat' first
    | with_reducible assumption
    | with_reducible apply State.pushUnit_keep
    | split

theorem breadBody_keep {a : State} {v0 : Nat} {v1 : Nat} {v2 : LogEnt} {v3 : Bool} {v4 : State} (h : Keep a v4) : Keep a (breadBody v0 v1 v2 v3 v4).st := by
  unfold breadBody
  (try dsimp only)
  repeat' first
    | with_reducible assumption
    | with_reducible apply State.synStep_keep
    | with_reducible apply State.modStrand_keep
    | with_reducible apply State.takeSlot_keep
    | with_reducible apply State.endPass_keep
    | split
    | simp only [Issued.st_wait, Issued.st_stop, Issued.st_go, Issued.st_jump, Prep.st_bad, Prep.st_hold, Prep.st_ok]

theorem hwaitBody_keep {a : State} {v0 : Nat} {v1 : Nat} {v2 : LogEnt} {v3 : Bool} {v4 : State} (h : Keep a v4) : Keep a (hwaitBody v0 v1 v2 v3 v4).st := by
  unfold hwaitBody
  (try dsimp only)
  repeat' first
    | with_reducible assumption
    | with_reducible apply State.synStep_keep
    | with_reducible apply State.endPass_keep
    | split
    | simp only [Issued.st_wait, Issued.st_stop, Issued.st_go, Issued.st_jump, Prep.st_bad, Prep.st_hold, Prep.st_ok]

theorem brelBody_keep {a : State} {v0 : Nat} {v1 : Nat} {v2 : LogEnt} {v3 : Bool} {v4 : State} (h : Keep a v4) : Keep a (brelBody v0 v1 v2 v3 v4).st := by
  unfold brelBody
  (try dsimp only)
  repeat' first
    | with_reducible assumption
    | with_reducible apply State.modStrand_keep
    | with_reducible apply State.endPass_keep
    | with_reducible apply State.synStep_keep
    | with_reducible apply State.freeSlot_keep
    | with_reducible apply State.slotMsg_keep
    | split
    | simp only [Issued.st_wait, Issued.st_stop, Issued.st_go, Issued.st_jump, Prep.st_bad, Prep.st_hold, Prep.st_ok]

theorem harriveBody_keep {a : State} {v0 : Nat} {v1 : Nat} {v2 : LogEnt} {v3 : Bool} {v4 : State} (h : Keep a v4) : Keep a (harriveBody v0 v1 v2 v3 v4).st := by
  unfold harriveBody
  (try dsimp only)
  repeat' first
    | with_reducible assumption
    | with_reducible apply State.pumpSyn_keep
    | with_reducible apply State.pushUnit_keep
    | with_reducible apply State.endPass_keep
    | with_reducible refine keep_ite_issued (fun _ => ?_) (fun _ => ?_)
    | simp only [Issued.st_wait, Issued.st_stop, Issued.st_go, Issued.st_jump, Prep.st_bad, Prep.st_hold, Prep.st_ok]

theorem bwriteBody_keep {a : State} {v0 : Nat} {v1 : Nat} {v2 : LogEnt} {v3 : Bool} {v4 : State} (h : Keep a v4) : Keep a (bwriteBody v0 v1 v2 v3 v4).st := by
  unfold bwriteBody
  (try dsimp only)
  repeat' first
    | with_reducible assumption
    | with_reducible refine State.claimSlot_keepe ?_ (by assumption)
    | with_reducible apply State.synStep_keep
    | with_reducible apply State.modStrand_keep
    | with_reducible apply State.endPass_keep
    | split
    | simp only [Issued.st_wait, Issued.st_stop, Issued.st_go, Issued.st_jump, Prep.st_bad, Prep.st_hold, Prep.st_ok]

theorem State.unitDone_keep {a : State} {v0 : State} {v1 : Nat} {v2 : Nat} {v3 : UStep} {v4 : List UStep} (h : Keep a v0) : Keep a (State.unitDone v0 v1 v2 v3 v4) := by
  unfold State.unitDone
  (try dsimp only)
  repeat' first
    | with_reducible assumption
    | with_reducible apply State.modTile_keep
    | with_reducible apply State.endTask_keep
    | with_reducible refine keep_ite (fun _ => ?_) (fun _ => ?_)

theorem execBightTimeout_keep {v0 : Nat} {v1 : Nat} {v2 : State} {t : State} (e : execBightTimeout v0 v1 v2 = .next t) : Keep v2 t := by
  refine keep_next ?_ e
  have h := Keep.refl v2
  repeat' first
    | with_reducible assumption
    | with_reducible apply State.issue_keep
    | with_reducible apply breadBody_keep
    | with_reducible apply combineBody_keep
    | with_reducible apply State.endTask_keep
    | with_reducible apply State.modTile_keep
    | simp only [keep_mk]
    | with_reducible refine keep_ite (fun _ => ?_) (fun _ => ?_)
    | (intro _)

theorem execUnitStepComplete_keep {v0 : Nat} {v1 : Nat} {v2 : State} {t : State} (e : execUnitStepComplete v0 v1 v2 = .next t) : Keep v2 t := by
  refine keep_next ?_ e
  have h := Keep.refl v2
  repeat' first
    | with_reducible exact Keep.refl _
    | with_reducible apply State.pumpBld_keep
    | with_reducible apply State.pumpSyn_keep
    | with_reducible apply State.unitDone_keep
    | split

/-! ### Vector -/

theorem State.vecFlags_keep {a : State} {v0 : State} {v1 : Nat} {v2 : Nat} {v3 : VRes} (h : Keep a v0) : Keep a (State.vecFlags v0 v1 v2 v3) := by
  unfold State.vecFlags
  (try dsimp only)
  repeat' first
    | with_reducible assumption
    | with_reducible apply State.modTile_keep
    | with_reducible apply State.modStrand_keep
    | with_reducible apply State.logEv_keep
    | with_reducible refine keep_ite (fun _ => ?_) (fun _ => ?_)

theorem State.invalidate_keep {a : State} {v0 : State} {v1 : Nat} {v2 : Nat} {v3 : Opnd} {v4 : Nat} (h : Keep a v0) : Keep a (State.invalidate v0 v1 v2 v3 v4) := by
  unfold State.invalidate
  (try dsimp only)
  repeat' first
    | with_reducible assumption
    | with_reducible apply State.modTile_keep
    | split

theorem State.vecApply_keep {a : State} {v0 : State} {v1 : Nat} {v2 : Nat} {v3 : VRes} (h : Keep a v0) : Keep a (State.vecApply v0 v1 v2 v3).1 := by
  unfold State.vecApply
  (try dsimp only)
  repeat' first
    | with_reducible assumption
    | with_reducible apply State.opWrites_keep
    | with_reducible apply State.vecFlags_keep
    | with_reducible apply State.invalidate_keep
    | split
theorem State.vecApply_keepe {a : State} {v0 : State} {v1 : Nat} {v2 : Nat} {v3 : VRes} {z w} (h : Keep a v0) (e : State.vecApply v0 v1 v2 v3 = (z, w)) : Keep a z := by
  have k := State.vecApply_keep (v0 := v0) (v1 := v1) (v2 := v2) (v3 := v3)  h
  rw [e] at k
  exact k

theorem vopBody_keep {a : State} {v0 : Nat} {v1 : Nat} {v2 : Strand → BitVec 128 → VPlan} {v3 : LogEnt} {v4 : Bool} {v5 : State} (h : Keep a v5) : Keep a (vopBody v0 v1 v2 v3 v4 v5).st := by
  unfold vopBody
  (try dsimp only)
  repeat' first
    | with_reducible assumption
    | with_reducible apply State.vecApply_keep
    | with_reducible apply State.endPass_keep
    | with_reducible refine State.prep_bad_keep ?_ (by assumption)
    | with_reducible refine State.prep_hold_keep ?_ (by assumption)
    | with_reducible refine State.prep_ok_keep ?_ (by assumption)
    | with_reducible apply State.vecFlags_keep
    | with_reducible apply State.pushUnit_keep
    | with_reducible refine keep_ite_issued (fun _ => ?_) (fun _ => ?_)
    | split
    | simp only [Issued.st_wait, Issued.st_stop, Issued.st_go, Issued.st_jump, Prep.st_bad, Prep.st_hold, Prep.st_ok]

/-! ### Issue -/

theorem stepBody_keep {a : State} {v0 : Nat} {v1 : Nat} {v2 : LogEnt} {v3 : Bool} {v4 : State} (h : Keep a v4) : Keep a (stepBody v0 v1 v2 v3 v4).st := by
  unfold stepBody
  (try dsimp only)
  repeat' first
    | with_reducible assumption
    | with_reducible apply endBody_keep
    | with_reducible apply buildBody_keep
    | with_reducible apply cbloadBody_keep
    | with_reducible apply lpassBody_keep
    | with_reducible apply partialBody_keep
    | with_reducible apply combineBody_keep
    | with_reducible apply outputBody_keep
    | with_reducible apply vopBody_keep
    | with_reducible apply sstartBody_keep
    | with_reducible apply swaitBody_keep
    | with_reducible apply breadBody_keep
    | with_reducible apply bwriteBody_keep
    | with_reducible apply brelBody_keep
    | with_reducible apply harriveBody_keep
    | with_reducible apply hwaitBody_keep
    | with_reducible apply loopBody_keep
    | with_reducible apply setrBody_keep
    | split
    | simp only [Issued.st_wait, Issued.st_stop, Issued.st_go, Issued.st_jump, Prep.st_bad, Prep.st_hold, Prep.st_ok]

theorem State.issueTurn_keep {a : State} {v0 : State} {v1 : Nat} {v2 : Nat} {v3 : BitVec 128 → Bool} {v4 : LogEnt → Bool → State → Issued} (hfv4 : ∀ x0 x1 x2, Keep a x2 → Keep a (v4 x0 x1 x2).st) (h : Keep a v0) : Keep a (State.issueTurn v0 v1 v2 v3 v4) := by
  unfold State.issueTurn
  (try dsimp only)
  repeat' first
    | with_reducible assumption
    | with_reducible apply hfv4
    | with_reducible apply State.issue_keep
    | (intro _)
    | split

theorem State.vop_keep {v0 : State} {v1 : Nat} {v2 : Nat} {v3 : Nat} {v4 : Strand → BitVec 128 → VPlan} {t : State} (e : State.vop v0 v1 v2 v3 v4 = .next t) : Keep v0 t := by
  refine keep_next ?_ e
  have h := Keep.refl v0
  repeat' first
    | with_reducible exact Keep.refl _
    | with_reducible apply State.issueTurn_keep
    | with_reducible apply vopBody_keep

theorem execLog_keep {v0 : Nat} {v1 : Nat} {v2 : State} {t : State} (e : execLog v0 v1 v2 = .next t) : Keep v2 t := State.vop_keep e

theorem execFcomb_keep {v0 : Nat} {v1 : Nat} {v2 : State} {t : State} (e : execFcomb v0 v1 v2 = .next t) : Keep v2 t := State.vop_keep e

theorem execBread_keep {v0 : Nat} {v1 : Nat} {v2 : State} {t : State} (e : execBread v0 v1 v2 = .next t) : Keep v2 t := by
  refine keep_next ?_ e
  have h := Keep.refl v2
  repeat' first
    | with_reducible exact Keep.refl _
    | with_reducible apply State.issueTurn_keep
    | with_reducible apply breadBody_keep

theorem execQs8_keep {v0 : Nat} {v1 : Nat} {v2 : State} {t : State} (e : execQs8 v0 v1 v2 = .next t) : Keep v2 t := State.vop_keep e

theorem execTopk_keep {v0 : Nat} {v1 : Nat} {v2 : State} {t : State} (e : execTopk v0 v1 v2 = .next t) : Keep v2 t := State.vop_keep e

theorem execTanh_keep {v0 : Nat} {v1 : Nat} {v2 : State} {t : State} (e : execTanh v0 v1 v2 = .next t) : Keep v2 t := State.vop_keep e

theorem execSmnorm_keep {v0 : Nat} {v1 : Nat} {v2 : State} {t : State} (e : execSmnorm v0 v1 v2 = .next t) : Keep v2 t := State.vop_keep e

theorem execCombine_keep {v0 : Nat} {v1 : Nat} {v2 : State} {t : State} (e : execCombine v0 v1 v2 = .next t) : Keep v2 t := by
  refine keep_next ?_ e
  have h := Keep.refl v2
  repeat' first
    | with_reducible exact Keep.refl _
    | with_reducible apply State.issueTurn_keep
    | with_reducible apply combineBody_keep
    | (intro _)

theorem execSwait_keep {v0 : Nat} {v1 : Nat} {v2 : State} {t : State} (e : execSwait v0 v1 v2 = .next t) : Keep v2 t := by
  refine keep_next ?_ e
  have h := Keep.refl v2
  repeat' first
    | with_reducible exact Keep.refl _
    | with_reducible apply State.issueTurn_keep
    | with_reducible apply swaitBody_keep

theorem execSetr_keep {v0 : Nat} {v1 : Nat} {v2 : State} {t : State} (e : execSetr v0 v1 v2 = .next t) : Keep v2 t := by
  refine keep_next ?_ e
  have h := Keep.refl v2
  repeat' first
    | with_reducible exact Keep.refl _
    | with_reducible apply State.issueTurn_keep
    | with_reducible apply setrBody_keep

theorem execBwrite_keep {v0 : Nat} {v1 : Nat} {v2 : State} {t : State} (e : execBwrite v0 v1 v2 = .next t) : Keep v2 t := by
  refine keep_next ?_ e
  have h := Keep.refl v2
  repeat' first
    | with_reducible exact Keep.refl _
    | with_reducible apply State.issueTurn_keep
    | with_reducible apply bwriteBody_keep

theorem execSmexp_keep {v0 : Nat} {v1 : Nat} {v2 : State} {t : State} (e : execSmexp v0 v1 v2 = .next t) : Keep v2 t := State.vop_keep e

theorem execDgelu_keep {v0 : Nat} {v1 : Nat} {v2 : State} {t : State} (e : execDgelu v0 v1 v2 = .next t) : Keep v2 t := State.vop_keep e

theorem execHwait_keep {v0 : Nat} {v1 : Nat} {v2 : State} {t : State} (e : execHwait v0 v1 v2 = .next t) : Keep v2 t := by
  refine keep_next ?_ e
  have h := Keep.refl v2
  repeat' first
    | with_reducible exact Keep.refl _
    | with_reducible apply State.issueTurn_keep
    | with_reducible apply hwaitBody_keep

theorem execRsqrt_keep {v0 : Nat} {v1 : Nat} {v2 : State} {t : State} (e : execRsqrt v0 v1 v2 = .next t) : Keep v2 t := State.vop_keep e

theorem execEndStep_keep {v0 : Nat} {v1 : Nat} {v2 : State} {t : State} (e : execEndStep v0 v1 v2 = .next t) : Keep v2 t := by
  refine keep_next ?_ e
  have h := Keep.refl v2
  repeat' first
    | with_reducible exact Keep.refl _
    | with_reducible apply State.issueTurn_keep
    | with_reducible apply endBody_keep

theorem execLoop_keep {v0 : Nat} {v1 : Nat} {v2 : State} {t : State} (e : execLoop v0 v1 v2 = .next t) : Keep v2 t := by
  refine keep_next ?_ e
  have h := Keep.refl v2
  repeat' first
    | with_reducible exact Keep.refl _
    | with_reducible apply State.issueTurn_keep
    | with_reducible apply loopBody_keep

theorem execOuter_keep {v0 : Nat} {v1 : Nat} {v2 : State} {t : State} (e : execOuter v0 v1 v2 = .next t) : Keep v2 t := State.vop_keep e

theorem execDsilu_keep {v0 : Nat} {v1 : Nat} {v2 : State} {t : State} (e : execDsilu v0 v1 v2 = .next t) : Keep v2 t := State.vop_keep e

theorem execScale_keep {v0 : Nat} {v1 : Nat} {v2 : State} {t : State} (e : execScale v0 v1 v2 = .next t) : Keep v2 t := State.vop_keep e

theorem execMin_keep {v0 : Nat} {v1 : Nat} {v2 : State} {t : State} (e : execMin v0 v1 v2 = .next t) : Keep v2 t := State.vop_keep e

theorem execHarrive_keep {v0 : Nat} {v1 : Nat} {v2 : State} {t : State} (e : execHarrive v0 v1 v2 = .next t) : Keep v2 t := by
  refine keep_next ?_ e
  have h := Keep.refl v2
  repeat' first
    | with_reducible exact Keep.refl _
    | with_reducible apply State.issueTurn_keep
    | with_reducible apply harriveBody_keep

theorem execGelu_keep {v0 : Nat} {v1 : Nat} {v2 : State} {t : State} (e : execGelu v0 v1 v2 = .next t) : Keep v2 t := State.vop_keep e

theorem execGather_keep {v0 : Nat} {v1 : Nat} {v2 : State} {t : State} (e : execGather v0 v1 v2 = .next t) : Keep v2 t := State.vop_keep e

theorem execExp_keep {v0 : Nat} {v1 : Nat} {v2 : State} {t : State} (e : execExp v0 v1 v2 = .next t) : Keep v2 t := State.vop_keep e

theorem execLpass_keep {v0 : Nat} {v1 : Nat} {v2 : State} {t : State} (e : execLpass v0 v1 v2 = .next t) : Keep v2 t := by
  refine keep_next ?_ e
  have h := Keep.refl v2
  repeat' first
    | with_reducible exact Keep.refl _
    | with_reducible apply State.issueTurn_keep
    | with_reducible apply lpassBody_keep

theorem execOdot_keep {v0 : Nat} {v1 : Nat} {v2 : State} {t : State} (e : execOdot v0 v1 v2 = .next t) : Keep v2 t := State.vop_keep e

theorem execSub_keep {v0 : Nat} {v1 : Nat} {v2 : State} {t : State} (e : execSub v0 v1 v2 = .next t) : Keep v2 t := State.vop_keep e

theorem execSigmoid_keep {v0 : Nat} {v1 : Nat} {v2 : State} {t : State} (e : execSigmoid v0 v1 v2 = .next t) : Keep v2 t := State.vop_keep e

theorem execQu8a_keep {v0 : Nat} {v1 : Nat} {v2 : State} {t : State} (e : execQu8a v0 v1 v2 = .next t) : Keep v2 t := State.vop_keep e

theorem execRsumsq_keep {v0 : Nat} {v1 : Nat} {v2 : State} {t : State} (e : execRsumsq v0 v1 v2 = .next t) : Keep v2 t := State.vop_keep e

theorem execMax_keep {v0 : Nat} {v1 : Nat} {v2 : State} {t : State} (e : execMax v0 v1 v2 = .next t) : Keep v2 t := State.vop_keep e

theorem execCbload_keep {v0 : Nat} {v1 : Nat} {v2 : State} {t : State} (e : execCbload v0 v1 v2 = .next t) : Keep v2 t := by
  refine keep_next ?_ e
  have h := Keep.refl v2
  repeat' first
    | with_reducible exact Keep.refl _
    | with_reducible apply State.issueTurn_keep
    | with_reducible apply cbloadBody_keep

theorem execArgmax_keep {v0 : Nat} {v1 : Nat} {v2 : State} {t : State} (e : execArgmax v0 v1 v2 = .next t) : Keep v2 t := State.vop_keep e

theorem execSilu_keep {v0 : Nat} {v1 : Nat} {v2 : State} {t : State} (e : execSilu v0 v1 v2 = .next t) : Keep v2 t := State.vop_keep e

theorem execPartialSend_keep {v0 : Nat} {v1 : Nat} {v2 : State} {t : State} (e : execPartialSend v0 v1 v2 = .next t) : Keep v2 t := by
  refine keep_next ?_ e
  have h := Keep.refl v2
  repeat' first
    | with_reducible exact Keep.refl _
    | with_reducible apply State.issueTurn_keep
    | with_reducible apply partialBody_keep

theorem execPscale_keep {v0 : Nat} {v1 : Nat} {v2 : State} {t : State} (e : execPscale v0 v1 v2 = .next t) : Keep v2 t := State.vop_keep e

theorem execInval_keep {v0 : Nat} {v1 : Nat} {v2 : State} {t : State} (e : execInval v0 v1 v2 = .next t) : Keep v2 t := State.vop_keep e

theorem execQm8_keep {v0 : Nat} {v1 : Nat} {v2 : State} {t : State} (e : execQm8 v0 v1 v2 = .next t) : Keep v2 t := State.vop_keep e

theorem execIadd_keep {v0 : Nat} {v1 : Nat} {v2 : State} {t : State} (e : execIadd v0 v1 v2 = .next t) : Keep v2 t := State.vop_keep e

theorem execKapp_keep {v0 : Nat} {v1 : Nat} {v2 : State} {t : State} (e : execKapp v0 v1 v2 = .next t) : Keep v2 t := State.vop_keep e

theorem execOutput_keep {v0 : Nat} {v1 : Nat} {v2 : State} {t : State} (e : execOutput v0 v1 v2 = .next t) : Keep v2 t := by
  refine keep_next ?_ e
  have h := Keep.refl v2
  repeat' first
    | with_reducible exact Keep.refl _
    | with_reducible apply State.issueTurn_keep
    | with_reducible apply outputBody_keep
    | (intro _)

theorem execDot_keep {v0 : Nat} {v1 : Nat} {v2 : State} {t : State} (e : execDot v0 v1 v2 = .next t) : Keep v2 t := State.vop_keep e

theorem execMul_keep {v0 : Nat} {v1 : Nat} {v2 : State} {t : State} (e : execMul v0 v1 v2 = .next t) : Keep v2 t := State.vop_keep e

theorem execRsum_keep {v0 : Nat} {v1 : Nat} {v2 : State} {t : State} (e : execRsum v0 v1 v2 = .next t) : Keep v2 t := State.vop_keep e

theorem execStatcmb_keep {v0 : Nat} {v1 : Nat} {v2 : State} {t : State} (e : execStatcmb v0 v1 v2 = .next t) : Keep v2 t := State.vop_keep e

theorem execSstart_keep {v0 : Nat} {v1 : Nat} {v2 : State} {t : State} (e : execSstart v0 v1 v2 = .next t) : Keep v2 t := by
  refine keep_next ?_ e
  have h := Keep.refl v2
  repeat' first
    | with_reducible exact Keep.refl _
    | with_reducible apply State.issueTurn_keep
    | with_reducible apply sstartBody_keep

theorem execBrel_keep {v0 : Nat} {v1 : Nat} {v2 : State} {t : State} (e : execBrel v0 v1 v2 = .next t) : Keep v2 t := by
  refine keep_next ?_ e
  have h := Keep.refl v2
  repeat' first
    | with_reducible exact Keep.refl _
    | with_reducible apply State.issueTurn_keep
    | with_reducible apply brelBody_keep

theorem execTbuild_keep {v0 : Nat} {v1 : Nat} {v2 : State} {t : State} (e : execTbuild v0 v1 v2 = .next t) : Keep v2 t := by
  refine keep_next ?_ e
  have h := Keep.refl v2
  repeat' first
    | with_reducible exact Keep.refl _
    | with_reducible apply State.issueTurn_keep
    | with_reducible apply buildBody_keep

theorem execFma_keep {v0 : Nat} {v1 : Nat} {v2 : State} {t : State} (e : execFma v0 v1 v2 = .next t) : Keep v2 t := State.vop_keep e

theorem execCopy_keep {v0 : Nat} {v1 : Nat} {v2 : State} {t : State} (e : execCopy v0 v1 v2 = .next t) : Keep v2 t := State.vop_keep e

theorem execMatvec_keep {v0 : Nat} {v1 : Nat} {v2 : State} {t : State} (e : execMatvec v0 v1 v2 = .next t) : Keep v2 t := State.vop_keep e

theorem execRope_keep {v0 : Nat} {v1 : Nat} {v2 : State} {t : State} (e : execRope v0 v1 v2 = .next t) : Keep v2 t := State.vop_keep e

theorem execRmax_keep {v0 : Nat} {v1 : Nat} {v2 : State} {t : State} (e : execRmax v0 v1 v2 = .next t) : Keep v2 t := State.vop_keep e

theorem execFill_keep {v0 : Nat} {v1 : Nat} {v2 : State} {t : State} (e : execFill v0 v1 v2 = .next t) : Keep v2 t := State.vop_keep e

theorem execRecip_keep {v0 : Nat} {v1 : Nat} {v2 : State} {t : State} (e : execRecip v0 v1 v2 = .next t) : Keep v2 t := State.vop_keep e

theorem execVapp_keep {v0 : Nat} {v1 : Nat} {v2 : State} {t : State} (e : execVapp v0 v1 v2 = .next t) : Keep v2 t := State.vop_keep e

theorem execAdamw_keep {v0 : Nat} {v1 : Nat} {v2 : State} {t : State} (e : execAdamw v0 v1 v2 = .next t) : Keep v2 t := State.vop_keep e

theorem execQg8_keep {v0 : Nat} {v1 : Nat} {v2 : State} {t : State} (e : execQg8 v0 v1 v2 = .next t) : Keep v2 t := State.vop_keep e

theorem execTmcast_keep {v0 : Nat} {v1 : Nat} {v2 : State} {t : State} (e : execTmcast v0 v1 v2 = .next t) : Keep v2 t := by
  refine keep_next ?_ e
  have h := Keep.refl v2
  repeat' first
    | with_reducible exact Keep.refl _
    | with_reducible apply State.issueTurn_keep
    | with_reducible apply buildBody_keep

theorem execTopkm_keep {v0 : Nat} {v1 : Nat} {v2 : State} {t : State} (e : execTopkm v0 v1 v2 = .next t) : Keep v2 t := State.vop_keep e

theorem execRmsnorm_keep {v0 : Nat} {v1 : Nat} {v2 : State} {t : State} (e : execRmsnorm v0 v1 v2 = .next t) : Keep v2 t := State.vop_keep e

theorem execAdd_keep {v0 : Nat} {v1 : Nat} {v2 : State} {t : State} (e : execAdd v0 v1 v2 = .next t) : Keep v2 t := State.vop_keep e

end Sys2Proof.Machine
end

