-- ==== Sys2Proof/Laws/KeepSched.lean ====
section
/-! SUPPORT. The relation Keep (Sys2Proof/Laws/Keep.lean) through the channel, the tasks and the scheduler's commands. -/

set_option linter.unusedVariables false
set_option linter.unusedSimpArgs false

namespace Sys2Proof.Machine

/-! ### ExtMem -/

theorem State.putDram_keep {a : State} {v0 : State} {v1 : Nat} {v2 : List Byte} {v3 : List Nat} (h : Keep a v0) : Keep a (State.putDram v0 v1 v2 v3) := by
  unfold State.putDram
  (try dsimp only)
  repeat' first
    | with_reducible assumption
    | with_reducible apply State.modChan_keep

theorem State.storeBlock_keep {a : State} {v0 : State} {v1 : Nat} {v2 : List Byte} (h : Keep a v0) : Keep a (State.storeBlock v0 v1 v2) := by
  unfold State.storeBlock
  (try dsimp only)
  repeat' first
    | with_reducible assumption
    | with_reducible apply State.modChan_keep
    | with_reducible apply State.putDram_keep
    | split

theorem State.memCount_keep {a : State} {v0 : State} {v1 : Nat} {v2 : Nat} (h : Keep a v0) : Keep a (State.memCount v0 v1 v2) := by
  unfold State.memCount
  (try dsimp only)
  repeat' first
    | with_reducible assumption
    | with_reducible apply State.modChan_keep

theorem State.damage_keep {a : State} {v0 : State} {v1 : Nat} {v2 : Nat} {v3 : Nat} {v4 : BlockRes} (h : Keep a v0) : Keep a (State.damage v0 v1 v2 v3 v4) := by
  unfold State.damage
  (try dsimp only)
  repeat' first
    | with_reducible assumption
    | with_reducible apply State.logEv_keep
    | with_reducible apply State.memCount_keep
    | simp only [keep_mk]
    | with_reducible refine keep_ite (fun _ => ?_) (fun _ => ?_)

theorem State.inlineBad_keep {a : State} {v0 : State} {v1 : Nat} {v2 : Word} (h : Keep a v0) : Keep a (State.inlineBad v0 v1 v2).1 := by
  unfold State.inlineBad
  (try dsimp only)
  repeat' first
    | with_reducible assumption
    | with_reducible apply State.memCount_keep
    | with_reducible apply State.logEv_keep
theorem State.inlineBad_keepe {a : State} {v0 : State} {v1 : Nat} {v2 : Word} {z w} (h : Keep a v0) (e : State.inlineBad v0 v1 v2 = (z, w)) : Keep a z := by
  have k := State.inlineBad_keep (v0 := v0) (v1 := v1) (v2 := v2) h
  rw [e] at k
  exact k

theorem State.checkBlock_keep {a : State} {v0 : State} {v1 : Nat} {v2 : Nat} {v3 : Word} {v4 : BlockRes} {v5 : DramCheck} (h : Keep a v0) : Keep a (State.checkBlock v0 v1 v2 v3 v4 v5).1 := by
  unfold State.checkBlock
  (try dsimp only)
  repeat' first
    | with_reducible assumption
    | with_reducible apply State.damage_keep
    | with_reducible apply State.memCount_keep
    | with_reducible apply State.channelOut_keep
    | with_reducible apply State.inlineBad_keep
    | with_reducible apply State.modChan_keep
    | with_reducible apply State.logEv_keep
    | split
theorem State.checkBlock_keepe {a : State} {v0 : State} {v1 : Nat} {v2 : Nat} {v3 : Word} {v4 : BlockRes} {v5 : DramCheck} {z w} (h : Keep a v0) (e : State.checkBlock v0 v1 v2 v3 v4 v5 = (z, w)) : Keep a z := by
  have k := State.checkBlock_keep (v0 := v0) (v1 := v1) (v2 := v2) (v3 := v3) (v4 := v4) (v5 := v5) h
  rw [e] at k
  exact k

theorem State.tookBlock_keep {a : State} {v0 : State} {v1 : Nat} (h : Keep a v0) : Keep a (State.tookBlock v0 v1) := by
  unfold State.tookBlock
  (try dsimp only)
  repeat' first
    | with_reducible assumption
    | with_reducible apply State.modChan_keep
    | split

theorem State.closeBuf_keep {a : State} {v0 : State} {v1 : Nat} {v2 : Nat} {v3 : DramCheck} (h : Keep a v0) : Keep a (State.closeBuf v0 v1 v2 v3) := by
  unfold State.closeBuf
  (try dsimp only)
  repeat' first
    | with_reducible assumption
    | with_reducible exact Keep.refl _
    | with_reducible apply State.modChan_keep
    | with_reducible apply State.storeBlock_keep
    | with_reducible apply State.checkBlock_keep
    | with_reducible apply State.tookBlock_keep
    | with_reducible apply State.ackTo_keep
    | with_reducible apply keep_foldl
    | (intro _)
    | split

theorem State.hostIssue_keep {a : State} {v0 : State} {v1 : Nat} {v2 : Nat} {v3 : Nat} {v4 : Requester} {t} (h : Keep a v0) (e : State.hostIssue v0 v1 v2 v3 v4 = some t) : Keep a t := by
  unfold State.hostIssue at e
  (try dsimp only at e)
  (repeat' split at e) <;> (try cases e)
  repeat' first
    | with_reducible assumption
    | with_reducible apply State.emit_keep
    | simp only [keep_mk]

theorem State.hostRead_keep {a : State} {v0 : State} {v1 : Nat} {v2 : Nat} {v3 : Nat} (h : Keep a v0) : Keep a (State.hostRead v0 v1 v2 v3) := by
  unfold State.hostRead
  (try dsimp only)
  repeat' first
    | with_reducible assumption
    | with_reducible apply State.emit_keep
    | split

theorem State.dramRead_keep {a s : State} {f : Nat} {tag : Word} {chk : DramCheck} {fuel b n : Nat} (h : Keep a s) :
    Keep a (s.dramRead f tag chk fuel b n).1 := by
  induction fuel generalizing s b n with
  | zero => exact h
  | succ fuel ih =>
    unfold State.dramRead
    split
    · exact h
    · dsimp only
      split
      · split
        · exact State.checkBlock_keep (State.tookBlock_keep h)
        · exact ih (State.checkBlock_keep (State.tookBlock_keep h))
      · exact h
theorem State.dramRead_keepe {a s : State} {f : Nat} {tag : Word} {chk : DramCheck} {fuel b n : Nat} {z w} (h : Keep a s)
    (e : s.dramRead f tag chk fuel b n = (z, w)) : Keep a z := by
  have k := State.dramRead_keep (f := f) (tag := tag) (chk := chk) (fuel := fuel) (b := b) (n := n) h
  rw [e] at k
  exact k

theorem State.writeBlock_keep {a : State} {v0 : State} {v1 : Nat} {v2 : List (Nat × Byte)} {v3 : Requester} {v4 : DramCheck} (h : Keep a v0) : Keep a (State.writeBlock v0 v1 v2 v3 v4).1 := by
  unfold State.writeBlock
  (try dsimp only)
  repeat' first
    | with_reducible assumption
    | with_reducible apply State.modChan_keep
    | with_reducible apply State.closeBuf_keep
    | with_reducible apply State.storeBlock_keep
    | with_reducible apply State.putDram_keep
    | with_reducible apply State.tookBlock_keep
    | with_reducible apply State.inlineBad_keep
    | with_reducible apply State.checkBlock_keep
    | split
theorem State.writeBlock_keepe {a : State} {v0 : State} {v1 : Nat} {v2 : List (Nat × Byte)} {v3 : Requester} {v4 : DramCheck} {z w} (h : Keep a v0) (e : State.writeBlock v0 v1 v2 v3 v4 = (z, w)) : Keep a z := by
  have k := State.writeBlock_keep (v0 := v0) (v1 := v1) (v2 := v2) (v3 := v3) (v4 := v4) h
  rw [e] at k
  exact k

theorem State.dramWrite_keep {a : State} {v0 : State} {v1 : List (Nat × Byte)} {v2 : Requester} {v3 : DramCheck} (h : Keep a v0) : Keep a (State.dramWrite v0 v1 v2 v3).1 := by
  unfold State.dramWrite
  (try dsimp only)
  repeat' first
    | with_reducible assumption
    | with_reducible exact Keep.refl _
    | with_reducible apply State.writeBlock_keep
    | with_reducible apply keep_foldl_fst
    | (intro _)
    | split
theorem State.dramWrite_keepe {a : State} {v0 : State} {v1 : List (Nat × Byte)} {v2 : Requester} {v3 : DramCheck} {z w} (h : Keep a v0) (e : State.dramWrite v0 v1 v2 v3 = (z, w)) : Keep a z := by
  have k := State.dramWrite_keep (v0 := v0) (v1 := v1) (v2 := v2) (v3 := v3) h
  rw [e] at k
  exact k

theorem State.devRead_keep {a : State} {v0 : State} {v1 : Bool} {v2 : Nat} {v3 : Nat} {v4 : Nat} {v5 : List Byte} {v6 : Bool} {v7 : DramCheck} (h : Keep a v0) : Keep a (State.devRead v0 v1 v2 v3 v4 v5 v6 v7).1 := by
  unfold State.devRead
  (try dsimp only)
  repeat' first
    | with_reducible assumption
    | with_reducible apply State.dramRead_keep
    | with_reducible apply State.modTile_keep
    | with_reducible apply State.logEv_keep
    | with_reducible apply State.noteCe_keep
    | with_reducible apply State.hostRead_keep
    | split
theorem State.devRead_keepe {a : State} {v0 : State} {v1 : Bool} {v2 : Nat} {v3 : Nat} {v4 : Nat} {v5 : List Byte} {v6 : Bool} {v7 : DramCheck} {z w} (h : Keep a v0) (e : State.devRead v0 v1 v2 v3 v4 v5 v6 v7 = (z, w)) : Keep a z := by
  have k := State.devRead_keep (v0 := v0) (v1 := v1) (v2 := v2) (v3 := v3) (v4 := v4) (v5 := v5) (v6 := v6) (v7 := v7) h
  rw [e] at k
  exact k

/-! ### Tasks -/

theorem State.mapTasks_keep {a : State} {v0 : State} {v1 : Task → Task} (h : Keep a v0) : Keep a (State.mapTasks v0 v1) := by
  unfold State.mapTasks
  (try dsimp only)
  repeat' first
    | with_reducible assumption
    | simp only [keep_mk]

theorem State.recheckTags_keep {a : State} {v0 : State} {v1 : Nat} (h : Keep a v0) : Keep a (State.recheckTags v0 v1) := by
  unfold State.recheckTags
  (try dsimp only)
  repeat' first
    | with_reducible assumption
    | with_reducible apply State.mapTasks_keep

theorem State.settleQueue_keep {a : State} {v0 : State} {v1 : Nat} (h : Keep a v0) : Keep a (State.settleQueue v0 v1) := by
  unfold State.settleQueue
  (try dsimp only)
  repeat' first
    | with_reducible assumption
    | with_reducible apply State.modQueue_keep
    | with_reducible refine keep_ite (fun _ => ?_) (fun _ => ?_)

theorem State.closeFirst_keep {a : State} {v0 : State} (h : Keep a v0) : Keep a (State.closeFirst v0) := by
  unfold State.closeFirst
  (try dsimp only)
  repeat' first
    | with_reducible assumption
    | with_reducible apply State.logEv_keep
    | simp only [keep_mk]
    | split

theorem State.closeWindow_keep {a : State} {v0 : State} (h : Keep a v0) : Keep a (State.closeWindow v0) := by
  unfold State.closeWindow
  (try dsimp only)
  repeat' first
    | with_reducible assumption
    | with_reducible apply State.closeFirst_keep

theorem State.retireOne_keep {a : State} {v0 : State} {v1 : Nat} {v2 : Nat} {v3 : Bool} (h : Keep a v0) : Keep a (State.retireOne v0 v1 v2 v3) := by
  unfold State.retireOne
  (try dsimp only)
  repeat' first
    | with_reducible assumption
    | with_reducible apply State.modTile_keep
    | with_reducible apply State.modQueue_keep
    | with_reducible apply State.setTask_keep
    | with_reducible apply State.mapTasks_keep
    | with_reducible apply State.settleQueue_keep
    | with_reducible apply State.closeWindow_keep
    | with_reducible apply State.recheckTags_keep
    | with_reducible refine keep_ite (fun _ => ?_) (fun _ => ?_)
    | split

theorem State.propagate_keep {a s : State} {n : Nat} (h : Keep a s) : Keep a (State.propagate n s) := by
  induction n generalizing s with
  | zero => exact h
  | succ n ih =>
    unfold State.propagate
    split
    · exact ih (State.retireOne_keep h)
    · exact h

theorem State.retire_keep {a : State} {v0 : State} {v1 : Nat} {v2 : Nat} (h : Keep a v0) : Keep a (State.retire v0 v1 v2) := by
  unfold State.retire
  (try dsimp only)
  repeat' first
    | with_reducible assumption
    | with_reducible apply State.propagate_keep
    | with_reducible apply State.retireOne_keep

theorem State.recall_keep {a : State} {v0 : State} {v1 : Nat} (h : Keep a v0) : Keep a (State.recall v0 v1) := by
  unfold State.recall
  (try dsimp only)
  repeat' first
    | with_reducible assumption
    | with_reducible apply State.modTile_keep
    | with_reducible apply State.setTask_keep
    | with_reducible apply State.retire_keep
    | with_reducible refine keep_ite (fun _ => ?_) (fun _ => ?_)
    | split

theorem State.recheckHitch_keep {a : State} {v0 : State} {v1 : Nat} (h : Keep a v0) : Keep a (State.recheckHitch v0 v1) := by
  unfold State.recheckHitch
  (try dsimp only)
  repeat' first
    | with_reducible assumption
    | with_reducible apply State.mapTasks_keep

theorem State.loadStrand_keep {a : State} {v0 : State} {v1 : Nat} {v2 : Nat} {v3 : Nat} (h : Keep a v0) : Keep a (State.loadStrand v0 v1 v2 v3) := by
  unfold State.loadStrand
  (try dsimp only)
  repeat' first
    | with_reducible assumption
    | with_reducible apply State.modTile_keep
    | with_reducible apply State.setTurn_keep
    | with_reducible apply State.settle_keep
    | with_reducible apply State.setTask_keep
    | split

theorem State.settleTurn_keep {a : State} {v0 : State} {v1 : Nat} (h : Keep a v0) : Keep a (State.settleTurn v0 v1) := by
  unfold State.settleTurn
  (try dsimp only)
  repeat' first
    | with_reducible assumption
    | with_reducible apply State.setTurn_keep
    | with_reducible apply State.recall_keep
    | with_reducible apply State.modTile_keep
    | split

theorem State.settleTurns_keep {a : State} {v0 : State} (h : Keep a v0) : Keep a (State.settleTurns v0) := by
  unfold State.settleTurns
  (try dsimp only)
  repeat' first
    | with_reducible assumption
    | with_reducible exact Keep.refl _
    | with_reducible apply State.settleTurn_keep
    | with_reducible apply keep_foldl
    | (intro _)

theorem State.promoteMarkers_keep {a : State} {v0 : State} {v1 : Nat} (h : Keep a v0) : Keep a (State.promoteMarkers v0 v1) := by
  unfold State.promoteMarkers
  (try dsimp only)
  repeat' first
    | with_reducible assumption
    | with_reducible apply State.modQueue_keep
    | with_reducible refine keep_ite (fun _ => ?_) (fun _ => ?_)

theorem State.loadLaunch_keep {a : State} {v0 : State} {v1 : Nat} {v2 : Nat} (h : Keep a v0) : Keep a (State.loadLaunch v0 v1 v2) := by
  unfold State.loadLaunch
  (try dsimp only)
  repeat' first
    | with_reducible assumption
    | with_reducible apply State.loadStrand_keep
    | with_reducible refine keep_ite (fun _ => ?_) (fun _ => ?_)
    | split

/-! ### Sched -/

theorem State.doorbell_keep {a : State} {v0 : State} {v1 : Nat} {v2 : Nat} {v3 : Nat} {v4 : BitVec 64} {v5 : Bool} {v6 : Nat → Queue → BitVec 32 → State} (hf : ∀ q x y, Keep a (v6 q x y)) (h : Keep a v0) : Keep a (State.doorbell v0 v1 v2 v3 v4 v5 v6) := by
  unfold State.doorbell
  (try dsimp only)
  repeat' first
    | with_reducible assumption
    | with_reducible apply hf
    | with_reducible apply State.logDrop_keep
    | with_reducible refine keep_ite (fun _ => ?_) (fun _ => ?_)

theorem execCompletionDoorbell_keep {v0 : Nat} {v1 : Nat} {v2 : Nat} {v3 : BitVec 64} {v4 : State} {t : State} (e : execCompletionDoorbell v0 v1 v2 v3 v4 = .next t) : Keep v4 t := by
  refine keep_next ?_ e
  have h := Keep.refl v4
  repeat' first
    | with_reducible assumption
    | with_reducible apply State.doorbell_keep
    | with_reducible apply State.modQueue_keep
    | with_reducible refine keep_ite (fun _ => ?_) (fun _ => ?_)
    | (intro _)

theorem execSubmissionDoorbell_keep {v0 : Nat} {v1 : Nat} {v2 : Nat} {v3 : BitVec 64} {v4 : State} {t : State} (e : execSubmissionDoorbell v0 v1 v2 v3 v4 = .next t) : Keep v4 t := by
  refine keep_next ?_ e
  have h := Keep.refl v4
  repeat' first
    | with_reducible assumption
    | with_reducible apply State.doorbell_keep
    | with_reducible apply State.modQueue_keep
    | with_reducible refine keep_ite (fun _ => ?_) (fun _ => ?_)
    | (intro _)

theorem State.onQueue_keep {a : State} {v0 : State} {v1 : Nat} {v2 : Nat} {v3 : Nat → State} (hf : ∀ q, Keep a (v3 q)) (h : Keep a v0) : Keep a (State.onQueue v0 v1 v2 v3) := by
  unfold State.onQueue
  (try dsimp only)
  repeat' first
    | with_reducible assumption
    | with_reducible apply hf
    | with_reducible apply State.logDrop_keep
    | with_reducible refine keep_ite (fun _ => ?_) (fun _ => ?_)

theorem execQueueEnable_keep {v0 : Nat} {v1 : Word} {v2 : State} {t : State} (e : execQueueEnable v0 v1 v2 = .next t) : Keep v2 t := by
  refine keep_next ?_ e
  have h := Keep.refl v2
  repeat' first
    | with_reducible assumption
    | with_reducible apply State.onQueue_keep
    | with_reducible apply State.modQueue_keep
    | with_reducible apply State.settleQueue_keep
    | simp only [keep_mk]
    | with_reducible refine keep_ite (fun _ => ?_) (fun _ => ?_)
    | (intro _)

theorem State.flush_keep {a : State} {v0 : State} {v1 : Nat} (h : Keep a v0) : Keep a (State.flush v0 v1) := by
  unfold State.flush
  (try dsimp only)
  repeat' first
    | with_reducible assumption
    | with_reducible exact Keep.refl _
    | with_reducible apply State.modQueue_keep
    | with_reducible apply State.modStrand_keep
    | with_reducible apply State.modTask_keep
    | with_reducible apply State.endTask_keep
    | with_reducible apply State.retireOne_keep
    | with_reducible apply State.settleTurns_keep
    | with_reducible apply State.settleQueue_keep
    | with_reducible apply State.propagate_keep
    | with_reducible apply keep_foldl
    | (intro _)
    | split

theorem State.resolveVerdicts_keep {a : State} {v0 : State} {v1 : Nat} (h : Keep a v0) : Keep a (State.resolveVerdicts v0 v1) := by
  unfold State.resolveVerdicts
  (try dsimp only)
  repeat' first
    | with_reducible assumption
    | with_reducible apply State.setTask_keep
    | with_reducible apply State.retire_keep
    | with_reducible refine keep_ite (fun _ => ?_) (fun _ => ?_)
    | split

theorem execCompletionReport_keep {v0 : Nat} {v1 : Nat} {v2 : State} {t : State} (e : execCompletionReport v0 v1 v2 = .next t) : Keep v2 t := by
  refine keep_next ?_ e
  have h := Keep.refl v2
  repeat' first
    | with_reducible assumption
    | with_reducible apply State.modTile_keep
    | with_reducible apply State.setTask_keep
    | with_reducible apply State.resolveVerdicts_keep
    | with_reducible apply State.retire_keep
    | with_reducible apply State.settleTurns_keep
    | with_reducible apply State.loadLaunch_keep
    | simp only [keep_mk]
    | with_reducible refine keep_ite (fun _ => ?_) (fun _ => ?_)
    | split

theorem State.releaseRound_keep {a : State} {v0 : State} {v1 : Nat} (h : Keep a v0) : Keep a (State.releaseRound v0 v1) := by
  unfold State.releaseRound
  (try dsimp only)
  repeat' first
    | with_reducible assumption
    | with_reducible exact Keep.refl _
    | with_reducible apply State.recheckHitch_keep
    | with_reducible apply State.setHitch_keep
    | with_reducible apply State.send_keep
    | with_reducible apply keep_foldl
    | (intro _)
    | split

theorem execQueueFlush_keep {v0 : Nat} {v1 : Word} {v2 : State} {t : State} (e : execQueueFlush v0 v1 v2 = .next t) : Keep v2 t := by
  refine keep_next ?_ e
  have h := Keep.refl v2
  repeat' first
    | with_reducible assumption
    | with_reducible apply State.onQueue_keep
    | with_reducible apply State.flush_keep
    | with_reducible refine keep_ite (fun _ => ?_) (fun _ => ?_)
    | (intro _)

theorem execHitchRelease_keep {v0 : Nat} {v1 : State} {t : State} (e : execHitchRelease v0 v1 = .next t) : Keep v1 t := by
  refine keep_next ?_ e
  have h := Keep.refl v1
  repeat' first
    | with_reducible exact Keep.refl _
    | with_reducible apply State.unsend_keep
    | with_reducible apply State.pumpBld_keep
    | with_reducible apply State.modTile_keep
    | with_reducible apply State.modStrand_keep
    | split
    | simp only [Issued.st_wait, Issued.st_stop, Issued.st_go, Issued.st_jump, Prep.st_bad, Prep.st_hold, Prep.st_ok]

theorem State.resetHitch_keep {a : State} {v0 : State} {v1 : Nat} (h : Keep a v0) : Keep a (State.resetHitch v0 v1) := by
  unfold State.resetHitch
  (try dsimp only)
  repeat' first
    | with_reducible assumption
    | with_reducible exact Keep.refl _
    | with_reducible apply State.setHitch_keep
    | with_reducible apply State.mapTasks_keep
    | with_reducible apply State.endTask_keep
    | with_reducible apply State.retireOne_keep
    | with_reducible apply State.propagate_keep
    | with_reducible refine keep_ite (fun _ => ?_) (fun _ => ?_)
    | with_reducible apply keep_foldl
    | (intro _)

theorem State.writeRecord_keep {a : State} {v0 : State} {v1 : Nat} {v2 : List Byte} {t} (h : Keep a v0) (e : State.writeRecord v0 v1 v2 = some t) : Keep a t.1 := by
  unfold State.writeRecord at e
  (try dsimp only at e)
  (repeat' split at e) <;> (try cases e)
  repeat' first
    | with_reducible assumption
    | with_reducible apply State.dramWrite_keep
    | with_reducible apply State.emit_keep
theorem State.writeRecord_keepe {a : State} {v0 : State} {v1 : Nat} {v2 : List Byte} {z w} (h : Keep a v0) (e : State.writeRecord v0 v1 v2 = some (z, w)) : Keep a z := State.writeRecord_keep h e

theorem State.logFetch_keep {a : State} {v0 : State} {v1 : Word} {v2 : Nat} (h : Keep a v0) : Keep a (State.logFetch v0 v1 v2) := by
  unfold State.logFetch
  (try dsimp only)
  repeat' first
    | with_reducible assumption
    | with_reducible apply State.logEv_keep
    | split

theorem State.packetFault_keep {a : State} {v0 : State} {v1 : Nat} {v2 : PendEntry} {v3 : Nat} (h : Keep a v0) : Keep a (State.packetFault v0 v1 v2 v3) := by
  unfold State.packetFault
  (try dsimp only)
  repeat' first
    | with_reducible assumption
    | with_reducible apply State.modQueue_keep
    | with_reducible apply State.logFetch_keep

theorem State.fetchPacket_keep {a : State} {v0 : State} {v1 : Nat} {v2 : PendEntry} {v3 : Nat} {v4 : List Byte} {v5 : Bool} {v6 : DramCheck} (h : Keep a v0) : Keep a (State.fetchPacket v0 v1 v2 v3 v4 v5 v6) := by
  unfold State.fetchPacket
  (try dsimp only)
  repeat' first
    | with_reducible assumption
    | with_reducible apply State.modQueue_keep
    | with_reducible apply State.devRead_keep
    | with_reducible apply State.packetFault_keep
    | split

theorem State.enterTask_keep {a : State} {v0 : State} {v1 : Nat} {v2 : Task} {v3 : List Nat} (h : Keep a v0) : Keep a (State.enterTask v0 v1 v2 v3) := by
  unfold State.enterTask
  (try dsimp only)
  repeat' first
    | with_reducible assumption
    | with_reducible apply State.setTask_keep
    | with_reducible apply State.retireOne_keep
    | simp only [keep_mk]
    | with_reducible refine keep_ite (fun _ => ?_) (fun _ => ?_)

theorem State.readEntry_keep {a : State} {v0 : State} {v1 : Nat} {v2 : List Byte} {v3 : List Byte} {v4 : Bool} {v5 : DramCheck} (h : Keep a v0) : Keep a (State.readEntry v0 v1 v2 v3 v4 v5) := by
  unfold State.readEntry
  (try dsimp only)
  repeat' first
    | with_reducible assumption
    | with_reducible apply State.devRead_keep
    | with_reducible apply State.modQueue_keep
    | with_reducible apply State.logFetch_keep
    | with_reducible apply State.packetFault_keep
    | with_reducible apply State.promoteMarkers_keep
    | with_reducible apply State.fetchPacket_keep
    | simp only [keep_mk]
    | split

theorem execDispatch_keep {v0 : Nat} {v1 : State} {t : State} (e : execDispatch v0 v1 = .next t) : Keep v1 t := by
  refine keep_next ?_ e
  have h := Keep.refl v1
  repeat' first
    | with_reducible exact Keep.refl _
    | with_reducible apply State.settleTurns_keep
    | with_reducible apply State.retire_keep
    | with_reducible apply State.loadStrand_keep
    | with_reducible apply State.modTile_keep
    | with_reducible apply State.setTurn_keep
    | with_reducible apply State.setTask_keep
    | split
    | simp only [Issued.st_wait, Issued.st_stop, Issued.st_go, Issued.st_jump, Prep.st_bad, Prep.st_hold, Prep.st_ok]

theorem State.signal_keep {a : State} {v0 : State} {v1 : Nat} (h : Keep a v0) : Keep a (State.signal v0 v1) := by
  unfold State.signal
  (try dsimp only)
  repeat' first
    | with_reducible assumption
    | with_reducible apply State.modQueue_keep
    | with_reducible apply State.logDrop_keep
    | with_reducible apply State.msix_keep
    | with_reducible refine keep_ite (fun _ => ?_) (fun _ => ?_)

theorem State.logLink_keep {a : State} {v0 : State} {v1 : Nat} {v2 : Nat} (h : Keep a v0) : Keep a (State.logLink v0 v1 v2) := by
  unfold State.logLink
  (try dsimp only)
  repeat' first
    | with_reducible assumption
    | with_reducible apply State.logEv_keep

theorem execEntryRead_keep {v0 : Nat} {v1 : List Byte} {v2 : List Byte} {v3 : Bool} {v4 : DramCheck} {v5 : State} {t : State} (e : execEntryRead v0 v1 v2 v3 v4 v5 = .next t) : Keep v5 t := by
  refine keep_next ?_ e
  have h := Keep.refl v5
  repeat' first
    | with_reducible exact Keep.refl _
    | with_reducible apply State.fetchPacket_keep
    | with_reducible apply State.readEntry_keep
    | simp only [keep_mk]
    | split

theorem State.takeVerdict_keep {a : State} {v0 : State} {v1 : Nat} {v2 : Nat} {v3 : VerdictKind} {v4 : Nat × Nat} {t} (h : Keep a v0) (e : State.takeVerdict v0 v1 v2 v3 v4 = some t) : Keep a t := by
  unfold State.takeVerdict at e
  (try dsimp only at e)
  (repeat' split at e) <;> (try cases e)
  repeat' first
    | with_reducible assumption
    | with_reducible exact Keep.refl _
    | with_reducible apply State.resolveVerdicts_keep
    | with_reducible apply State.modTask_keep
    | with_reducible apply State.settleTurns_keep
    | with_reducible apply keep_foldl
    | (intro _)

theorem execPacketAcceptance_keep {v0 : Nat} {v1 : State} {t : State} (e : execPacketAcceptance v0 v1 = .next t) : Keep v1 t := by
  refine keep_next ?_ e
  have h := Keep.refl v1
  repeat' first
    | with_reducible assumption
    | with_reducible exact Keep.refl _
    | with_reducible apply State.packetFault_keep
    | with_reducible apply State.enterTask_keep
    | with_reducible apply State.mapTasks_keep
    | with_reducible apply State.modQueue_keep
    | with_reducible apply State.settleTurns_keep
    | with_reducible apply State.propagate_keep
    | simp only [keep_mk]
    | with_reducible refine keep_ite (fun _ => ?_) (fun _ => ?_)
    | with_reducible apply keep_foldl
    | (intro _)
    | split

theorem execCompletionRecordPost_keep {v0 : Nat} {v1 : State} {t : State} (e : execCompletionRecordPost v0 v1 = .next t) : Keep v1 t := by
  refine keep_next ?_ e
  have h := Keep.refl v1
  repeat' first
    | with_reducible assumption
    | with_reducible refine State.writeRecord_keepe ?_ (by assumption)
    | with_reducible apply State.modQueue_keep
    | with_reducible apply State.recheckTags_keep
    | with_reducible apply State.dropTask_keep
    | with_reducible apply State.signal_keep
    | with_reducible apply State.settleTurns_keep
    | with_reducible apply State.settle_keep
    | with_reducible apply State.closeWindow_keep
    | with_reducible apply State.settleQueue_keep
    | with_reducible apply State.promoteMarkers_keep
    | simp only [keep_mk]
    | with_reducible refine keep_ite (fun _ => ?_) (fun _ => ?_)
    | split

theorem execModUsExpiry_keep {v0 : Nat} {v1 : State} {t : State} (e : execModUsExpiry v0 v1 = .next t) : Keep v1 t := by
  refine keep_next ?_ e
  have h := Keep.refl v1
  repeat' first
    | with_reducible assumption
    | with_reducible apply State.signal_keep
    | with_reducible refine keep_ite (fun _ => ?_) (fun _ => ?_)

theorem execHitchArrival_keep {v0 : Nat} {v1 : State} {t : State} (e : execHitchArrival v0 v1 = .next t) : Keep v1 t := by
  refine keep_next ?_ e
  have h := Keep.refl v1
  repeat' first
    | with_reducible assumption
    | with_reducible apply State.unsend_keep
    | with_reducible apply State.endTask_keep
    | with_reducible apply State.setTask_keep
    | with_reducible apply State.setHitch_keep
    | with_reducible apply State.settleTurns_keep
    | with_reducible apply State.releaseRound_keep
    | simp only [keep_mk]
    | with_reducible refine keep_ite (fun _ => ?_) (fun _ => ?_)
    | split

end Sys2Proof.Machine
end

