-- ==== Sys2Proof/Laws/KeepMemory.lean ====
section
/-! SUPPORT. The relation Keep (Sys2Proof/Laws/Keep.lean) through the commands of the memory channels. -/

set_option linter.unusedVariables false
set_option linter.unusedSimpArgs false

namespace Sys2Proof.Machine

/-! ### Memory -/

theorem State.hostSend_keep {a : State} {v0 : State} {v1 : Nat} {v2 : Endpoint} {v3 : VC} {v4 : Body} (h : Keep a v0) : Keep a (State.hostSend v0 v1 v2 v3 v4) := by
  unfold State.hostSend
  exact State.send_keep h

theorem State.noteServed_keep {a : State} {v0 : State} {v1 : Nat} {v2 : Requester} {v3 : Nat} (h : Keep a v0) : Keep a (State.noteServed v0 v1 v2 v3) := by
  unfold State.noteServed
  (try dsimp only)
  repeat' first
    | with_reducible assumption
    | with_reducible apply State.modChan_keep
    | split

theorem State.spliceTouch_keep {a : State} {v0 : State} {v1 : Nat} {v2 : SpliceLine} (h : Keep a v0) : Keep a (State.spliceTouch v0 v1 v2) := by
  unfold State.spliceTouch
  (try dsimp only)
  repeat' first
    | with_reducible assumption
    | with_reducible apply State.modChan_keep

theorem State.fillReads_keep {a : State} {v0 : State} {v1 : Nat} {v2 : Nat} {v3 : Nat} {v4 : Nat} {v5 : Bool} {t} (h : Keep a v0) (e : State.fillReads v0 v1 v2 v3 v4 v5 = some t) : Keep a t := by
  unfold State.fillReads at e
  (try dsimp only at e)
  (repeat' split at e) <;> (try cases e)
  repeat' first
    | with_reducible assumption
    | with_reducible refine State.hostIssue_keep ?_ (by assumption)

theorem State.weightRead_keep {a s : State} {c b n f : Nat} {share : Bool} {who : Requester} {t : State} (h : Keep a s)
    (e : s.weightRead c b n f share who = some t) : Keep a t := by
  unfold State.weightRead at e
  (try dsimp only at e)
  (repeat' split at e) <;> (try simp only [Option.map_eq_some_iff] at e) <;> first
    | (obtain ⟨z, hz, rfl⟩ := e)
    | cases e
  all_goals repeat' first
    | with_reducible assumption
    | with_reducible refine State.fillReads_keep ?_ (by assumption)
    | with_reducible apply State.respond_keep
    | with_reducible apply State.modChan_keep
    | with_reducible apply State.spliceTouch_keep
    | with_reducible apply State.tookBlock_keep
    | (cases ‹some _ = some _›)
    | (split at *)

theorem execMemoryRead_keep {v0 : Nat} {v1 : DramCheck} {v2 : State} {t : State} (e : execMemoryRead v0 v1 v2 = .next t) : Keep v2 t := by
  refine keep_next ?_ e
  have h := Keep.refl v2
  repeat' first
    | with_reducible exact Keep.refl _
    | with_reducible apply State.noteServed_keep
    | with_reducible apply State.unsend_keep
    | with_reducible refine State.weightRead_keep ?_ (by assumption)
    | with_reducible apply State.checkBlock_keep
    | with_reducible apply State.tookBlock_keep
    | with_reducible apply State.respond_keep
    | with_reducible apply keep_getD
    | (intro _)
    | split

theorem execHostInterfaceRequest_keep {v0 : Nat} {v1 : State} {t : State} (e : execHostInterfaceRequest v0 v1 = .next t) : Keep v1 t := by
  refine keep_next ?_ e
  have h := Keep.refl v1
  repeat' first
    | with_reducible exact Keep.refl _
    | with_reducible apply State.unsend_keep
    | with_reducible refine State.hostIssue_keep ?_ (by assumption)
    | with_reducible apply State.respond_keep
    | with_reducible apply State.ackTo_keep
    | with_reducible apply State.emit_keep
    | with_reducible apply keep_getD
    | with_reducible apply keep_foldl
    | (intro _)
    | split

theorem State.tagLineGot_keep {a : State} {v0 : State} {v1 : Nat} {v2 : Nat} {v3 : Nat} {v4 : List Byte} {v5 : Bool} (h : Keep a v0) : Keep a (State.tagLineGot v0 v1 v2 v3 v4 v5) := by
  unfold State.tagLineGot
  (try dsimp only)
  repeat' first
    | with_reducible assumption
    | with_reducible apply State.modChan_keep
    | split

theorem execPcieCompletion_keep {v0 : Nat} {v1 : List Byte} {v2 : Bool} {v3 : State} {t : State} (e : execPcieCompletion v0 v1 v2 v3 = .next t) : Keep v3 t := by
  refine keep_next ?_ e
  have h := Keep.refl v3
  repeat' first
    | with_reducible exact Keep.refl _
    | with_reducible apply State.modChan_keep
    | with_reducible apply State.tagLineGot_keep
    | with_reducible apply State.respond_keep
    | simp only [keep_mk]
    | split

theorem State.clearChan_keep {a : State} {v0 : State} {v1 : Nat} {v2 : Nat} {v3 : Nat} {v4 : DramCheck} (h : Keep a v0) : Keep a (State.clearChan v0 v1 v2 v3 v4) := by
  unfold State.clearChan
  (try dsimp only)
  repeat' first
    | with_reducible assumption
    | with_reducible exact Keep.refl _
    | with_reducible apply State.closeBuf_keep
    | with_reducible apply State.modChan_keep
    | with_reducible apply keep_foldl
    | (intro _)

theorem execCodeTableLoad_keep {v0 : Nat} {v1 : Word} {v2 : List Byte} {v3 : ReadResult} {v5 : State} {t : State} (e : execCodeTableLoad v0 v1 v2 v3 v5 = .next t) : Keep v5 t := by
  refine keep_next ?_ e
  have h := Keep.refl v5
  repeat' first
    | with_reducible exact Keep.refl _
    | with_reducible apply State.devRead_keep
    | simp only [keep_mk]
    | split

theorem State.checkFill_keep {a s : State} {x : SpliceFillSt} {l i m j} (h : Keep a s) : Keep a (s.checkFill x l i m j).1 := by
  unfold State.checkFill
  (try dsimp only)
  repeat' first
    | with_reducible assumption
    | with_reducible apply State.checkBlock_keep
    | split

theorem State.fillOutcome_keep {a s : State} {c : Nat} {x : SpliceFillSt} {l i m j} {r : BlockRes} {t : State} {st : Nat}
    (h : Keep a s) (e : s.fillOutcome c x l i m j = some (r, t, st)) : Keep a t := by
  unfold State.fillOutcome at e
  (try dsimp only at e)
  (repeat' split at e) <;> (try cases e)
  repeat' first
    | with_reducible assumption
    | with_reducible apply State.checkFill_keep
    | with_reducible apply State.damage_keep
    | with_reducible apply State.memCount_keep

theorem execSpliceFill_keep {c k : Nat} {l i m j} {s t : State} (e : execSpliceFill c k l i m j s = .next t) : Keep s t := by
  refine keep_next ?_ e
  have h := Keep.refl s
  split
  · exact h
  · split
    · exact h
    · have k := State.fillOutcome_keep (State.modChan_keep h) ‹_›
      extract_lets -lift s2
      have k2 : Keep s s2 := keep_foldl k fun _ _ => State.respond_keep (Keep.refl _)
      split
      · exact State.spliceTouch_keep k2
      · exact k2

theorem State.bar4Read_keep {a : State} {v0 : State} {v1 : Nat} {v2 : Nat} {v3 : Nat} {v4 : DramCheck} (h : Keep a v0) : Keep a (State.bar4Read v0 v1 v2 v3 v4) := by
  unfold State.bar4Read
  (try dsimp only)
  repeat' first
    | with_reducible assumption
    | with_reducible apply State.hostSend_keep
    | with_reducible apply State.completeRead_keep
    | with_reducible apply State.dramRead_keep
    | with_reducible apply State.logEv_keep
    | with_reducible apply State.noteCe_keep
    | split

theorem execBar4Read_keep {v0 : Nat} {v1 : Nat} {v2 : Nat} {v3 : DramCheck} {v4 : State} {t : State} (e : execBar4Read v0 v1 v2 v3 v4 = .next t) : Keep v4 t := by
  refine keep_next ?_ e
  have h := Keep.refl v4
  repeat' first
    | with_reducible assumption
    | with_reducible exact Keep.refl _
    | with_reducible apply State.emit_keep
    | with_reducible apply State.bar4Read_keep
    | with_reducible apply keep_foldl
    | (intro _)
    | split

theorem execKeyLoad_keep {v0 : Nat} {v1 : Word} {v2 : State} {t : State} (e : execKeyLoad v0 v1 v2 = .next t) : Keep v2 t := by
  refine keep_next ?_ e
  have h := Keep.refl v2
  repeat' first
    | with_reducible assumption
    | simp only [keep_mk]
    | with_reducible refine keep_ite (fun _ => ?_) (fun _ => ?_)

theorem execSpliceFlushDone_keep {v0 : Nat} {v1 : State} {t : State} (e : execSpliceFlushDone v0 v1 = .next t) : Keep v1 t := by
  refine keep_next ?_ e
  have h := Keep.refl v1
  repeat' first
    | with_reducible assumption
    | with_reducible apply State.modChan_keep

theorem execSpliceFlush_keep {v0 : Nat} {v1 : Nat} {v2 : Word} {v3 : State} {t : State} (e : execSpliceFlush v0 v1 v2 v3 = .next t) : Keep v3 t := by
  refine keep_next ?_ e
  have h := Keep.refl v3
  repeat' first
    | with_reducible assumption
    | with_reducible apply State.modChan_keep
    | simp only [keep_mk]
    | with_reducible refine keep_ite (fun _ => ?_) (fun _ => ?_)

theorem execGatherBufferClose_keep {v0 : Nat} {v1 : Nat} {v2 : DramCheck} {v3 : State} {t : State} (e : execGatherBufferClose v0 v1 v2 v3 = .next t) : Keep v3 t := by
  refine keep_next ?_ e
  have h := Keep.refl v3
  repeat' first
    | with_reducible assumption
    | with_reducible apply State.closeBuf_keep

theorem State.bar4Write_keep {a : State} {v0 : State} {v1 : Nat} {v2 : Nat} {v3 : List Byte} {v4 : DramCheck} (h : Keep a v0) : Keep a (State.bar4Write v0 v1 v2 v3 v4) := by
  unfold State.bar4Write
  (try dsimp only)
  repeat' first
    | with_reducible assumption
    | with_reducible apply State.hostSend_keep
    | with_reducible apply State.dramWrite_keep
    | with_reducible apply State.logDrop_keep
    | with_reducible apply State.arriveWrite_keep
    | split

theorem execBar4Write_keep {v0 : Nat} {v1 : Nat} {v2 : List Byte} {v3 : DramCheck} {v4 : State} {t : State} (e : execBar4Write v0 v1 v2 v3 v4 = .next t) : Keep v4 t := by
  refine keep_next ?_ e
  have h := Keep.refl v4
  repeat' first
    | with_reducible assumption
    | with_reducible exact Keep.refl _
    | with_reducible apply State.bar4Write_keep
    | with_reducible apply keep_foldl
    | (intro _)
    | split

theorem execWpmClearDone_keep {v0 : State} {t : State} (e : execWpmClearDone v0 = .next t) : Keep v0 t := by
  refine keep_next ?_ e
  have h := Keep.refl v0
  repeat' first
    | with_reducible assumption
    | simp only [keep_mk]

theorem Stored.answer_keep {a : State} {v0 : Stored} {v1 : State} {v2 : Nat} {v3 : Requester} (h : Keep a v1) : Keep a (Stored.answer v0 v1 v2 v3) := by
  unfold Stored.answer
  (try dsimp only)
  repeat' first
    | with_reducible assumption
    | with_reducible apply State.ackTo_keep
    | split

theorem execMemoryWrite_keep {i : Nat} {chk : DramCheck} {s t : State} (e : execMemoryWrite i chk s = .next t) : Keep s t := by
  refine keep_next ?_ e
  have h := Keep.refl s
  split
  · have h1 := fun c who n => State.noteServed_keep (v1 := c) (v2 := who) (v3 := n) (State.unsend_keep (v1 := i) h)
    repeat' first
      | exact h
      | exact h1 _ _ _
      | exact State.ackTo_keep (h1 _ _ _)
      | exact Stored.answer_keep (State.writeBlock_keep (h1 _ _ _))
      | split
  · exact h

theorem execRegionEnable_keep {v0 : Nat} {v1 : Nat} {v2 : Word} {v3 : State} {t : State} (e : execRegionEnable v0 v1 v2 v3 = .next t) : Keep v3 t := by
  refine keep_next ?_ e
  have h := Keep.refl v3
  repeat' first
    | with_reducible assumption
    | simp only [keep_mk]
    | with_reducible refine keep_ite (fun _ => ?_) (fun _ => ?_)

theorem execWpmClear_keep {v0 : Nat} {v1 : ClearWrite} {v3 : State} {t : State} (e : execWpmClear v0 v1 v3 = .next t) : Keep v3 t := by
  refine keep_next ?_ e
  have h := Keep.refl v3
  repeat' first
    | with_reducible exact Keep.refl _
    | with_reducible apply State.clearChan_keep
    | with_reducible apply keep_foldl
    | simp only [keep_mk]
    | (intro _)
    | split

end Sys2Proof.Machine
end

