-- ==== Sys2Proof/Laws/KeepGrommet.lean ====
section
/-! SUPPORT. The relation Keep (Sys2Proof/Laws/Keep.lean) through the grommet's commands and the journal. -/

set_option linter.unusedVariables false
set_option linter.unusedSimpArgs false

namespace Sys2Proof.Machine

/-! ### Grommet -/

theorem State.collect_keep {a : State} {v0 : State} (h : Keep a v0) : Keep a (State.collect v0) := by
  unfold State.collect
  (try dsimp only)
  repeat' first
    | with_reducible assumption
    | simp only [keep_mk]
    | with_reducible refine keep_ite (fun _ => ?_) (fun _ => ?_)

theorem State.transmit_keep {a : State} {v0 : State} {v1 : Nat} {v2 : BitVec 128} {v3 : List Byte} (h : Keep a v0) : Keep a (State.transmit v0 v1 v2 v3) := by
  unfold State.transmit
  (try dsimp only)
  repeat' first
    | with_reducible assumption
    | with_reducible apply State.emit_keep
    | with_reducible apply State.modPort_keep

theorem State.sendFrame_keep {a : State} {v0 : State} {v1 : Nat} {v2 : BitVec 128} {v3 : List Byte} (h : Keep a v0) : Keep a (State.sendFrame v0 v1 v2 v3) := by
  unfold State.sendFrame
  (try dsimp only)
  repeat' first
    | with_reducible assumption
    | with_reducible apply State.transmit_keep
    | with_reducible apply State.modPort_keep

theorem State.pumpMq_keep {a s : State} {q n : Nat} (h : Keep a s) : Keep a (s.pumpMq q n) := by
  induction n generalizing s with
  | zero => exact h
  | succ n ih =>
    unfold State.pumpMq
    split
    · exact h
    · refine keep_ite (fun _ => h) fun _ => ih (keep_ite (fun _ => ?_) fun _ => ?_)
      · exact State.transmit_keep (State.modPort_keep h)
      · exact State.sendFrame_keep (State.modPort_keep h)

theorem State.sendMgmt_keep {a : State} {v0 : State} {v1 : Nat} {v2 : Nat} {v3 : Nat} {v4 : List Byte} (h : Keep a v0) : Keep a (State.sendMgmt v0 v1 v2 v3 v4) := by
  unfold State.sendMgmt
  (try dsimp only)
  repeat' first
    | with_reducible assumption
    | with_reducible apply State.modPort_keep
    | with_reducible apply State.pumpMq_keep

theorem State.tellAll_keep {a : State} {v0 : State} {v1 : Nat} {v2 : List Byte} (h : Keep a v0) : Keep a (State.tellAll v0 v1 v2) := by
  unfold State.tellAll
  (try dsimp only)
  repeat' first
    | with_reducible assumption
    | with_reducible exact Keep.refl _
    | with_reducible apply State.sendMgmt_keep
    | with_reducible refine keep_ite (fun _ => ?_) (fun _ => ?_)
    | with_reducible apply keep_foldl
    | (intro _)
    | split

theorem State.reportChange_keep {a : State} {v0 : State} (h : Keep a v0) : Keep a (State.reportChange v0) := by
  unfold State.reportChange
  (try dsimp only)
  repeat' first
    | with_reducible assumption
    | with_reducible apply State.collect_keep
    | with_reducible apply State.tellAll_keep
    | simp only [keep_mk]

theorem State.train_keep {a : State} {v0 : State} {v1 : Nat} (h : Keep a v0) : Keep a (State.train v0 v1) := by
  unfold State.train
  (try dsimp only)
  repeat' first
    | with_reducible assumption
    | with_reducible apply State.reportChange_keep
    | with_reducible apply State.modPort_keep
    | split

theorem State.linkFail_keep {a : State} {v0 : State} {v1 : Nat} {v2 : Bool} (h : Keep a v0) : Keep a (State.linkFail v0 v1 v2) := by
  unfold State.linkFail
  (try dsimp only)
  repeat' first
    | with_reducible assumption
    | with_reducible apply State.modPort_keep
    | with_reducible apply State.logLink_keep
    | with_reducible apply State.train_keep
    | with_reducible apply State.reportChange_keep
    | with_reducible refine keep_ite (fun _ => ?_) (fun _ => ?_)

theorem State.accept_keep {a : State} {v0 : State} {v1 : Nat} {v2 : WireFrame} {v3 : Option Nat} (h : Keep a v0) : Keep a (State.accept v0 v1 v2 v3) := by
  unfold State.accept
  (try dsimp only)
  repeat' first
    | with_reducible assumption
    | with_reducible apply State.emit_keep
    | with_reducible apply State.modPort_keep

theorem State.took_keep {a : State} {v0 : State} {v1 : Nat} {v2 : WireFrame} (h : Keep a v0) : Keep a (State.took v0 v1 v2) := by
  unfold State.took
  (try dsimp only)
  repeat' first
    | with_reducible assumption
    | with_reducible apply State.accept_keep

theorem State.onFrame_keep {a : State} {v0 : State} {v1 : Nat} {v2 : WireFrame} {v3 : List Nat} {v4 : State → List Byte → State} (hfv4 : ∀ x0 x1, Keep a x0 → Keep a (v4 x0 x1)) (h : Keep a v0) : Keep a (State.onFrame v0 v1 v2 v3 v4) := by
  unfold State.onFrame
  (try dsimp only)
  repeat' first
    | with_reducible assumption
    | with_reducible apply hfv4
    | with_reducible apply State.linkFail_keep
    | with_reducible apply State.took_keep
    | split

theorem State.withPend_keep {a : State} {v0 : State} {v1 : Nat} {v2 : Tab PendFrame} (h : Keep a v0) : Keep a (State.withPend v0 v1 v2) := by
  unfold State.withPend
  (try dsimp only)
  repeat' first
    | with_reducible assumption
    | simp only [keep_mk]

theorem State.answer_keep {a : State} {v0 : State} {v1 : Nat} {v2 : Nat} {v3 : PendFrame} {v4 : List Byte} {v5 : Nat} (h : Keep a v0) : Keep a (State.answer v0 v1 v2 v3 v4 v5) := by
  unfold State.answer
  (try dsimp only)
  repeat' first
    | with_reducible assumption
    | with_reducible apply State.withPend_keep
    | with_reducible apply State.respond_keep
    | with_reducible apply State.ackTo_keep
    | simp only [keep_mk]
    | split

theorem State.takeReply_keep {a : State} {v0 : State} {v1 : Nat} {v2 : WireFrame} {v3 : Bool} {v4 : List Byte} {v5 : Nat} (h : Keep a v0) : Keep a (State.takeReply v0 v1 v2 v3 v4 v5) := by
  unfold State.takeReply
  (try dsimp only)
  repeat' first
    | with_reducible assumption
    | with_reducible apply State.answer_keep
    | with_reducible refine keep_ite (fun _ => ?_) (fun _ => ?_)
    | split

theorem execWrAck_keep {v0 : Nat} {v1 : WireFrame} {v2 : State} {t : State} (e : execWrAck v0 v1 v2 = .next t) : Keep v2 t := by
  refine keep_next ?_ e
  have h := Keep.refl v2
  repeat' first
    | with_reducible assumption
    | with_reducible apply State.onFrame_keep
    | with_reducible apply State.takeReply_keep
    | (intro _)
    | split

theorem State.moveOn_keep {a s : State} {p k n : Nat} (h : Keep a s) : Keep a (s.moveOn p k n) := by
  induction n generalizing s with
  | zero => exact h
  | succ n ih =>
    unfold State.moveOn
    dsimp only
    split
    · exact h
    · split
      · exact ih (State.emit_keep (State.modPort_keep h))
      · exact keep_ite (fun _ => ih (State.sendFrame_keep (State.emit_keep (State.modPort_keep h)))) fun _ => h

theorem State.logFrame_keep {a : State} {v0 : State} {v1 : Nat} {v2 : Nat} {v3 : WireFrame} (h : Keep a v0) : Keep a (State.logFrame v0 v1 v2 v3) := by
  unfold State.logFrame
  (try dsimp only)
  repeat' first
    | with_reducible assumption
    | with_reducible apply State.logEv_keep

theorem State.endFrame_keep {a : State} {v0 : State} {v1 : Nat} {v2 : Nat} {v3 : PendFrame} (h : Keep a v0) : Keep a (State.endFrame v0 v1 v2 v3) := by
  unfold State.endFrame
  (try dsimp only)
  repeat' first
    | with_reducible assumption
    | with_reducible apply State.withPend_keep
    | with_reducible apply State.respond_keep
    | with_reducible apply State.ackTo_keep
    | split

theorem State.moveAll_keep {a : State} {v0 : State} (h : Keep a v0) : Keep a (State.moveAll v0) := by
  unfold State.moveAll
  (try dsimp only)
  repeat' first
    | with_reducible assumption
    | with_reducible exact Keep.refl _
    | with_reducible apply State.moveOn_keep
    | with_reducible apply keep_foldl
    | (intro _)

theorem State.applyEpoch_keep {a : State} {v0 : State} {v1 : EpochRec} (h : Keep a v0) : Keep a (State.applyEpoch v0 v1) := by
  unfold State.applyEpoch
  (try dsimp only)
  repeat' first
    | with_reducible assumption
    | with_reducible exact Keep.refl _
    | with_reducible apply State.endFrame_keep
    | with_reducible apply State.slotApply_keep
    | with_reducible apply State.endTask_keep
    | with_reducible apply State.retire_keep
    | with_reducible apply State.irq_keep
    | with_reducible apply State.settleTurns_keep
    | with_reducible apply State.moveAll_keep
    | with_reducible apply keep_foldl
    | simp only [keep_mk]
    | (intro _)
    | split

theorem execEpochIssue_keep {v0 : State} {t : State} (e : execEpochIssue v0 = .next t) : Keep v0 t := by
  refine keep_next ?_ e
  have h := Keep.refl v0
  repeat' first
    | with_reducible assumption
    | with_reducible apply State.applyEpoch_keep
    | with_reducible apply State.tellAll_keep
    | simp only [keep_mk]
    | with_reducible refine keep_ite (fun _ => ?_) (fun _ => ?_)

theorem State.injectOne_keep {a : State} {v0 : State} {v1 : Nat} {v2 : Nat} {v3 : Nat} {v4 : Option Requester} {v5 : Inject} (h : Keep a v0) : Keep a (State.injectOne v0 v1 v2 v3 v4 v5) := by
  unfold State.injectOne
  (try dsimp only)
  repeat' first
    | with_reducible assumption
    | with_reducible apply State.sendFrame_keep
    | simp only [keep_mk]
    | split

theorem State.logDamage_keep {a : State} {v0 : State} {v1 : Nat} {v2 : Nat} {v3 : WireFrame} (h : Keep a v0) : Keep a (State.logDamage v0 v1 v2 v3) := by
  unfold State.logDamage
  (try dsimp only)
  repeat' first
    | with_reducible assumption
    | with_reducible apply State.logEv_keep

theorem execRdRsp_keep {v0 : Nat} {v1 : WireFrame} {v2 : State} {t : State} (e : execRdRsp v0 v1 v2 = .next t) : Keep v2 t := by
  refine keep_next ?_ e
  have h := Keep.refl v2
  repeat' first
    | with_reducible assumption
    | with_reducible apply State.onFrame_keep
    | with_reducible apply State.takeReply_keep
    | with_reducible apply State.logDamage_keep
    | (intro _)
    | split
    | simp only [Issued.st_wait, Issued.st_stop, Issued.st_go, Issued.st_jump, Prep.st_bad, Prep.st_hold, Prep.st_ok]

theorem execReplyTimeout_keep {v0 : Nat} {v1 : State} {t : State} (e : execReplyTimeout v0 v1 = .next t) : Keep v1 t := by
  refine keep_next ?_ e
  have h := Keep.refl v1
  repeat' first
    | with_reducible exact Keep.refl _
    | with_reducible apply State.endFrame_keep
    | split

theorem State.portCtl_keep {a : State} {v0 : State} {v1 : Nat} {v2 : Nat} {v3 : Word} (h : Keep a v0) : Keep a (State.portCtl v0 v1 v2 v3) := by
  unfold State.portCtl
  (try dsimp only)
  repeat' first
    | with_reducible assumption
    | with_reducible apply State.logDrop_keep
    | with_reducible apply State.modPort_keep
    | with_reducible apply State.train_keep
    | with_reducible apply State.reportChange_keep
    | with_reducible apply State.linkFail_keep
    | split

theorem execPortRetrain_keep {v0 : Nat} {v1 : Nat} {v2 : Word} {v3 : State} {t : State} (e : execPortRetrain v0 v1 v2 v3 = .next t) : Keep v3 t := by
  refine keep_next ?_ e
  have h := Keep.refl v3
  repeat' first
    | with_reducible assumption
    | with_reducible apply State.portCtl_keep
    | with_reducible refine keep_ite (fun _ => ?_) (fun _ => ?_)

theorem State.verdictOr_keep {a : State} {v0 : State} {v1 : BitVec 16} {v2 : Option Word} {v3 : Option Word} {v4 : Nat} {v5 : Nat} {v6 : Nat} {v7 : Nat} (h : Keep a v0) : Keep a (State.verdictOr v0 v1 v2 v3 v4 v5 v6 v7) := by
  unfold State.verdictOr
  (try dsimp only)
  repeat' first
    | with_reducible assumption
    | with_reducible apply State.logEv_keep
    | with_reducible refine State.takeVerdict_keep ?_ (by assumption)
    | with_reducible apply keep_getD
    | (intro _)
    | split

theorem execVerdict_keep {v0 : VerdictSrc} {v1 : State} {t : State} (e : execVerdict v0 v1 = .next t) : Keep v1 t := by
  refine keep_next ?_ e
  have h := Keep.refl v1
  repeat' first
    | with_reducible assumption
    | with_reducible apply State.verdictOr_keep
    | with_reducible apply State.unsend_keep
    | with_reducible apply State.onFrame_keep
    | (intro _)
    | split

theorem State.tellNew_keep {a : State} {v0 : State} {v1 : Nat} {v2 : Nat} {v3 : Nat} {v4 : List Byte} (h : Keep a v0) : Keep a (State.tellNew v0 v1 v2 v3 v4) := by
  unfold State.tellNew
  (try dsimp only)
  repeat' first
    | with_reducible assumption
    | with_reducible exact Keep.refl _
    | with_reducible apply State.sendMgmt_keep
    | with_reducible apply keep_foldl
    | (intro _)

theorem execChange_keep {v0 : Nat} {v1 : WireFrame} {v2 : State} {t : State} (e : execChange v0 v1 v2 = .next t) : Keep v2 t := by
  refine keep_next ?_ e
  have h := Keep.refl v2
  repeat' first
    | with_reducible assumption
    | with_reducible apply State.onFrame_keep
    | with_reducible apply State.collect_keep
    | with_reducible apply State.tellNew_keep
    | simp only [keep_mk]
    | (intro _)
    | split

theorem State.drainPort_keep {a : State} {v0 : State} {v1 : Nat} (h : Keep a v0) : Keep a (State.drainPort v0 v1) := by
  unfold State.drainPort
  (try dsimp only)
  repeat' first
    | with_reducible assumption
    | with_reducible apply State.linkFail_keep
    | with_reducible refine keep_ite (fun _ => ?_) (fun _ => ?_)

theorem execWr_keep {v0 : Nat} {v1 : WireFrame} {v2 : State} {t : State} (e : execWr v0 v1 v2 = .next t) : Keep v2 t := by
  refine keep_next ?_ e
  have h := Keep.refl v2
  repeat' first
    | with_reducible assumption
    | with_reducible apply State.onFrame_keep
    | with_reducible apply State.ackTo_keep
    | with_reducible apply State.logDamage_keep
    | with_reducible apply State.send_keep
    | with_reducible apply State.dramWrite_keep
    | (intro _)
    | split
    | simp only [Issued.st_wait, Issued.st_stop, Issued.st_go, Issued.st_jump, Prep.st_bad, Prep.st_hold, Prep.st_ok]

theorem execEpoch_keep {v0 : Nat} {v1 : WireFrame} {v2 : State} {t : State} (e : execEpoch v0 v1 v2 = .next t) : Keep v2 t := by
  refine keep_next ?_ e
  have h := Keep.refl v2
  repeat' first
    | with_reducible assumption
    | with_reducible apply State.onFrame_keep
    | with_reducible apply State.applyEpoch_keep
    | with_reducible apply State.tellNew_keep
    | (intro _)
    | split
    | simp only [Issued.st_wait, Issued.st_stop, Issued.st_go, Issued.st_jump, Prep.st_bad, Prep.st_hold, Prep.st_ok]

theorem execLinkDown_keep {v0 : Nat} {v1 : DownCause} {v2 : State} {t : State} (e : execLinkDown v0 v1 v2 = .next t) : Keep v2 t := by
  refine keep_next ?_ e
  have h := Keep.refl v2
  repeat' first
    | with_reducible assumption
    | with_reducible apply State.linkFail_keep
    | simp only [keep_mk]
    | with_reducible refine keep_ite (fun _ => ?_) (fun _ => ?_)
    | split

theorem execHello_keep {v0 : Nat} {v1 : WireFrame} {v2 : State} {t : State} (e : execHello v0 v1 v2 = .next t) : Keep v2 t := by
  refine keep_next ?_ e
  have h := Keep.refl v2
  repeat' first
    | with_reducible assumption
    | with_reducible exact Keep.refl _
    | with_reducible apply State.onFrame_keep
    | with_reducible apply State.modPort_keep
    | with_reducible apply State.reportChange_keep
    | with_reducible apply State.logFrame_keep
    | with_reducible apply State.emit_keep
    | with_reducible apply State.sendMgmt_keep
    | with_reducible apply keep_foldl
    | simp only [keep_mk]
    | (intro _)
    | split

theorem execCredit_keep {v0 : Nat} {v1 : WireFrame} {v2 : State} {t : State} (e : execCredit v0 v1 v2 = .next t) : Keep v2 t := by
  refine keep_next ?_ e
  have h := Keep.refl v2
  repeat' first
    | with_reducible assumption
    | with_reducible apply State.onFrame_keep
    | with_reducible apply State.send_keep
    | (intro _)
    | split
    | simp only [Issued.st_wait, Issued.st_stop, Issued.st_go, Issued.st_jump, Prep.st_bad, Prep.st_hold, Prep.st_ok]

theorem State.announce_keep {a : State} {v0 : State} (h : Keep a v0) : Keep a (State.announce v0) := by
  unfold State.announce
  (try dsimp only)
  repeat' first
    | with_reducible assumption
    | with_reducible apply State.reportChange_keep
    | with_reducible refine keep_ite (fun _ => ?_) (fun _ => ?_)

theorem execSlot_keep {v0 : Nat} {v1 : WireFrame} {v2 : State} {t : State} (e : execSlot v0 v1 v2 = .next t) : Keep v2 t := by
  refine keep_next ?_ e
  have h := Keep.refl v2
  repeat' first
    | with_reducible assumption
    | with_reducible apply State.onFrame_keep
    | with_reducible apply State.ackTo_keep
    | with_reducible apply State.logDamage_keep
    | with_reducible apply State.send_keep
    | (intro _)
    | split
    | simp only [Issued.st_wait, Issued.st_stop, Issued.st_go, Issued.st_jump, Prep.st_bad, Prep.st_hold, Prep.st_ok]

theorem execFrameDiscard_keep {v0 : Nat} {v1 : WireFrame} {v2 : State} {t : State} (e : execFrameDiscard v0 v1 v2 = .next t) : Keep v2 t := by
  refine keep_next ?_ e
  have h := Keep.refl v2
  repeat' first
    | with_reducible exact Keep.refl _
    | with_reducible apply State.emit_keep
    | with_reducible apply State.modPort_keep
    | with_reducible apply State.logFrame_keep
    | with_reducible apply State.took_keep
    | with_reducible apply State.linkFail_keep
    | split

theorem execLinkNak_keep {v0 : Nat} {v1 : BitVec 12} {v2 : State} {t : State} (e : execLinkNak v0 v1 v2 = .next t) : Keep v2 t := by
  refine keep_next ?_ e
  have h := Keep.refl v2
  repeat' first
    | with_reducible assumption
    | with_reducible exact Keep.refl _
    | with_reducible apply State.linkFail_keep
    | with_reducible apply State.emit_keep
    | with_reducible apply State.modPort_keep
    | simp only [keep_mk]
    | with_reducible refine keep_ite (fun _ => ?_) (fun _ => ?_)
    | with_reducible apply keep_foldl
    | (intro _)
    | split

theorem execRdReq_keep {v0 : Nat} {v1 : WireFrame} {v2 : State} {t : State} (e : execRdReq v0 v1 v2 = .next t) : Keep v2 t := by
  refine keep_next ?_ e
  have h := Keep.refl v2
  repeat' first
    | with_reducible assumption
    | with_reducible apply State.onFrame_keep
    | with_reducible apply State.send_keep
    | with_reducible apply State.respond_keep
    | (intro _)
    | split

theorem execLinkTrained_keep {v0 : Nat} {v1 : State} {t : State} (e : execLinkTrained v0 v1 = .next t) : Keep v1 t := by
  refine keep_next ?_ e
  have h := Keep.refl v1
  repeat' first
    | with_reducible exact Keep.refl _
    | with_reducible apply State.modPort_keep
    | with_reducible apply State.reportChange_keep
    | with_reducible apply State.sendMgmt_keep
    | split
    | simp only [Issued.st_wait, Issued.st_stop, Issued.st_go, Issued.st_jump, Prep.st_bad, Prep.st_hold, Prep.st_ok]

theorem execPortEnable_keep {v0 : Nat} {v1 : Nat} {v2 : Word} {v3 : State} {t : State} (e : execPortEnable v0 v1 v2 v3 = .next t) : Keep v3 t := by
  refine keep_next ?_ e
  have h := Keep.refl v3
  repeat' first
    | with_reducible assumption
    | with_reducible apply State.portCtl_keep

theorem execFrameInject_keep {v0 : Nat} {v1 : State} {t : State} (e : execFrameInject v0 v1 = .next t) : Keep v1 t := by
  refine keep_next ?_ e
  have h := Keep.refl v1
  repeat' first
    | with_reducible assumption
    | with_reducible exact Keep.refl _
    | with_reducible apply State.unsend_keep
    | with_reducible apply State.respond_keep
    | with_reducible apply State.ackTo_keep
    | with_reducible apply State.injectOne_keep
    | simp only [keep_mk]
    | with_reducible refine keep_ite (fun _ => ?_) (fun _ => ?_)
    | with_reducible apply keep_foldl
    | (intro _)
    | split

theorem execLinkAck_keep {v0 : Nat} {v1 : BitVec 12} {v2 : List Nat} {v3 : State} {t : State} (e : execLinkAck v0 v1 v2 v3 = .next t) : Keep v3 t := by
  refine keep_next ?_ e
  have h := Keep.refl v3
  repeat' first
    | with_reducible exact Keep.refl _
    | with_reducible apply State.modPort_keep
    | with_reducible apply State.drainPort_keep
    | with_reducible apply State.moveAll_keep
    | with_reducible apply State.pumpMq_keep
    | split
    | simp only [Issued.st_wait, Issued.st_stop, Issued.st_go, Issued.st_jump, Prep.st_bad, Prep.st_hold, Prep.st_ok]

theorem execFrameForward_keep {v0 : Nat} {v1 : WireFrame} {v2 : State} {t : State} (e : execFrameForward v0 v1 v2 = .next t) : Keep v2 t := by
  refine keep_next ?_ e
  have h := Keep.refl v2
  repeat' first
    | with_reducible exact Keep.refl _
    | with_reducible apply State.linkFail_keep
    | with_reducible apply State.modPort_keep
    | with_reducible apply State.accept_keep
    | with_reducible apply State.moveOn_keep
    | split

/-! ### Journal -/

theorem State.commit_keep {a : State} {v0 : State} {v1 : List (Nat × List Byte)} (h : Keep a v0) : Keep a (State.commit v0 v1) := by
  unfold State.commit
  (try dsimp only)
  repeat' first
    | with_reducible assumption
    | simp only [keep_mk]

theorem State.compact_keep {a : State} {v0 : State} (h : Keep a v0) : Keep a (State.compact v0) := by
  unfold State.compact
  (try dsimp only)
  repeat' first
    | with_reducible assumption
    | with_reducible apply State.commit_keep
    | simp only [keep_mk]

end Sys2Proof.Machine
end

