-- ==== Sys2Proof/Laws/KeepService.lean ====
section
/-! SUPPORT. The relation Keep (Sys2Proof/Laws/Keep.lean) through the service controller's commands, the registers and PCIe. -/

set_option linter.unusedVariables false
set_option linter.unusedSimpArgs false

namespace Sys2Proof.Machine

/-! ### Rigs -/

theorem State.rigReport_keep {a : State} {v0 : State} {v1 : ImgErr} (h : Keep a v0) : Keep a (State.rigReport v0 v1) := by
  unfold State.rigReport
  (try dsimp only)
  repeat' first
    | with_reducible assumption
    | with_reducible apply State.irq_keep
    | simp only [keep_mk]
    | with_reducible refine keep_ite (fun _ => ?_) (fun _ => ?_)

theorem State.rigEnd_keep {a : State} {v0 : State} {v1 : ImgErr} (h : Keep a v0) : Keep a (State.rigEnd v0 v1) := by
  unfold State.rigEnd
  (try dsimp only)
  repeat' first
    | with_reducible assumption
    | with_reducible apply State.rigReport_keep
    | simp only [keep_mk]

theorem State.trainChan_keep {a : State} {v0 : State} {v1 : Nat} {v2 : TrainResult} {v3 : Bool} (h : Keep a v0) : Keep a (State.trainChan v0 v1 v2 v3) := by
  unfold State.trainChan
  (try dsimp only)
  repeat' first
    | with_reducible assumption
    | with_reducible apply State.modChan_keep
    | with_reducible apply State.setPd_keep

theorem State.trainNext_keep {a : State} {v0 : State} {v1 : SourceIo} (h : Keep a v0) : Keep a (State.trainNext v0 v1).1 := by
  unfold State.trainNext
  (try dsimp only)
  repeat' first
    | with_reducible assumption
    | with_reducible exact Keep.refl _
    | with_reducible apply State.trainChan_keep
    | with_reducible apply keep_foldl
    | simp only [keep_mk]
    | (intro _)
    | split
theorem State.trainNext_keepe {a : State} {v0 : State} {v1 : SourceIo} {z w} (h : Keep a v0) (e : State.trainNext v0 v1 = (z, w)) : Keep a z := by
  have k := State.trainNext_keep (v0 := v0) (v1 := v1) h
  rw [e] at k
  exact k

theorem State.startWhole_keep {a : State} {v0 : State} {v1 : Option Bool} {v2 : SourceIo} {v3 : Rig × List Nat × List Nat} (h : Keep a v0) : Keep a (State.startWhole v0 v1 v2 v3) := by
  unfold State.startWhole
  (try dsimp only)
  repeat' first
    | with_reducible assumption
    | with_reducible apply State.trainNext_keep
    | simp only [keep_mk]

theorem State.markShadow_keep {a : State} {v0 : State} (h : Keep a v0) : Keep a (State.markShadow v0) := by
  unfold State.markShadow
  (try dsimp only)
  repeat' first
    | with_reducible assumption
    | with_reducible exact Keep.refl _
    | with_reducible apply State.modChan_keep
    | with_reducible apply keep_foldl
    | (intro _)

theorem execJournalCompaction_keep {v0 : Bool} {v1 : State} {t : State} (e : execJournalCompaction v0 v1 = .next t) : Keep v1 t := by
  refine keep_next ?_ e
  have h := Keep.refl v1
  repeat' first
    | with_reducible assumption
    | with_reducible apply State.compact_keep
    | with_reducible refine keep_ite (fun _ => ?_) (fun _ => ?_)

theorem State.activateSlot_keep {a : State} {v0 : State} {v1 : Bool} {v2 : SourceIo} (h : Keep a v0) : Keep a (State.activateSlot v0 v1 v2) := by
  unfold State.activateSlot
  (try dsimp only)
  repeat' first
    | with_reducible assumption
    | with_reducible apply State.rigReport_keep
    | with_reducible apply State.commit_keep
    | with_reducible apply State.startWhole_keep
    | with_reducible refine keep_ite (fun _ => ?_) (fun _ => ?_)
    | split

theorem State.rigCmd_keep {a : State} {v0 : State} {v1 : Nat} {v2 : Word} {v3 : Nat} {v4 : Bool} {v5 : State → State} (hf : ∀ x, Keep a x → Keep a (v5 x)) (h : Keep a v0) : Keep a (State.rigCmd v0 v1 v2 v3 v4 v5) := by
  unfold State.rigCmd
  (try dsimp only)
  repeat' first
    | with_reducible assumption
    | with_reducible apply hf
    | with_reducible apply State.rigReport_keep
    | with_reducible refine keep_ite (fun _ => ?_) (fun _ => ?_)

theorem State.source_keep {a : State} {v0 : State} {v1 : SourceIo} {v2 : Nat} {t} (h : Keep a v0) (e : State.source v0 v1 v2 = some t) : Keep a t.1 := by
  unfold State.source at e
  (try dsimp only at e)
  (repeat' split at e) <;> (try cases e)
  repeat' first
    | with_reducible assumption
    | with_reducible apply State.devRead_keep
theorem State.source_keepe {a : State} {v0 : State} {v1 : SourceIo} {v2 : Nat} {z w} (h : Keep a v0) (e : State.source v0 v1 v2 = some (z, w)) : Keep a z := State.source_keep  h e

theorem State.withSource_keep {a : State} {v0 : State} {v1 : SourceIo} {v2 : State → List Byte → State} (hf : ∀ x l, Keep a x → Keep a (v2 x l)) (h : Keep a v0) : Keep a (State.withSource v0 v1 v2) := by
  unfold State.withSource
  (try dsimp only)
  repeat' first
    | with_reducible assumption
    | with_reducible apply hf
    | with_reducible apply State.rigReport_keep
    | with_reducible refine State.source_keepe ?_ (by assumption)
    | with_reducible refine keep_ite (fun _ => ?_) (fun _ => ?_)
    | split

theorem execLoad_keep {v0 : Nat} {v1 : Word} {v2 : SourceIo} {v3 : State} {t : State} (e : execLoad v0 v1 v2 v3 = .next t) : Keep v3 t := by
  refine keep_next ?_ e
  have h := Keep.refl v3
  repeat' first
    | with_reducible assumption
    | with_reducible apply State.rigCmd_keep
    | with_reducible apply State.withSource_keep
    | with_reducible apply State.rigReport_keep
    | with_reducible apply State.startWhole_keep
    | (intro _)
    | split

theorem State.endFillers_keep {a : State} {v0 : State} {v1 : Nat} (h : Keep a v0) : Keep a (State.endFillers v0 v1) := by
  unfold State.endFillers
  (try dsimp only)
  repeat' first
    | with_reducible assumption
    | with_reducible exact Keep.refl _
    | with_reducible apply State.endTask_keep
    | with_reducible refine keep_ite (fun _ => ?_) (fun _ => ?_)
    | with_reducible apply keep_foldl
    | (intro _)
    | split

theorem State.startClock_keep {a : State} {v0 : State} {v1 : Nat} (h : Keep a v0) : Keep a (State.startClock v0 v1) := by
  unfold State.startClock
  (try dsimp only)
  repeat' first
    | with_reducible assumption
    | with_reducible apply State.modTile_keep

theorem State.tileOn_keep {a : State} {v0 : State} {v1 : Nat} (h : Keep a v0) : Keep a (State.tileOn v0 v1) := by
  unfold State.tileOn
  (try dsimp only)
  repeat' first
    | with_reducible assumption
    | with_reducible apply State.startClock_keep
    | with_reducible apply State.setPd_keep
    | with_reducible apply State.modTile_keep
    | split

theorem State.writeStore_keep {a : State} {v0 : State} {v1 : Rig} {v2 : Nat} (h : Keep a v0) : Keep a (State.writeStore v0 v1 v2) := by
  unfold State.writeStore
  (try dsimp only)
  repeat' first
    | with_reducible assumption
    | with_reducible apply State.modTile_keep

theorem State.modified_keep {a : State} {v0 : State} (h : Keep a v0) : Keep a (State.modified v0) := by
  unfold State.modified
  (try dsimp only)
  repeat' first
    | with_reducible assumption
    | simp only [keep_mk]

theorem State.loadHitch_keep {a : State} {v0 : State} {v1 : Rig} {v2 : Nat} (h : Keep a v0) : Keep a (State.loadHitch v0 v1 v2) := by
  unfold State.loadHitch
  (try dsimp only)
  repeat' first
    | with_reducible assumption
    | with_reducible apply State.resetHitch_keep
    | with_reducible apply State.setHitch_keep

theorem State.finishLay_keep {a : State} {v0 : State} {v1 : DrainSt} {v2 : Nat} (h : Keep a v0) : Keep a (State.finishLay v0 v1 v2) := by
  unfold State.finishLay
  (try dsimp only)
  repeat' first
    | with_reducible assumption
    | with_reducible exact Keep.refl _
    | with_reducible apply State.endFillers_keep
    | with_reducible apply State.tileOn_keep
    | with_reducible apply State.markShadow_keep
    | with_reducible apply State.writeStore_keep
    | with_reducible apply State.settleTurns_keep
    | with_reducible apply State.rigEnd_keep
    | with_reducible apply State.modified_keep
    | with_reducible apply State.loadHitch_keep
    | with_reducible apply keep_foldl
    | simp only [keep_mk]
    | (intro _)

theorem State.finishTile_keep {a : State} {v0 : State} {v1 : DrainSt} {v2 : Nat} (h : Keep a v0) : Keep a (State.finishTile v0 v1 v2) := by
  unfold State.finishTile
  (try dsimp only)
  repeat' first
    | with_reducible assumption
    | with_reducible apply State.settleTurns_keep
    | with_reducible apply State.rigEnd_keep
    | with_reducible apply State.modified_keep
    | with_reducible apply State.writeStore_keep
    | simp only [keep_mk]

theorem State.applyBanks_keep {a : State} {v0 : State} {v1 : Nat} (h : Keep a v0) : Keep a (State.applyBanks v0 v1) := by
  unfold State.applyBanks
  (try dsimp only)
  repeat' first
    | with_reducible assumption
    | with_reducible apply State.modTile_keep
    | with_reducible refine keep_ite (fun _ => ?_) (fun _ => ?_)

theorem State.applySet_keep {a : State} {v0 : State} {v1 : BitVec 2} {v2 : BitVec 2} {v3 : BitVec 2} (h : Keep a v0) : Keep a (State.applySet v0 v1 v2 v3) := by
  unfold State.applySet
  (try dsimp only)
  repeat' first
    | with_reducible assumption
    | with_reducible exact Keep.refl _
    | with_reducible apply State.modChan_keep
    | with_reducible apply State.setPd_keep
    | simp only [keep_mk]
    | with_reducible refine keep_ite (fun _ => ?_) (fun _ => ?_)
    | with_reducible apply keep_foldl
    | (intro _)

theorem State.refuseIllegalSet_keep {a : State} {v0 : State} (h : Keep a v0) : Keep a (State.refuseIllegalSet v0) := by
  unfold State.refuseIllegalSet
  (try dsimp only)
  repeat' first
    | with_reducible assumption
    | simp only [keep_mk]
    | with_reducible refine keep_ite (fun _ => ?_) (fun _ => ?_)

theorem State.serve_keep {a s : State} (h : Keep a s) : Keep a s.serve := by
  unfold State.serve
  refine keep_ite (fun _ => h) fun hs => ?_
  exact State.settleTurns_keep (State.announce_keep (State.setDev_keep h fun e => absurd e hs))

theorem State.applyLines_keep {a : State} {v0 : State} {v1 : Nat} (h : Keep a v0) : Keep a (State.applyLines v0 v1) := by
  unfold State.applyLines
  (try dsimp only)
  repeat' first
    | with_reducible assumption
    | with_reducible apply State.modTile_keep
    | with_reducible refine keep_ite (fun _ => ?_) (fun _ => ?_)

theorem State.rebuildMaps_keep {a : State} {v0 : State} (h : Keep a v0) : Keep a (State.rebuildMaps v0) := by
  unfold State.rebuildMaps
  (try dsimp only)
  repeat' first
    | with_reducible assumption
    | with_reducible exact Keep.refl _
    | with_reducible apply State.applyLines_keep
    | with_reducible apply State.applyBanks_keep
    | with_reducible apply keep_foldl
    | (intro _)

theorem State.tileOff_keep {a : State} {v0 : State} {v1 : Nat} (h : Keep a v0) : Keep a (State.tileOff v0 v1) := by
  unfold State.tileOff
  (try dsimp only)
  repeat' first
    | with_reducible assumption
    | with_reducible apply State.setPd_keep
    | with_reducible apply State.modTile_keep

theorem State.tileDomains_keep {a : State} {v0 : State} {v1 : Rig} (h : Keep a v0) : Keep a (State.tileDomains v0 v1) := by
  unfold State.tileDomains
  (try dsimp only)
  repeat' first
    | with_reducible assumption
    | with_reducible exact Keep.refl _
    | with_reducible apply State.tileOff_keep
    | with_reducible apply State.modTile_keep
    | with_reducible apply State.tileOn_keep
    | with_reducible apply keep_foldl
    | (intro _)
    | split

theorem keep_rigWord {a x : State} {v : Svc} {p q : Bool} {n : Nat} (h : Keep a x) :
    Keep a { x with svc := v, glb := { x.glb with degRig := p, degChan := q, avail := n } } := by
  simp only [keep_mk]; exact h
theorem State.writeRig_keep {a s : State} {slot : Option Bool} {r : Rig} {phys role : List Nat} (h : Keep a s) :
    Keep a (s.writeRig slot r phys role) := by
  unfold State.writeRig
  extract_lets s1 s2 s3 s4 out
  have h1 : Keep a s1 := (keep_mk rfl rfl rfl).2 h
  have h2 : Keep a s2 := State.markShadow_keep (State.rebuildMaps_keep (State.tileDomains_keep h1))
  have h3 : Keep a s3 := keep_foldl ((keep_mk rfl rfl rfl).2 h2) fun b _ => State.writeStore_keep (Keep.refl b)
  have h4 : Keep a s4 := keep_foldl h3 fun b _ => State.loadHitch_keep (Keep.refl b)
  exact keep_rigWord h4

theorem State.finishWhole_keep {a : State} {v0 : State} {v1 : DrainSt} {v2 : Option Bool} {v3 : Bool} (h : Keep a v0) : Keep a (State.finishWhole v0 v1 v2 v3) := by
  unfold State.finishWhole
  (try dsimp only)
  repeat' first
    | with_reducible assumption
    | with_reducible apply State.applySet_keep
    | with_reducible apply State.refuseIllegalSet_keep
    | with_reducible apply State.serve_keep
    | with_reducible apply State.writeRig_keep
    | with_reducible apply State.settleTurns_keep
    | with_reducible apply State.rigEnd_keep
    | with_reducible apply State.commit_keep
    | split

theorem execDrainEnd_keep {v0 : Bool} {v1 : State} {t : State} (e : execDrainEnd v0 v1 = .next t) : Keep v1 t := by
  refine keep_next ?_ e
  have h := Keep.refl v1
  repeat' first
    | with_reducible assumption
    | with_reducible apply State.finishWhole_keep
    | with_reducible apply State.finishLay_keep
    | with_reducible apply State.finishTile_keep
    | with_reducible refine keep_ite (fun _ => ?_) (fun _ => ?_)
    | split

theorem State.storeSlot_keep {a : State} {v0 : State} {v1 : Bool} {v2 : List Byte} {v3 : Bool} (h : Keep a v0) : Keep a (State.storeSlot v0 v1 v2 v3).1 := by
  unfold State.storeSlot
  (try dsimp only)
  repeat' first
    | with_reducible assumption
    | with_reducible apply State.commit_keep
    | simp only [keep_mk]
    | split
theorem State.storeSlot_keepe {a : State} {v0 : State} {v1 : Bool} {v2 : List Byte} {v3 : Bool} {z w} (h : Keep a v0) (e : State.storeSlot v0 v1 v2 v3 = (z, w)) : Keep a z := by
  have k := State.storeSlot_keep (v0 := v0) (v1 := v1) (v2 := v2) (v3 := v3) h
  rw [e] at k
  exact k

theorem execWriteSlot_keep {v0 : Nat} {v1 : Word} {v2 : SourceIo} {v3 : State} {t : State} (e : execWriteSlot v0 v1 v2 v3 = .next t) : Keep v3 t := by
  refine keep_next ?_ e
  have h := Keep.refl v3
  repeat' first
    | with_reducible assumption
    | with_reducible apply State.rigCmd_keep
    | with_reducible apply State.rigReport_keep
    | with_reducible refine State.source_keepe ?_ (by assumption)
    | with_reducible apply State.storeSlot_keep
    | (intro _)
    | split
    | simp only [Issued.st_wait, Issued.st_stop, Issued.st_go, Issued.st_jump, Prep.st_bad, Prep.st_hold, Prep.st_ok]

theorem execRollback_keep {v0 : Nat} {v1 : Word} {v2 : SourceIo} {v3 : State} {t : State} (e : execRollback v0 v1 v2 v3 = .next t) : Keep v3 t := by
  refine keep_next ?_ e
  have h := Keep.refl v3
  repeat' first
    | with_reducible assumption
    | with_reducible apply State.rigCmd_keep
    | with_reducible apply State.activateSlot_keep
    | (intro _)

theorem execReconfTile_keep {v0 : Nat} {v1 : Word} {v2 : SourceIo} {v3 : State} {t : State} (e : execReconfTile v0 v1 v2 v3 = .next t) : Keep v3 t := by
  refine keep_next ?_ e
  have h := Keep.refl v3
  repeat' first
    | with_reducible assumption
    | with_reducible apply State.rigCmd_keep
    | with_reducible apply State.withSource_keep
    | with_reducible apply State.rigReport_keep
    | with_reducible apply State.markShadow_keep
    | simp only [keep_mk]
    | (intro _)
    | split

theorem execSetBoot_keep {v0 : Nat} {v1 : Word} {v2 : SourceIo} {v3 : State} {t : State} (e : execSetBoot v0 v1 v2 v3 = .next t) : Keep v3 t := by
  refine keep_next ?_ e
  have h := Keep.refl v3
  repeat' first
    | with_reducible assumption
    | with_reducible apply State.rigCmd_keep
    | with_reducible apply State.rigReport_keep
    | with_reducible apply State.commit_keep
    | simp only [keep_mk]
    | with_reducible refine keep_ite (fun _ => ?_) (fun _ => ?_)
    | (intro _)

theorem execCompact_keep {v0 : Nat} {v1 : Word} {v2 : SourceIo} {v3 : State} {t : State} (e : execCompact v0 v1 v2 v3 = .next t) : Keep v3 t := by
  refine keep_next ?_ e
  have h := Keep.refl v3
  repeat' first
    | with_reducible assumption
    | with_reducible apply State.rigCmd_keep
    | with_reducible apply State.rigReport_keep
    | with_reducible apply State.compact_keep
    | with_reducible refine keep_ite (fun _ => ?_) (fun _ => ?_)
    | (intro _)

theorem execDrainLimit_keep {v0 : State} {t : State} (e : execDrainLimit v0 = .next t) : Keep v0 t := by
  refine keep_next ?_ e
  have h := Keep.refl v0
  repeat' first
    | with_reducible assumption
    | with_reducible exact Keep.refl _
    | with_reducible apply State.settleTurns_keep
    | with_reducible apply State.endTask_keep
    | with_reducible apply State.retire_keep
    | with_reducible apply keep_foldl
    | (intro _)
    | split

theorem execReconfLay_keep {v0 : Nat} {v1 : Word} {v2 : SourceIo} {v3 : State} {t : State} (e : execReconfLay v0 v1 v2 v3 = .next t) : Keep v3 t := by
  refine keep_next ?_ e
  have h := Keep.refl v3
  repeat' first
    | with_reducible assumption
    | with_reducible apply State.rigCmd_keep
    | with_reducible apply State.withSource_keep
    | with_reducible apply State.rigReport_keep
    | simp only [keep_mk]
    | (intro _)
    | split

theorem execRevoke_keep {v0 : Nat} {v1 : Word} {v2 : SourceIo} {v3 : State} {t : State} (e : execRevoke v0 v1 v2 v3 = .next t) : Keep v3 t := by
  refine keep_next ?_ e
  have h := Keep.refl v3
  repeat' first
    | with_reducible assumption
    | with_reducible apply State.rigCmd_keep
    | with_reducible apply State.rigReport_keep
    | with_reducible apply State.commit_keep
    | simp only [keep_mk]
    | with_reducible refine keep_ite (fun _ => ?_) (fun _ => ?_)
    | (intro _)

theorem execActivate_keep {v0 : Nat} {v1 : Word} {v2 : SourceIo} {v3 : State} {t : State} (e : execActivate v0 v1 v2 v3 = .next t) : Keep v3 t := by
  refine keep_next ?_ e
  have h := Keep.refl v3
  repeat' first
    | with_reducible assumption
    | with_reducible apply State.rigCmd_keep
    | with_reducible apply State.activateSlot_keep
    | (intro _)

/-! ### Power -/

theorem State.pwrReport_keep {a : State} {v0 : State} {v1 : Nat} (h : Keep a v0) : Keep a (State.pwrReport v0 v1) := by
  unfold State.pwrReport
  (try dsimp only)
  repeat' first
    | with_reducible assumption
    | with_reducible apply State.irq_keep
    | simp only [keep_mk]
    | with_reducible refine keep_ite (fun _ => ?_) (fun _ => ?_)

theorem State.pwrEnd_keep {a : State} {v0 : State} {v1 : Nat} (h : Keep a v0) : Keep a (State.pwrEnd v0 v1) := by
  unfold State.pwrEnd
  (try dsimp only)
  repeat' first
    | with_reducible assumption
    | with_reducible apply State.pwrReport_keep
    | simp only [keep_mk]

theorem State.askSupply_keep {a : State} {v0 : State} {v1 : BitVec 2} (h : Keep a v0) : Keep a (State.askSupply v0 v1) := by
  unfold State.askSupply
  (try dsimp only)
  repeat' first
    | with_reducible assumption
    | simp only [keep_mk]
    | with_reducible refine keep_ite (fun _ => ?_) (fun _ => ?_)

theorem State.unplacedOff_keep {a : State} {v0 : State} (h : Keep a v0) : Keep a (State.unplacedOff v0) := by
  unfold State.unplacedOff
  (try dsimp only)
  repeat' first
    | with_reducible assumption
    | with_reducible exact Keep.refl _
    | with_reducible apply State.tileOff_keep
    | with_reducible refine keep_ite (fun _ => ?_) (fun _ => ?_)
    | with_reducible apply keep_foldl
    | (intro _)

theorem execTclkDivisorChange_keep {v0 : State} {t : State} (e : execTclkDivisorChange v0 = .next t) : Keep v0 t := by
  refine keep_next ?_ e
  have h := Keep.refl v0
  repeat' first
    | with_reducible assumption
    | with_reducible apply State.pwrEnd_keep
    | with_reducible apply State.askSupply_keep
    | with_reducible apply State.unplacedOff_keep
    | simp only [keep_mk]
    | with_reducible refine keep_ite (fun _ => ?_) (fun _ => ?_)
    | split

theorem State.askDiv_keep {a : State} {v0 : State} {v1 : Nat} {v2 : Nat} (h : Keep a v0) : Keep a (State.askDiv v0 v1 v2) := by
  unfold State.askDiv
  (try dsimp only)
  repeat' first
    | with_reducible assumption
    | simp only [keep_mk]

theorem State.changeProfile_keep {a : State} {v0 : State} {v1 : BitVec 2} (h : Keep a v0) : Keep a (State.changeProfile v0 v1) := by
  unfold State.changeProfile
  (try dsimp only)
  repeat' first
    | with_reducible assumption
    | with_reducible apply State.askDiv_keep
    | simp only [keep_mk]

theorem execSupplyAck_keep {v0 : Bool} {v1 : State} {t : State} (e : execSupplyAck v0 v1 = .next t) : Keep v1 t := by
  refine keep_next ?_ e
  have h := Keep.refl v1
  repeat' first
    | with_reducible assumption
    | with_reducible apply State.changeProfile_keep
    | simp only [keep_mk]
    | with_reducible refine keep_ite (fun _ => ?_) (fun _ => ?_)
    | split

theorem execThermalSample_keep {v0 : Int} {v2 : List Int} {v1 : State} {t : State} (e : execThermalSample v0 v2 v1 = .next t) : Keep v1 t := by
  refine keep_next ?_ e
  have h := Keep.refl v1
  repeat' first
    | with_reducible exact Keep.refl _
    | with_reducible apply State.askDiv_keep
    | with_reducible apply State.irq_keep
    | with_reducible apply State.halt_keep
    | simp only [keep_mk]
    | split

theorem State.pwrCmd_keep {a : State} {v0 : State} {v1 : Nat} {v2 : Word} {v3 : Bool} {v4 : State → State} (hf : ∀ x, Keep a x → Keep a (v4 x)) (h : Keep a v0) : Keep a (State.pwrCmd v0 v1 v2 v3 v4) := by
  unfold State.pwrCmd
  (try dsimp only)
  repeat' first
    | with_reducible assumption
    | with_reducible apply hf
    | with_reducible apply State.pwrReport_keep
    | with_reducible refine keep_ite (fun _ => ?_) (fun _ => ?_)

theorem execDomainTransitionEnd_keep {v0 : Nat} {v1 : TrainResult} {v2 : State} {t : State} (e : execDomainTransitionEnd v0 v1 v2 = .next t) : Keep v2 t := by
  refine keep_next ?_ e
  have h := Keep.refl v2
  repeat' first
    | with_reducible exact Keep.refl _
    | with_reducible apply State.startClock_keep
    | with_reducible apply State.setPd_keep
    | with_reducible apply State.modTile_keep
    | with_reducible apply State.refillAll_keep
    | with_reducible apply State.tileOff_keep
    | with_reducible apply State.modChan_keep
    | with_reducible apply State.train_keep
    | with_reducible apply State.modPort_keep
    | with_reducible apply State.pwrEnd_keep
    | simp only [keep_mk]
    | split

theorem execSupplyTimeout_keep {v0 : State} {t : State} (e : execSupplyTimeout v0 = .next t) : Keep v0 t := by
  refine keep_next ?_ e
  have h := Keep.refl v0
  repeat' first
    | with_reducible assumption
    | with_reducible apply State.pwrEnd_keep
    | with_reducible apply State.askSupply_keep
    | simp only [keep_mk]
    | split

theorem execWatchdogExpiry_keep {v0 : State} {t : State} (e : execWatchdogExpiry v0 = .next t) : Keep v0 t := by
  refine keep_next ?_ e
  have h := Keep.refl v0
  repeat' first
    | with_reducible assumption
    | with_reducible apply State.halt_keep
    | with_reducible refine keep_ite (fun _ => ?_) (fun _ => ?_)

theorem execDomainCommand_keep {v0 : Nat} {v1 : Word} {v2 : State} {t : State} (e : execDomainCommand v0 v1 v2 = .next t) : Keep v2 t := by
  refine keep_next ?_ e
  have h := Keep.refl v2
  repeat' first
    | with_reducible assumption
    | with_reducible apply State.pwrCmd_keep
    | with_reducible apply State.pwrReport_keep
    | with_reducible apply State.setPd_keep
    | simp only [keep_mk]
    | with_reducible refine keep_ite (fun _ => ?_) (fun _ => ?_)
    | (intro _)
    | split

theorem execProfileCommand_keep {v0 : Nat} {v1 : Word} {v2 : State} {t : State} (e : execProfileCommand v0 v1 v2 = .next t) : Keep v2 t := by
  refine keep_next ?_ e
  have h := Keep.refl v2
  repeat' first
    | with_reducible assumption
    | with_reducible apply State.pwrCmd_keep
    | with_reducible apply State.pwrReport_keep
    | with_reducible apply State.changeProfile_keep
    | with_reducible apply State.askSupply_keep
    | simp only [keep_mk]
    | with_reducible refine keep_ite (fun _ => ?_) (fun _ => ?_)
    | (intro _)
    | split

/-! ### Boot -/

theorem State.setProfile_keep {a : State} {v0 : State} {v1 : BitVec 2} {v2 : Nat} (h : Keep a v0) : Keep a (State.setProfile v0 v1 v2) := by
  unfold State.setProfile
  (try dsimp only)
  repeat' first
    | with_reducible assumption
    | with_reducible apply State.askSupply_keep
    | with_reducible apply State.pwrReport_keep
    | simp only [keep_mk]
    | with_reducible refine keep_ite (fun _ => ?_) (fun _ => ?_)

theorem State.bootMemory_keep {a : State} {v0 : State} {v1 : BootEnv} (h : Keep a v0) : Keep a (State.bootMemory v0 v1).1 := by
  unfold State.bootMemory
  (try dsimp only)
  repeat' first
    | with_reducible assumption
    | with_reducible exact Keep.refl _
    | with_reducible apply State.setProfile_keep
    | with_reducible apply State.modChan_keep
    | with_reducible apply State.setPd_keep
    | with_reducible apply State.trainChan_keep
    | with_reducible apply State.refuseIllegalSet_keep
    | with_reducible apply State.applySet_keep
    | with_reducible apply keep_foldl
    | simp only [keep_mk]
    | (intro _)
    | split
theorem State.bootMemory_keepe {a : State} {v0 : State} {v1 : BootEnv} {z w} (h : Keep a v0) (e : State.bootMemory v0 v1 = (z, w)) : Keep a z := by
  have k := State.bootMemory_keep (v0 := v0) (v1 := v1) h
  rw [e] at k
  exact k

theorem State.bootPorts_keep {a : State} {v0 : State} (h : Keep a v0) : Keep a (State.bootPorts v0) := by
  unfold State.bootPorts
  (try dsimp only)
  repeat' first
    | with_reducible assumption
    | with_reducible exact Keep.refl _
    | with_reducible apply State.train_keep
    | with_reducible apply State.modPort_keep
    | with_reducible apply State.setPd_keep
    | simp only [keep_mk]
    | with_reducible apply keep_foldl
    | (intro _)

theorem State.toHeld_keep {a s : State} (h : Keep a s) : Keep a s.toHeld := by
  unfold State.toHeld
  exact keep_ite (fun _ => h) fun hs => State.setDev_keep h fun e => absurd e hs

theorem State.bootRig_keep {a : State} {v0 : State} (h : Keep a v0) : Keep a (State.bootRig v0) := by
  unfold State.bootRig
  (try dsimp only)
  repeat' first
    | with_reducible assumption
    | with_reducible apply State.serve_keep
    | with_reducible apply State.writeRig_keep
    | with_reducible apply State.commit_keep
    | with_reducible apply State.toHeld_keep
    | split

theorem State.bootFrom4_keep {a : State} {v0 : State} {v1 : BootEnv} (h : Keep a v0) : Keep a (State.bootFrom4 v0 v1) := by
  unfold State.bootFrom4
  (try dsimp only)
  repeat' first
    | with_reducible assumption
    | with_reducible refine State.bootMemory_keepe ?_ (by assumption)
    | with_reducible apply State.bootPorts_keep
    | with_reducible apply State.bootRig_keep
    | with_reducible apply State.toHeld_keep
    | split

theorem execPerstDeassert_keep {v0 : State} {t : State} (e : execPerstDeassert v0 = .next t) : Keep v0 t := by
  refine keep_next ?_ e
  have h := Keep.refl v0
  repeat' first
    | with_reducible assumption
    | simp only [keep_mk]
    | with_reducible refine keep_ite (fun _ => ?_) (fun _ => ?_)

theorem State.boot_keep {a : State} {v0 : State} {v1 : BootEnv} (h : Keep a v0) : Keep a (State.boot v0 v1) := by
  unfold State.boot
  (try dsimp only)
  repeat' first
    | with_reducible assumption
    | with_reducible apply State.rebuildMaps_keep
    | with_reducible apply State.toHeld_keep
    | with_reducible apply State.bootFrom4_keep
    | simp only [keep_mk]
    | split

/-! ### Firmware -/

theorem State.fwReport_keep {a : State} {v0 : State} {v1 : Nat} (h : Keep a v0) : Keep a (State.fwReport v0 v1) := by
  unfold State.fwReport
  (try dsimp only)
  repeat' first
    | with_reducible assumption
    | with_reducible apply State.irq_keep
    | simp only [keep_mk]
    | with_reducible refine keep_ite (fun _ => ?_) (fun _ => ?_)

theorem State.fwCmd_keep {a : State} {v0 : State} {v1 : Nat} {v2 : Word} {v3 : Nat} {v4 : Bool} {v5 : Bool} {v6 : State → State} (hf : ∀ x, Keep a x → Keep a (v6 x)) (h : Keep a v0) : Keep a (State.fwCmd v0 v1 v2 v3 v4 v5 v6) := by
  unfold State.fwCmd
  (try dsimp only)
  repeat' first
    | with_reducible assumption
    | with_reducible apply hf
    | with_reducible apply State.fwReport_keep
    | with_reducible refine keep_ite (fun _ => ?_) (fun _ => ?_)

theorem execFwLoad_keep {v0 : Nat} {v1 : Word} {v2 : SourceIo} {v3 : BootEnv} {v4 : State} {t : State} (e : execFwLoad v0 v1 v2 v3 v4 = .next t) : Keep v4 t := by
  refine keep_next ?_ e
  have h := Keep.refl v4
  repeat' first
    | with_reducible assumption
    | with_reducible apply State.fwCmd_keep
    | with_reducible refine State.source_keepe ?_ (by assumption)
    | with_reducible apply State.fwReport_keep
    | with_reducible apply State.bootFrom4_keep
    | simp only [keep_mk]
    | (intro _)
    | split

theorem State.storeFw_keep {a : State} {v0 : State} {v1 : Bool} {v2 : List Byte} {v3 : Bool} (h : Keep a v0) : Keep a (State.storeFw v0 v1 v2 v3).1 := by
  unfold State.storeFw
  (try dsimp only)
  repeat' first
    | with_reducible assumption
    | with_reducible apply State.commit_keep
    | simp only [keep_mk]
    | split
theorem State.storeFw_keepe {a : State} {v0 : State} {v1 : Bool} {v2 : List Byte} {v3 : Bool} {z w} (h : Keep a v0) (e : State.storeFw v0 v1 v2 v3 = (z, w)) : Keep a z := by
  have k := State.storeFw_keep (v0 := v0) (v1 := v1) (v2 := v2) (v3 := v3) h
  rw [e] at k
  exact k

theorem execFwAliveTimeout_keep {v0 : Bool} {v1 : State} {t : State} (e : execFwAliveTimeout v0 v1 = .next t) : Keep v1 t := by
  refine keep_next ?_ e
  have h := Keep.refl v1
  repeat' first
    | with_reducible assumption
    | with_reducible apply State.freeByte_keep
    | with_reducible apply State.commit_keep
    | with_reducible apply State.irq_keep
    | simp only [keep_mk]
    | with_reducible refine keep_ite (fun _ => ?_) (fun _ => ?_)
    | split

theorem State.fwEnd_keep {a : State} {v0 : State} {v1 : Nat} (h : Keep a v0) : Keep a (State.fwEnd v0 v1) := by
  unfold State.fwEnd
  (try dsimp only)
  repeat' first
    | with_reducible assumption
    | with_reducible apply State.fwReport_keep
    | simp only [keep_mk]

theorem execSwitchWaitTimeout_keep {v0 : State} {t : State} (e : execSwitchWaitTimeout v0 = .next t) : Keep v0 t := by
  refine keep_next ?_ e
  have h := Keep.refl v0
  repeat' first
    | with_reducible assumption
    | with_reducible apply State.fwEnd_keep
    | with_reducible refine keep_ite (fun _ => ?_) (fun _ => ?_)

theorem State.handOver_keep {a : State} {v0 : State} (h : Keep a v0) : Keep a (State.handOver v0) := by
  unfold State.handOver
  (try dsimp only)
  repeat' first
    | with_reducible assumption
    | simp only [keep_mk]
    | with_reducible refine keep_ite (fun _ => ?_) (fun _ => ?_)
    | split

theorem execFwAlive_keep {v0 : Bool} {v1 : State} {t : State} (e : execFwAlive v0 v1 = .next t) : Keep v1 t := by
  refine keep_next ?_ e
  have h := Keep.refl v1
  repeat' first
    | with_reducible assumption
    | with_reducible apply State.handOver_keep
    | with_reducible apply State.fwEnd_keep
    | with_reducible apply State.commit_keep
    | simp only [keep_mk]
    | with_reducible refine keep_ite (fun _ => ?_) (fun _ => ?_)
    | split

theorem execFwWriteSlot_keep {v0 : Nat} {v1 : Word} {v2 : SourceIo} {v3 : State} {t : State} (e : execFwWriteSlot v0 v1 v2 v3 = .next t) : Keep v3 t := by
  refine keep_next ?_ e
  have h := Keep.refl v3
  repeat' first
    | with_reducible assumption
    | with_reducible apply State.fwCmd_keep
    | with_reducible apply State.fwReport_keep
    | with_reducible refine State.source_keepe ?_ (by assumption)
    | with_reducible apply State.storeFw_keep
    | (intro _)
    | split
    | simp only [Issued.st_wait, Issued.st_stop, Issued.st_go, Issued.st_jump, Prep.st_bad, Prep.st_hold, Prep.st_ok]

theorem execFwSetBoot_keep {v0 : Nat} {v1 : Word} {v2 : SourceIo} {v3 : State} {t : State} (e : execFwSetBoot v0 v1 v2 v3 = .next t) : Keep v3 t := by
  refine keep_next ?_ e
  have h := Keep.refl v3
  repeat' first
    | with_reducible assumption
    | with_reducible apply State.fwCmd_keep
    | with_reducible apply State.fwReport_keep
    | with_reducible apply State.commit_keep
    | simp only [keep_mk]
    | with_reducible refine keep_ite (fun _ => ?_) (fun _ => ?_)
    | (intro _)

theorem execSwitch_keep {fn : Nat} {v : Word} {io : SourceIo} {s t : State} (e : execSwitch fn v io s = .next t) : Keep s t := by
  refine keep_next ?_ e
  refine State.fwCmd_keep (fun x h => ?_) (Keep.refl s)
  refine keep_ite (fun _ => State.fwReport_keep h) fun _ => keep_ite (fun _ => State.fwReport_keep (State.commit_keep h)) fun _ => ?_
  generalize x.fwErrOf (x.fwImage (slotOf v)) = q
  cases q with
  | some e => exact State.fwReport_keep (State.commit_keep h)
  | none => exact State.handOver_keep (by simp only [keep_mk]; exact h)

/-! ### Errors -/

theorem State.tileCe_keep {a : State} {v0 : State} {v1 : Nat} (h : Keep a v0) : Keep a (State.tileCe v0 v1) := by
  unfold State.tileCe
  (try dsimp only)
  repeat' first
    | with_reducible assumption
    | with_reducible apply State.logEv_keep
    | with_reducible apply State.modTile_keep

theorem State.memCe_keep {a : State} {v0 : State} {v1 : MemRef} (h : Keep a v0) : Keep a (State.memCe v0 v1) := by
  unfold State.memCe
  (try dsimp only)
  repeat' first
    | with_reducible assumption
    | with_reducible apply State.logEv_keep
    | with_reducible apply State.tileCe_keep
    | split

theorem State.loseTask_keep {a : State} {v0 : State} {v1 : Nat} (h : Keep a v0) : Keep a (State.loseTask v0 v1) := by
  unfold State.loseTask
  (try dsimp only)
  repeat' first
    | with_reducible assumption
    | with_reducible apply State.settleTurns_keep
    | with_reducible apply State.endTask_keep
    | with_reducible apply State.retire_keep
    | with_reducible apply State.logEv_keep
    | split

theorem execHealTest_keep {v0 : Nat} {v1 : Nat} {v2 : Ecc} {v3 : State} {t : State} (e : execHealTest v0 v1 v2 v3 = .next t) : Keep v3 t := by
  refine keep_next ?_ e
  have h := Keep.refl v3
  repeat' first
    | with_reducible assumption
    | with_reducible apply State.modTile_keep
    | with_reducible apply State.logEv_keep
    | with_reducible apply State.poisonWord_keep
    | simp only [keep_mk]
    | with_reducible refine keep_ite (fun _ => ?_) (fun _ => ?_)
    | split

theorem State.scrubPoison_keep {a : State} {v0 : State} {v1 : Nat} {v2 : Nat} (h : Keep a v0) : Keep a (State.scrubPoison v0 v1 v2) := by
  unfold State.scrubPoison
  (try dsimp only)
  repeat' first
    | with_reducible assumption
    | with_reducible apply State.irq_keep
    | with_reducible apply State.logEv_keep

theorem State.stateUe_keep {a : State} {v0 : State} {v1 : Nat} {v2 : Nat} {v3 : Option (List Nat)} (h : Keep a v0) : Keep a (State.stateUe v0 v1 v2 v3) := by
  unfold State.stateUe
  (try dsimp only)
  repeat' first
    | with_reducible assumption
    | with_reducible apply State.tileFault_keep
    | with_reducible apply State.modTile_keep

theorem State.lapEnd_keep {a : State} {v0 : State} {v1 : Nat} (h : Keep a v0) : Keep a (State.lapEnd v0 v1) := by
  unfold State.lapEnd
  (try dsimp only)
  repeat' first
    | with_reducible assumption
    | with_reducible apply State.modTile_keep

theorem execScrub_keep {v0 : Nat} {v1 : Ecc} {v2 : State} {t : State} (e : execScrub v0 v1 v2 = .next t) : Keep v2 t := by
  refine keep_next ?_ e
  have h := Keep.refl v2
  repeat' first
    | with_reducible exact Keep.refl _
    | with_reducible apply State.modTile_keep
    | with_reducible apply State.scrubPoison_keep
    | with_reducible apply State.ceEvent_keep
    | with_reducible apply State.poisonWord_keep
    | with_reducible apply State.tileCe_keep
    | with_reducible apply State.stateUe_keep
    | with_reducible apply State.lapEnd_keep
    | split
    | simp only [Issued.st_wait, Issued.st_stop, Issued.st_go, Issued.st_jump, Prep.st_bad, Prep.st_hold, Prep.st_ok]

theorem execScrubAlarm_keep {v0 v2 : Nat} {v1 : State} {t : State} (e : execScrubAlarm v0 v2 v1 = .next t) : Keep v1 t := by
  refine keep_next ?_ e
  have h := Keep.refl v1
  repeat' first
    | with_reducible exact Keep.refl _
    | with_reducible apply State.logEv_keep
    | with_reducible apply State.modTile_keep
    | split
    | simp only [Issued.st_wait, Issued.st_stop, Issued.st_go, Issued.st_jump, Prep.st_bad, Prep.st_hold, Prep.st_ok]

theorem State.markBad_keep {a : State} {v0 : State} {v1 : Nat} (h : Keep a v0) : Keep a (State.markBad v0 v1) := by
  unfold State.markBad
  (try dsimp only)
  repeat' first
    | with_reducible assumption
    | simp only [keep_mk]
    | split

theorem State.tileTransient_keep {a : State} {v0 : State} {v1 : Nat} {v2 : BitVec 64} (h : Keep a v0) : Keep a (State.tileTransient v0 v1 v2) := by
  unfold State.tileTransient
  (try dsimp only)
  repeat' first
    | with_reducible assumption
    | with_reducible apply State.logEv_keep
    | with_reducible apply State.modTile_keep

theorem State.rereadSpad_keep {a : State} {v0 : State} {v1 : Nat} {v2 : Nat} {v3 : Ecc} (h : Keep a v0) : Keep a (State.rereadSpad v0 v1 v2 v3) := by
  unfold State.rereadSpad
  (try dsimp only)
  repeat' first
    | with_reducible assumption
    | with_reducible apply State.modTile_keep
    | with_reducible apply State.tileTransient_keep
    | with_reducible apply State.poisonWord_keep
    | with_reducible apply State.scrubPoison_keep
    | split

theorem execReread_keep {v0 : MemRef} {v1 : RereadEcc} {v3 : State} {t : State} (e : execReread v0 v1 v3 = .next t) : Keep v3 t := by
  refine keep_next ?_ e
  have h := Keep.refl v3
  repeat' first
    | with_reducible exact Keep.refl _
    | with_reducible apply State.memCe_keep
    | with_reducible apply State.logEv_keep
    | with_reducible apply State.rereadSpad_keep
    | with_reducible apply State.tileTransient_keep
    | with_reducible apply State.stateUe_keep
    | with_reducible apply State.modChan_keep
    | with_reducible apply State.loseTask_keep
    | with_reducible apply State.settleTurns_keep
    | with_reducible apply State.resetHitch_keep
    | with_reducible apply State.markBad_keep
    | split

theorem State.mirrorEvent_keep {a : State} {v0 : State} {v1 : LogStored} (h : Keep a v0) : Keep a (State.mirrorEvent v0 v1) := by
  unfold State.mirrorEvent
  (try dsimp only)
  repeat' first
    | with_reducible assumption
    | with_reducible apply State.emit_keep
    | simp only [keep_mk]
    | with_reducible refine keep_ite (fun _ => ?_) (fun _ => ?_)
    | split

theorem execLogCommit_keep {v0 : Bool} {v1 : Bool} {v2 : State} {t : State} (e : execLogCommit v0 v1 v2 = .next t) : Keep v2 t := by
  refine keep_next ?_ e
  have h := Keep.refl v2
  repeat' first
    | with_reducible assumption
    | with_reducible apply State.mirrorEvent_keep
    | with_reducible apply State.irq_keep
    | simp only [keep_mk]
    | with_reducible refine keep_ite (fun _ => ?_) (fun _ => ?_)
    | split

theorem execLogClear_keep {v0 : Nat} {v1 : Word} {v2 : State} {t : State} (e : execLogClear v0 v1 v2 = .next t) : Keep v2 t := by
  refine keep_next ?_ e
  have h := Keep.refl v2
  repeat' first
    | with_reducible assumption
    | simp only [keep_mk]
    | with_reducible refine keep_ite (fun _ => ?_) (fun _ => ?_)

/-! ### Faults -/

theorem State.evict_keep {a : State} {v0 : State} {v1 : Nat} {v2 : Nat} (h : Keep a v0) : Keep a (State.evict v0 v1 v2) := by
  unfold State.evict
  (try dsimp only)
  repeat' first
    | with_reducible assumption
    | with_reducible apply State.modTask_keep
    | with_reducible apply State.endTaskWith_keep

theorem State.modFault_keep {a : State} {v0 : State} {v1 : Nat} {v2 : FaultEnt → FaultEnt} (h : Keep a v0) : Keep a (State.modFault v0 v1 v2) := by
  unfold State.modFault
  (try dsimp only)
  repeat' first
    | with_reducible assumption
    | simp only [keep_mk]

theorem State.actedOn_keep {a : State} {v0 : State} {v1 : Nat} {v2 : List Nat} (h : Keep a v0) : Keep a (State.actedOn v0 v1 v2) := by
  unfold State.actedOn
  (try dsimp only)
  repeat' first
    | with_reducible assumption
    | with_reducible apply State.closeWindow_keep
    | with_reducible apply State.modFault_keep

theorem State.recoverState_keep {a : State} {v0 : State} {v1 : Nat} {v2 : FaultEnt} {v3 : Nat} (h : Keep a v0) : Keep a (State.recoverState v0 v1 v2 v3) := by
  unfold State.recoverState
  (try dsimp only)
  repeat' first
    | with_reducible assumption
    | with_reducible exact Keep.refl _
    | with_reducible apply State.evict_keep
    | with_reducible apply State.writeStore_keep
    | with_reducible apply State.actedOn_keep
    | with_reducible apply keep_foldl
    | (intro _)
    | split

theorem State.retireTileOf_keep {a : State} {v0 : State} {v1 : Nat} {v2 : Bool} (h : Keep a v0) : Keep a (State.retireTileOf v0 v1 v2) := by
  unfold State.retireTileOf
  (try dsimp only)
  repeat' first
    | with_reducible assumption
    | with_reducible apply State.loseTile_keep
    | simp only [keep_mk]

theorem State.discard_keep {a : State} {v0 : State} {v1 : Nat} {v2 : Nat} (h : Keep a v0) : Keep a (State.discard v0 v1 v2) := by
  unfold State.discard
  (try dsimp only)
  repeat' first
    | with_reducible assumption
    | simp only [keep_mk]

theorem State.logRetired_keep {a : State} {v0 : State} {v1 : Nat} {v2 : Nat} {v3 : Option Nat} (h : Keep a v0) : Keep a (State.logRetired v0 v1 v2 v3) := by
  unfold State.logRetired
  (try dsimp only)
  repeat' first
    | with_reducible assumption
    | with_reducible apply State.logEv_keep

theorem State.retireReport_keep {a : State} {v0 : State} {v1 : Nat} (h : Keep a v0) : Keep a (State.retireReport v0 v1) := by
  unfold State.retireReport
  (try dsimp only)
  repeat' first
    | with_reducible assumption
    | with_reducible apply State.irq_keep
    | simp only [keep_mk]
    | with_reducible refine keep_ite (fun _ => ?_) (fun _ => ?_)

theorem State.recordTile_keep {a : State} {v0 : State} {v1 : Nat} {v2 : Option Nat} (h : Keep a v0) : Keep a (State.recordTile v0 v1 v2) := by
  unfold State.recordTile
  (try dsimp only)
  repeat' first
    | with_reducible assumption
    | with_reducible apply State.commit_keep
    | with_reducible apply State.logRetired_keep
    | with_reducible apply State.retireReport_keep
    | simp only [keep_mk]
    | with_reducible refine keep_ite (fun _ => ?_) (fun _ => ?_)

theorem State.endAllOn_keep {a : State} {v0 : State} {v1 : Nat} (h : Keep a v0) : Keep a (State.endAllOn v0 v1).1 := by
  unfold State.endAllOn
  (try dsimp only)
  repeat' first
    | with_reducible assumption
    | with_reducible exact Keep.refl _
    | with_reducible apply State.modTask_keep
    | with_reducible apply State.endSlots_keep
    | with_reducible apply keep_foldl_fst
    | (intro _)
    | split
theorem State.endAllOn_keepe {a : State} {v0 : State} {v1 : Nat} {z w} (h : Keep a v0) (e : State.endAllOn v0 v1 = (z, w)) : Keep a z := by
  have k := State.endAllOn_keep (v0 := v0) (v1 := v1)  h
  rw [e] at k
  exact k

theorem State.settleSlots_keep {a : State} {v0 : State} {v1 : Nat} {v2 : List Nat} (h : Keep a v0) : Keep a (State.settleSlots v0 v1 v2) := by
  unfold State.settleSlots
  (try dsimp only)
  repeat' first
    | with_reducible assumption
    | with_reducible exact Keep.refl _
    | with_reducible apply State.freeSlot_keep
    | with_reducible apply State.setSlot_keep
    | with_reducible refine keep_ite (fun _ => ?_) (fun _ => ?_)
    | with_reducible apply keep_foldl
    | (intro _)

theorem State.fenceLost_keep {a : State} {v0 : State} {v1 : Nat} {v2 : Nat} {v3 : Nat} (h : Keep a v0) : Keep a (State.fenceLost v0 v1 v2 v3) := by
  unfold State.fenceLost
  (try dsimp only)
  repeat' first
    | with_reducible assumption
    | with_reducible apply State.endAllOn_keep
    | with_reducible apply State.modTile_keep
    | with_reducible apply State.setMap_keep
    | with_reducible apply State.modFault_keep
    | with_reducible apply State.discard_keep
    | with_reducible apply State.settleSlots_keep

theorem State.freeSpares_keep {a : State} {v0 : State} (h : Keep a v0) : Keep a (State.freeSpares v0) := by
  unfold State.freeSpares
  (try dsimp only)
  repeat' first
    | with_reducible assumption
    | with_reducible exact Keep.refl _
    | with_reducible apply State.release_keep
    | with_reducible apply State.setMap_keep
    | with_reducible apply keep_foldl
    | (intro _)
    | split

theorem State.noSpare_keep {a : State} {v0 : State} {v1 : Nat} {v2 : Nat} {v3 : Nat} {v4 : List Nat} (h : Keep a v0) : Keep a (State.noSpare v0 v1 v2 v3 v4) := by
  unfold State.noSpare
  (try dsimp only)
  repeat' first
    | with_reducible assumption
    | with_reducible exact Keep.refl _
    | with_reducible apply State.discard_keep
    | with_reducible apply State.tileOff_keep
    | with_reducible apply State.setMap_keep
    | with_reducible apply State.recordTile_keep
    | with_reducible apply State.logSev_keep
    | with_reducible apply State.retire_keep
    | with_reducible apply State.release_keep
    | with_reducible apply State.actedOn_keep
    | with_reducible apply State.freeSpares_keep
    | with_reducible apply keep_foldl
    | simp only [keep_mk]
    | (intro _)

theorem State.copyWords_keep {a : State} {v0 : State} {v1 : Nat} {v2 : Nat} {v3 : List Nat} (h : Keep a v0) : Keep a (State.copyWords v0 v1 v2 v3) := by
  unfold State.copyWords
  (try dsimp only)
  repeat' first
    | with_reducible assumption
    | with_reducible exact Keep.refl _
    | with_reducible apply State.modTile_keep
    | with_reducible apply State.noteCe_keep
    | with_reducible apply keep_foldl
    | (intro _)

theorem State.rebuild_keep {a : State} {v0 : State} {v1 : List BightView} {v2 : Nat} (h : Keep a v0) : Keep a (State.rebuild v0 v1 v2) := by
  unfold State.rebuild
  (try dsimp only)
  repeat' first
    | with_reducible assumption
    | with_reducible exact Keep.refl _
    | with_reducible apply State.modBight_keep
    | with_reducible apply keep_foldl
    | simp only [keep_mk]
    | (intro _)
    | split

theorem State.takeOver_keep {a : State} {v0 : State} {v1 : Nat} {v2 : Nat} {v3 : Nat} {v4 : Nat} {v5 : List Nat} {v6 : ProducerSrc} (h : Keep a v0) : Keep a (State.takeOver v0 v1 v2 v3 v4 v5 v6) := by
  unfold State.takeOver
  (try dsimp only)
  repeat' first
    | with_reducible assumption
    | with_reducible apply State.copyWords_keep
    | with_reducible apply State.tileOn_keep
    | with_reducible apply State.rebuild_keep
    | with_reducible apply State.tileOff_keep
    | with_reducible apply State.recordTile_keep
    | with_reducible apply State.writeStore_keep
    | with_reducible apply State.setMap_keep
    | with_reducible apply State.release_keep
    | split

theorem State.recoverLost_keep {a : State} {v0 : State} {v1 : Nat} {v2 : Nat} {v3 : Bool} {v4 : ProducerSrc} (h : Keep a v0) : Keep a (State.recoverLost v0 v1 v2 v3 v4) := by
  unfold State.recoverLost
  (try dsimp only)
  repeat' first
    | with_reducible assumption
    | with_reducible apply State.actedOn_keep
    | with_reducible apply State.tileOff_keep
    | with_reducible apply State.release_keep
    | with_reducible apply State.setMap_keep
    | with_reducible apply State.recordTile_keep
    | with_reducible apply State.fenceLost_keep
    | with_reducible apply State.noSpare_keep
    | with_reducible apply State.modTile_keep
    | with_reducible apply State.modFault_keep
    | with_reducible apply State.takeOver_keep
    | split

theorem State.recoverChan_keep {a : State} {v0 : State} {v1 : Nat} {v2 : Nat} (h : Keep a v0) : Keep a (State.recoverChan v0 v1 v2) := by
  unfold State.recoverChan
  (try dsimp only)
  repeat' first
    | with_reducible assumption
    | with_reducible exact Keep.refl _
    | with_reducible apply State.respond_keep
    | with_reducible apply State.ackTo_keep
    | with_reducible apply State.modChan_keep
    | with_reducible apply State.actedOn_keep
    | with_reducible apply keep_foldl
    | (intro _)
    | split

theorem State.recover_keep {a : State} {v0 : State} {v1 : Nat} {v2 : FaultEnt} {v3 : Bool} {v4 : ProducerSrc} (h : Keep a v0) : Keep a (State.recover v0 v1 v2 v3 v4) := by
  unfold State.recover
  (try dsimp only)
  repeat' first
    | with_reducible assumption
    | with_reducible apply State.settleTurns_keep
    | with_reducible apply State.settle_keep
    | with_reducible apply State.recoverLost_keep
    | with_reducible apply State.recoverChan_keep
    | with_reducible apply State.recoverState_keep
    | split

theorem execFaultRecovery_keep {v0 : Bool} {v1 : ProducerSrc} {v3 : State} {t : State} (e : execFaultRecovery v0 v1 v3 = .next t) : Keep v3 t := by
  refine keep_next ?_ e
  have h := Keep.refl v3
  repeat' first
    | with_reducible exact Keep.refl _
    | with_reducible apply State.recover_keep
    | split

theorem execRecentre_keep {v0 : Nat} {v1 : Int} {v2 : State} {t : State} (e : execRecentre v0 v1 v2 = .next t) : Keep v2 t := by
  refine keep_next ?_ e
  have h := Keep.refl v2
  repeat' first
    | with_reducible assumption
    | with_reducible apply State.modChan_keep
    | simp only [keep_mk]
    | with_reducible refine keep_ite (fun _ => ?_) (fun _ => ?_)

theorem State.retireCmd_keep {a : State} {v0 : State} {v1 : Nat} {v2 : Word} {v3 : Nat} {v4 : State → Nat → State} (hf : ∀ x n, Keep a x → Keep a (v4 x n)) (h : Keep a v0) : Keep a (State.retireCmd v0 v1 v2 v3 v4) := by
  unfold State.retireCmd
  (try dsimp only)
  repeat' first
    | with_reducible assumption
    | with_reducible apply hf
    | with_reducible apply State.retireReport_keep
    | with_reducible refine keep_ite (fun _ => ?_) (fun _ => ?_)

theorem execTileRetirement_keep {v0 : Nat} {v1 : Word} {v2 : Bool} {v3 : State} {t : State} (e : execTileRetirement v0 v1 v2 v3 = .next t) : Keep v3 t := by
  refine keep_next ?_ e
  have h := Keep.refl v3
  repeat' first
    | with_reducible assumption
    | with_reducible apply State.retireCmd_keep
    | with_reducible apply State.retireReport_keep
    | with_reducible apply State.retireTileOf_keep
    | with_reducible refine keep_ite (fun _ => ?_) (fun _ => ?_)
    | (intro _)

theorem execTileLost_keep {v0 : Nat} {v1 : Bool} {v2 : State} {t : State} (e : execTileLost v0 v1 v2 = .next t) : Keep v2 t := by
  refine keep_next ?_ e
  have h := Keep.refl v2
  repeat' first
    | with_reducible assumption
    | with_reducible apply State.loseTile_keep
    | with_reducible refine keep_ite (fun _ => ?_) (fun _ => ?_)

theorem execRecentreEnd_keep {v0 : Nat} {v1 : State} {t : State} (e : execRecentreEnd v0 v1 = .next t) : Keep v1 t := by
  refine keep_next ?_ e
  have h := Keep.refl v1
  repeat' first
    | with_reducible assumption
    | with_reducible apply State.modChan_keep
    | simp only [keep_mk]
    | with_reducible refine keep_ite (fun _ => ?_) (fun _ => ?_)

theorem execLineRetirement_keep {v0 : Nat} {v1 : Word} {v2 : Bool} {v3 : State} {t : State} (e : execLineRetirement v0 v1 v2 v3 = .next t) : Keep v3 t := by
  refine keep_next ?_ e
  have h := Keep.refl v3
  repeat' first
    | with_reducible assumption
    | with_reducible apply State.retireCmd_keep
    | with_reducible apply State.retireReport_keep
    | with_reducible apply State.logRetired_keep
    | with_reducible apply State.modTile_keep
    | with_reducible apply State.commit_keep
    | simp only [keep_mk]
    | with_reducible refine keep_ite (fun _ => ?_) (fun _ => ?_)
    | (intro _)
    | split

theorem execFullRetrainEnd_keep {v0 : Nat} {v1 : Bool} {v2 : State} {t : State} (e : execFullRetrainEnd v0 v1 v2 = .next t) : Keep v2 t := by
  refine keep_next ?_ e
  have h := Keep.refl v2
  repeat' first
    | with_reducible assumption
    | with_reducible apply State.modChan_keep
    | with_reducible apply State.channelOut_keep
    | simp only [keep_mk]
    | with_reducible refine keep_ite (fun _ => ?_) (fun _ => ?_)

theorem execBankRetirement_keep {v0 : Nat} {v1 : Word} {v2 : Bool} {v3 : State} {t : State} (e : execBankRetirement v0 v1 v2 v3 = .next t) : Keep v3 t := by
  refine keep_next ?_ e
  have h := Keep.refl v3
  repeat' first
    | with_reducible assumption
    | with_reducible apply State.retireCmd_keep
    | with_reducible apply State.retireReport_keep
    | with_reducible apply State.logRetired_keep
    | with_reducible apply State.commit_keep
    | with_reducible apply State.retireTileOf_keep
    | simp only [keep_mk]
    | with_reducible refine keep_ite (fun _ => ?_) (fun _ => ?_)
    | (intro _)

/-! ### Csr -/

theorem State.wrMsix_keep {a : State} {v0 : State} {v1 : Nat} {v2 : Nat} {v3 : Word} (h : Keep a v0) : Keep a (State.wrMsix v0 v1 v2 v3) := by
  unfold State.wrMsix
  (try dsimp only)
  repeat' first
    | with_reducible assumption
    | with_reducible apply State.modFunc_keep
    | with_reducible apply State.flushPba_keep
    | with_reducible refine keep_ite (fun _ => ?_) (fun _ => ?_)

theorem State.readWord_keep {a : State} {v0 : State} {v1 : Nat} {v2 : Nat} (h : Keep a v0) : Keep a (State.readWord v0 v1 v2).2 := by
  unfold State.readWord
  (try dsimp only)
  repeat' first
    | with_reducible assumption
    | with_reducible apply State.modFunc_keep
    | with_reducible apply State.modTile_keep
    | with_reducible refine keep_ite_snd (fun _ => ?_) (fun _ => ?_)
theorem State.readWord_keepe {a : State} {v0 : State} {v1 : Nat} {v2 : Nat} {z w} (h : Keep a v0) (e : State.readWord v0 v1 v2 = (z, w)) : Keep a w := by
  have k := State.readWord_keep (v0 := v0) (v1 := v1) (v2 := v2)  h
  rw [e] at k
  exact k

theorem State.csrRead_keep {a : State} {v0 : State} {v1 : Nat} {v2 : Nat} {v3 : Nat} (h : Keep a v0) : Keep a (State.csrRead v0 v1 v2 v3) := by
  unfold State.csrRead
  (try dsimp only)
  repeat' first
    | with_reducible assumption
    | with_reducible apply State.emit_keep
    | with_reducible apply State.readWord_keep
    | with_reducible refine keep_ite (fun _ => ?_) (fun _ => ?_)

theorem State.wrQueue_keep {a : State} {v0 : State} {v1 : Nat} {v2 : Nat} {v3 : Word} (h : Keep a v0) : Keep a (State.wrQueue v0 v1 v2 v3) := by
  unfold State.wrQueue
  (try dsimp only)
  repeat' first
    | with_reducible assumption
    | with_reducible apply State.modFunc_keep
    | with_reducible apply State.onQueue_keep
    | with_reducible apply State.modQueue_keep
    | with_reducible refine keep_ite (fun _ => ?_) (fun _ => ?_)
    | (intro _)

theorem State.wrGlb_keep {a s : State} {o : Nat} {v : Word} (h : Keep a s) : Keep a (s.wrGlb o v) := by
  unfold State.wrGlb
  refine keep_ite (fun _ => ?_) fun _ => keep_ite (fun _ => keep_holdWrite h) fun _ =>
    keep_ite (fun _ => keep_holdWrite h) fun _ => keep_ite (fun _ => keep_holdWrite h) fun _ => h
  simp only [keep_mk]; exact h

theorem State.wrSvc_keep {a : State} {v0 : State} {v1 : Nat} {v2 : Word} (h : Keep a v0) : Keep a (State.wrSvc v0 v1 v2) := by
  unfold State.wrSvc
  (try dsimp only)
  repeat' first
    | with_reducible assumption
    | with_reducible apply State.rigReport_keep
    | with_reducible apply State.retireReport_keep
    | with_reducible apply State.fwReport_keep
    | simp only [keep_mk]
    | with_reducible refine keep_ite (fun _ => ?_) (fun _ => ?_)

theorem State.wrNode_keep {a : State} {v0 : State} {v1 : Nat} {v2 : Word} (h : Keep a v0) : Keep a (State.wrNode v0 v1 v2) := by
  unfold State.wrNode
  (try dsimp only)
  repeat' first
    | with_reducible assumption
    | with_reducible exact Keep.refl _
    | with_reducible apply State.train_keep
    | simp only [keep_mk]
    | with_reducible refine keep_ite (fun _ => ?_) (fun _ => ?_)
    | with_reducible apply keep_foldl
    | (intro _)

theorem State.wrExp_keep {a : State} {v0 : State} {v1 : Nat} {v2 : Word} (h : Keep a v0) : Keep a (State.wrExp v0 v1 v2) := by
  unfold State.wrExp
  (try dsimp only)
  repeat' first
    | with_reducible assumption
    | simp only [keep_mk]
    | with_reducible refine keep_ite (fun _ => ?_) (fun _ => ?_)

theorem State.wrSch_keep {a : State} {v0 : State} {v1 : Nat} {v2 : Word} (h : Keep a v0) : Keep a (State.wrSch v0 v1 v2) := by
  unfold State.wrSch
  (try dsimp only)
  repeat' first
    | with_reducible assumption
    | with_reducible apply State.wrQueue_keep
    | with_reducible apply State.settleTurns_keep
    | with_reducible apply State.modGroup_keep
    | with_reducible apply State.refillAll_keep
    | with_reducible apply State.setHitch_keep
    | split

theorem State.wrLog_keep {a : State} {v0 : State} {v1 : Nat} {v2 : Word} (h : Keep a v0) : Keep a (State.wrLog v0 v1 v2) := by
  unfold State.wrLog
  (try dsimp only)
  repeat' first
    | with_reducible assumption
    | simp only [keep_mk]
    | with_reducible refine keep_ite (fun _ => ?_) (fun _ => ?_)

theorem State.csrWord_keep {a : State} {v0 : State} {v1 : Nat} {v2 : Nat} {v3 : Word} (h : Keep a v0) : Keep a (State.csrWord v0 v1 v2 v3) := by
  unfold State.csrWord
  (try dsimp only)
  repeat' first
    | with_reducible assumption
    | with_reducible apply State.wrQueue_keep
    | with_reducible apply State.wrMsix_keep
    | with_reducible apply State.wrGlb_keep
    | with_reducible apply State.wrSvc_keep
    | with_reducible apply State.modTile_keep
    | with_reducible apply State.modChan_keep
    | with_reducible apply State.wrNode_keep
    | with_reducible apply State.logDrop_keep
    | with_reducible apply State.modPort_keep
    | with_reducible apply State.wrExp_keep
    | with_reducible apply State.wrSch_keep
    | with_reducible apply State.wrLog_keep
    | with_reducible refine keep_ite (fun _ => ?_) (fun _ => ?_)

theorem execCsrWrite_keep {v0 : Nat} {v1 : Nat} {v2 : Nat} {v3 : BitVec 64} {v4 : State} {t : State} (e : execCsrWrite v0 v1 v2 v3 v4 = .next t) : Keep v4 t := by
  refine keep_next ?_ e
  have h := Keep.refl v4
  repeat' first
    | with_reducible assumption
    | with_reducible apply State.logDrop_keep
    | with_reducible apply State.csrWord_keep
    | simp only [keep_mk]
    | with_reducible refine keep_ite (fun _ => ?_) (fun _ => ?_)

theorem execIrqMaskWrite_keep {v0 : Nat} {v1 : Word} {v2 : State} {t : State} (e : execIrqMaskWrite v0 v1 v2 = .next t) : Keep v2 t := by
  refine keep_next ?_ e
  have h := Keep.refl v2
  repeat' first
    | with_reducible assumption
    | with_reducible exact Keep.refl _
    | with_reducible apply State.msix_keep
    | simp only [keep_mk]
    | with_reducible refine keep_ite (fun _ => ?_) (fun _ => ?_)
    | with_reducible apply keep_foldl
    | (intro _)

theorem execPstoreDataRead_keep {v0 : Nat} {v1 : Nat} {v2 : State} {t : State} (e : execPstoreDataRead v0 v1 v2 = .next t) : Keep v2 t := by
  refine keep_next ?_ e
  have h := Keep.refl v2
  repeat' first
    | with_reducible assumption
    | with_reducible apply State.csrRead_keep
    | with_reducible refine keep_ite (fun _ => ?_) (fun _ => ?_)

theorem execCompleterAbort_keep {v0 : Nat} {v1 : Nat} {v2 : Nat} {v3 : State} {t : State} (e : execCompleterAbort v0 v1 v2 v3 = .next t) : Keep v3 t := by
  refine keep_next ?_ e
  have h := Keep.refl v3
  repeat' first
    | with_reducible assumption
    | with_reducible apply State.emit_keep
    | with_reducible apply State.logDrop_keep
    | with_reducible refine keep_ite (fun _ => ?_) (fun _ => ?_)

theorem State.failEntry_keep {a : State} {v0 : State} {v1 : Nat} (h : Keep a v0) : Keep a (State.failEntry v0 v1) := by
  unfold State.failEntry
  (try dsimp only)
  repeat' first
    | with_reducible assumption
    | with_reducible apply State.irq_keep
    | simp only [keep_mk]
    | split

theorem execLowWordRead_keep {v0 : Nat} {v1 : Nat} {v2 : RegRead} {v4 : State} {t : State} (e : execLowWordRead v0 v1 v2 v4 = .next t) : Keep v4 t := by
  refine keep_next ?_ e
  have h := Keep.refl v4
  repeat' first
    | with_reducible exact Keep.refl _
    | with_reducible apply State.csrRead_keep
    | with_reducible apply State.failEntry_keep
    | split

/-! ### Hold -/

theorem State.holdEdge_keep {a : State} {v0 : State} {v1 : State} (h0 : Keep a v0) (h : Keep a v1) : Keep a (State.holdEdge v0 v1) := by
  unfold State.holdEdge
  (try dsimp only)
  repeat' first
    | with_reducible assumption
    | with_reducible exact Keep.refl _
    | with_reducible apply State.syncFaultN_keep
    | with_reducible apply State.irq_keep
    | with_reducible apply State.settleTurns_keep
    | with_reducible apply State.flushPba_keep
    | with_reducible apply keep_foldl
    | (intro _)
    | split

theorem execD3hot_keep {v0 : Nat} {v1 : Bool} {v2 : State} {t : State} (e : execD3hot v0 v1 v2 = .next t) : Keep v2 t := by
  refine keep_next ?_ e
  have h := Keep.refl v2
  repeat' first
    | with_reducible assumption
    | with_reducible apply State.modFunc_keep
    | with_reducible apply State.flushPba_keep
    | simp only [keep_mk]
    | with_reducible refine keep_ite (fun _ => ?_) (fun _ => ?_)

theorem State.present_keep {a : State} {v0 : State} {v1 : Nat} (h : Keep a v0) : Keep a (State.present v0 v1) := by
  unfold State.present
  (try dsimp only)
  repeat' first
    | with_reducible assumption
    | simp only [keep_mk]
    | with_reducible refine keep_ite (fun _ => ?_) (fun _ => ?_)

theorem execBusMasterEnable_keep {v0 : Nat} {v1 : Bool} {v2 : State} {t : State} (e : execBusMasterEnable v0 v1 v2 = .next t) : Keep v2 t := by
  refine keep_next ?_ e
  have h := Keep.refl v2
  repeat' first
    | with_reducible assumption
    | with_reducible apply State.modFunc_keep
    | with_reducible apply State.present_keep
    | with_reducible apply State.flushPba_keep
    | simp only [keep_mk]
    | with_reducible refine keep_ite (fun _ => ?_) (fun _ => ?_)

theorem State.withdraw_keep {a : State} {v0 : State} {v1 : Nat} {v2 : Task} (h : Keep a v0) : Keep a (State.withdraw v0 v1 v2) := by
  unfold State.withdraw
  (try dsimp only)
  repeat' first
    | with_reducible assumption
    | with_reducible apply State.endTask_keep
    | with_reducible apply State.modTile_keep
    | with_reducible apply State.dropTask_keep
    | split

theorem execAlertResponse_keep {v0 : State} {t : State} (e : execAlertResponse v0 = .next t) : Keep v0 t := by
  refine keep_next ?_ e
  have h := Keep.refl v0
  repeat' first
    | with_reducible assumption
    | with_reducible apply State.emit_keep
    | simp only [keep_mk]
    | with_reducible refine keep_ite (fun _ => ?_) (fun _ => ?_)

theorem State.smbus_keep {a : State} {v0 : State} {v1 : Byte} {v2 : List Byte} (h : Keep a v0) : Keep a (State.smbus v0 v1 v2) := by
  unfold State.smbus
  (try dsimp only)
  repeat' first
    | with_reducible assumption
    | with_reducible apply State.emit_keep
    | split

theorem execSmbusNodeId_keep {v0 : State} {t : State} (e : execSmbusNodeId v0 = .next t) : Keep v0 t := by
  refine keep_next ?_ e
  have h := Keep.refl v0
  repeat' first
    | with_reducible exact Keep.refl _
    | with_reducible apply State.smbus_keep

theorem State.flr_keep {a : State} {v0 : State} {v1 : Nat} (h : Keep a v0) : Keep a (State.flr v0 v1) := by
  unfold State.flr
  (try dsimp only)
  repeat' first
    | with_reducible assumption
    | with_reducible exact Keep.refl _
    | with_reducible apply State.withdraw_keep
    | with_reducible apply State.modQueue_keep
    | with_reducible apply State.modFunc_keep
    | with_reducible apply State.settleTurns_keep
    | with_reducible apply State.settle_keep
    | with_reducible apply State.closeWindow_keep
    | with_reducible apply keep_foldl
    | (intro _)

theorem execSmbusState_keep {v0 : State} {t : State} (e : execSmbusState v0 = .next t) : Keep v0 t := by
  refine keep_next ?_ e
  have h := Keep.refl v0
  repeat' first
    | with_reducible exact Keep.refl _
    | with_reducible apply State.smbus_keep

theorem execSmbusTj_keep {v0 : State} {t : State} (e : execSmbusTj v0 = .next t) : Keep v0 t := by
  refine keep_next ?_ e
  have h := Keep.refl v0
  repeat' first
    | with_reducible exact Keep.refl _
    | with_reducible apply State.smbus_keep

theorem execSmbusTjMax_keep {v0 : State} {t : State} (e : execSmbusTjMax v0 = .next t) : Keep v0 t := by
  refine keep_next ?_ e
  have h := Keep.refl v0
  repeat' first
    | with_reducible exact Keep.refl _
    | with_reducible apply State.smbus_keep

theorem execMemorySpaceEnable_keep {v0 : Nat} {v1 : Bool} {v2 : State} {t : State} (e : execMemorySpaceEnable v0 v1 v2 = .next t) : Keep v2 t := by
  refine keep_next ?_ e
  have h := Keep.refl v2
  repeat' first
    | with_reducible assumption
    | with_reducible apply State.modFunc_keep
    | with_reducible apply State.present_keep
    | with_reducible refine keep_ite (fun _ => ?_) (fun _ => ?_)

theorem execSmbusProfile_keep {v0 : State} {t : State} (e : execSmbusProfile v0 = .next t) : Keep v0 t := by
  refine keep_next ?_ e
  have h := Keep.refl v0
  repeat' first
    | with_reducible exact Keep.refl _
    | with_reducible apply State.smbus_keep

theorem execSmbusSerialNumber_keep {v0 : State} {t : State} (e : execSmbusSerialNumber v0 = .next t) : Keep v0 t := by
  refine keep_next ?_ e
  have h := Keep.refl v0
  repeat' first
    | with_reducible exact Keep.refl _
    | with_reducible apply State.smbus_keep

theorem execSmbusUnlistedRead_keep {v0 : BitVec 8} {v1 : State} {t : State} (e : execSmbusUnlistedRead v0 v1 = .next t) : Keep v1 t := by
  refine keep_next ?_ e
  have h := Keep.refl v1
  repeat' first
    | with_reducible exact Keep.refl _
    | with_reducible apply State.smbus_keep
    | split

theorem execSmbusWrite_keep {v0 : BitVec 8} {v1 : List Byte} {v2 : State} {t : State} (e : execSmbusWrite v0 v1 v2 = .next t) : Keep v2 t := by
  refine keep_next ?_ e
  have h := Keep.refl v2
  repeat' first
    | with_reducible assumption
    | with_reducible apply State.emit_keep
    | with_reducible refine keep_ite (fun _ => ?_) (fun _ => ?_)

end Sys2Proof.Machine
end

