-- ==== Sys2Proof/Laws/Words.lean ====
section
/-! SUPPORT. Reads after writes of the sparse tables and the byte memories, and the canonical form that every memory operation keeps. -/

namespace Sys2Proof

/-! ## Tables -/

@[simp] theorem Tab.get_put_same {α : Type} (d : α) (t : Tab α) (k : Nat) (v : α) : Tab.get d (Tab.put t k v) k = v := by
  induction t with
  | nil => simp [Tab.put, Tab.get]
  | cons e t ih =>
    obtain ⟨j, w⟩ := e
    grind [Tab.put, Tab.get]

theorem Tab.get_put_other {α : Type} (d : α) (t : Tab α) (k n : Nat) (v : α) (h : n ≠ k) : Tab.get d (Tab.put t k v) n = Tab.get d t n := by
  induction t with
  | nil => grind [Tab.put, Tab.get]
  | cons e t ih =>
    obtain ⟨j, w⟩ := e
    grind [Tab.put, Tab.get]

/-! ## Byte memories -/

theorem Mem.wfFrom_mono {d : Byte} {m : Mem} {a b : Nat} (hab : a ≤ b) (h : Mem.wfFrom d b m = true) : Mem.wfFrom d a m = true := by
  cases m with
  | nil => rfl
  | cons e m =>
    obtain ⟨j, v⟩ := e
    simp only [Mem.wfFrom, Bool.and_eq_true, decide_eq_true_eq] at *
    exact ⟨⟨by omega, h.1.2⟩, h.2⟩

/-- Below its first address a memory reads the default. -/
theorem Mem.get_below {d : Byte} {m : Mem} {lo a : Nat} (h : Mem.wfFrom d lo m = true) (ha : a < lo) : Mem.get d m a = d := by
  cases m with
  | nil => rfl
  | cons e m =>
    obtain ⟨j, v⟩ := e
    simp only [Mem.wfFrom, Bool.and_eq_true, decide_eq_true_eq] at h
    have h1 : j ≠ a := by omega
    have h2 : a < j := by omega
    simp [Mem.get, h1, h2]

/-- What a read of one byte gives after a write of one byte. -/
theorem Mem.get_put {d : Byte} {m : Mem} {lo : Nat} (h : Mem.wfFrom d lo m = true) (a n : Nat) (b : Byte) :
    Mem.get d (Mem.put d m a b) n = if n = a then b else Mem.get d m n := by
  induction m generalizing lo with
  | nil => grind [Mem.put, Mem.get]
  | cons e m ih =>
    obtain ⟨j, v⟩ := e
    simp only [Mem.wfFrom, Bool.and_eq_true, decide_eq_true_eq] at h
    have hb : n < j + 1 → Mem.get d m n = d := fun hn => Mem.get_below h.2 hn
    have ih := ih h.2
    grind [Mem.put, Mem.get]

/-- A write of one byte keeps the canonical form. -/
theorem Mem.wfFrom_put {d : Byte} {m : Mem} {lo a : Nat} {b : Byte} (h : Mem.wfFrom d lo m = true) (ha : lo ≤ a) :
    Mem.wfFrom d lo (Mem.put d m a b) = true := by
  induction m generalizing lo with
  | nil =>
    unfold Mem.put
    split
    · rfl
    · simp_all [Mem.wfFrom]
  | cons e m ih =>
    obtain ⟨j, v⟩ := e
    have h0 := h
    simp only [Mem.wfFrom, Bool.and_eq_true, decide_eq_true_eq] at h
    unfold Mem.put
    split
    · split
      · exact h0
      · simp only [Mem.wfFrom, Bool.and_eq_true, decide_eq_true_eq]
        exact ⟨⟨ha, by simp_all⟩, ⟨by omega, h.1.2⟩, h.2⟩
    · split
      · split
        · exact Mem.wfFrom_mono (by omega) h.2
        · simp only [Mem.wfFrom, Bool.and_eq_true, decide_eq_true_eq]
          exact ⟨⟨ha, by simp_all⟩, Mem.wfFrom_mono (by omega) h.2⟩
      · simp only [Mem.wfFrom, Bool.and_eq_true, decide_eq_true_eq]
        exact ⟨h.1, ih h.2 (by omega)⟩

theorem Mem.wf_put {d : Byte} {m : Mem} {a : Nat} {b : Byte} (h : Mem.wf d m = true) : Mem.wf d (Mem.put d m a b) = true :=
  Mem.wfFrom_put h (Nat.zero_le a)

/-- Keeping some of the entries keeps the canonical form. -/
theorem Mem.wfFrom_filter {d : Byte} {m : Mem} {lo : Nat} (p : Nat × Byte → Bool) (h : Mem.wfFrom d lo m = true) :
    Mem.wfFrom d lo (m.filter p) = true := by
  induction m generalizing lo with
  | nil => rfl
  | cons e m ih =>
    obtain ⟨j, v⟩ := e
    simp only [Mem.wfFrom, Bool.and_eq_true, decide_eq_true_eq] at h
    rw [List.filter_cons]
    split
    · simp only [Mem.wfFrom, Bool.and_eq_true, decide_eq_true_eq]
      exact ⟨h.1, ih h.2⟩
    · exact Mem.wfFrom_mono (by omega) (ih h.2)

/-- Two memories one behind the other. -/
theorem Mem.wfFrom_append {d : Byte} {m n : Mem} {lo mid : Nat} (h : Mem.wfFrom d lo m = true) (hn : Mem.wfFrom d mid n = true)
    (hlt : ∀ e ∈ m, e.1 < mid) (hlo : lo ≤ mid) : Mem.wfFrom d lo (m ++ n) = true := by
  induction m generalizing lo with
  | nil => exact Mem.wfFrom_mono hlo hn
  | cons e m ih =>
    obtain ⟨j, v⟩ := e
    simp only [Mem.wfFrom, Bool.and_eq_true, decide_eq_true_eq] at h
    have hj : j < mid := hlt (j, v) (List.mem_cons_self ..)
    simp only [List.cons_append, Mem.wfFrom, Bool.and_eq_true, decide_eq_true_eq]
    exact ⟨h.1, ih h.2 (fun e he => hlt e (List.mem_cons_of_mem _ he)) (by omega)⟩

end Sys2Proof

namespace Sys2Proof.Machine

/-- A write of a byte string keeps the canonical form. -/
theorem Mem.wf_write {d : Byte} {m : Mem} {a : Nat} {l : List Byte} (h : Mem.wf d m = true) : Mem.wf d (Mem.write d m a l) = true := by
  induction l generalizing m a with
  | nil => exact h
  | cons b l ih => exact ih (Mem.wf_put h)

/-- A write of listed bytes keeps the canonical form. -/
theorem Mem.wf_writeAt {d : Byte} {m : Mem} {l : List (Nat × Byte)} (h : Mem.wf d m = true) : Mem.wf d (Mem.writeAt d m l) = true := by
  induction l generalizing m with
  | nil => exact h
  | cons e l ih => exact ih (Mem.wf_put h)

/-- A byte that a write of a byte string does not cover reads as before; one that it covers reads the byte written. -/
theorem Mem.get_write {d : Byte} {m : Mem} {a n : Nat} {l : List Byte} (h : Mem.wf d m = true) :
    Mem.get d (Mem.write d m a l) n = if a ≤ n ∧ n < a + l.length then l.getD (n - a) d else Mem.get d m n := by
  induction l generalizing m a with
  | nil =>
    have h1 : ¬ (a ≤ n ∧ n < a + ([] : List Byte).length) := by simp
    rw [if_neg h1]; rfl
  | cons b l ih =>
    rw [Mem.write, ih (Mem.wf_put h), Mem.get_put h]
    by_cases hn : n = a
    · subst hn
      have h1 : ¬ (n + 1 ≤ n ∧ n < n + 1 + l.length) := by omega
      simp [h1]
    · by_cases hc : a + 1 ≤ n ∧ n < a + 1 + l.length
      · have h2 : a ≤ n ∧ n < a + (b :: l).length := by simp; omega
        rw [if_pos hc, if_pos h2]
        obtain ⟨k, rfl⟩ : ∃ k, n = a + 1 + k := ⟨n - (a + 1), by omega⟩
        rw [show a + 1 + k - a = k + 1 by omega, show a + 1 + k - (a + 1) = k by omega]
        simp
      · have h2 : ¬ (a ≤ n ∧ n < a + (b :: l).length) := by simp; omega
        rw [if_neg hc, if_neg h2, if_neg hn]

/-- A write of listed bytes leaves every address that is not listed alone. -/
theorem Mem.get_writeAt_other {d : Byte} {m : Mem} {n : Nat} {l : List (Nat × Byte)} (h : Mem.wf d m = true) (hn : ∀ e ∈ l, e.1 ≠ n) :
    Mem.get d (Mem.writeAt d m l) n = Mem.get d m n := by
  induction l generalizing m with
  | nil => rfl
  | cons e l ih =>
    rw [Mem.writeAt, ih (Mem.wf_put h) fun x hx => hn x (List.mem_cons_of_mem _ hx), Mem.get_put h]
    have := hn e (List.mem_cons_self ..)
    have h2 : ¬ n = e.1 := fun q => this q.symm
    simp [h2]

theorem bytesAt_lt {a : Nat} {l : List Byte} : ∀ e ∈ bytesAt a l, a ≤ e.1 ∧ e.1 < a + l.length := by
  induction l generalizing a with
  | nil => intro e he; cases he
  | cons b l ih =>
    intro e he
    simp only [bytesAt, List.mem_cons] at he
    rcases he with rfl | he
    · simp
    · have := ih e he
      simp; omega

theorem bytesAt_wf {d : Byte} {a : Nat} {l : List Byte} : Mem.wfFrom d a ((bytesAt a l).filter fun e => e.2 != d) = true := by
  induction l generalizing a with
  | nil => rfl
  | cons b l ih =>
    rw [bytesAt, List.filter_cons]
    split
    · rename_i hb
      simp only [Mem.wfFrom, Bool.and_eq_true, decide_eq_true_eq]
      refine ⟨⟨Nat.le_refl _, ?_⟩, ih⟩
      simpa using hb
    · exact Mem.wfFrom_mono (by omega) ih

/-- An erase and a program of the flash keep the canonical form. -/
theorem flashPut_wf {m : Mem} {a n : Nat} {l : List Byte} (h : Mem.wf 0xFF m = true) : Mem.wf 0xFF (flashPut m a n l) = true := by
  unfold flashPut Mem.wf
  rw [List.append_assoc]
  have hlen : (l.take n).length ≤ n := by rw [List.length_take]; omega
  refine Mem.wfFrom_append (mid := a) (Mem.wfFrom_filter _ h) ?_ ?_ (Nat.zero_le a)
  · refine Mem.wfFrom_append (mid := a + n) bytesAt_wf ?_ ?_ (by omega)
    · have : ∀ (lo : Nat), Mem.wfFrom 0xFF lo m = true →
          Mem.wfFrom 0xFF (a + n) (m.filter fun e => decide (a + n ≤ e.1)) = true := by
        intro lo hm
        induction m generalizing lo with
        | nil => rfl
        | cons e m ih =>
          obtain ⟨j, v⟩ := e
          simp only [Mem.wfFrom, Bool.and_eq_true, decide_eq_true_eq] at hm
          rw [List.filter_cons]
          split
          · rename_i hj
            simp only [Mem.wfFrom, Bool.and_eq_true, decide_eq_true_eq]
            exact ⟨⟨by simpa using hj, hm.1.2⟩, Mem.wfFrom_filter _ hm.2⟩
          · exact ih (by exact Mem.wfFrom_mono (Nat.zero_le _) hm.2) (j + 1) hm.2
      exact this 0 h
    · intro e he
      have := bytesAt_lt e (List.mem_filter.1 he).1
      omega
  · intro e he
    simpa using (List.mem_filter.1 he).2

/-- Bytes programmed over erased flash keep the canonical form. -/
theorem flashProgram_wf {m : Mem} {a : Nat} {l : List Byte} (h : Mem.wf 0xFF m = true) : Mem.wf 0xFF (flashProgram m a l) = true :=
  flashPut_wf h

end Sys2Proof.Machine
end

