-- ==== Sys2Proof/Laws/Reports.lean ====
section
/-! SUPPORT. What log entries, interrupts and the pins that report leave alone. -/

namespace Sys2Proof.Machine

theorem State.Reported.refl (s : State) : s.Reported s := ⟨rfl, fun _ => rfl, ⟨[], by simp⟩, ⟨[], rfl⟩⟩

theorem State.Reported.trans {a b c : State} (h : a.Reported b) (k : b.Reported c) : a.Reported c := by
  obtain ⟨l, hl⟩ := h.queue
  obtain ⟨l', hl'⟩ := k.queue
  obtain ⟨o, ho⟩ := h.out
  obtain ⟨o', ho'⟩ := k.out
  refine ⟨?_, fun n => by rw [k.funcs n, h.funcs n], ⟨l ++ l', by rw [hl', hl, List.append_assoc]⟩, ⟨o' ++ o, by rw [ho', ho, List.append_assoc]⟩⟩
  have f := h.frame
  have g := k.frame
  rw [g]
  simp only
  rw [f]

theorem State.logSev_reported (s : State) (src : BitVec 16) (ev : Ev) (sev : BitVec 8) (loc : BitVec 64) (i0 i1 : Option Word) :
    s.Reported (s.logSev src ev sev loc i0 i1) := by
  cases i0 <;> cases i1 <;> exact ⟨rfl, fun _ => rfl, ⟨_, rfl⟩, ⟨[], rfl⟩⟩

theorem State.logEv_reported (s : State) (src : BitVec 16) (ev : Ev) (loc : BitVec 64) (i0 i1 : Option Word) :
    s.Reported (s.logEv src ev loc i0 i1) := State.logSev_reported ..

theorem State.emit_reported (s : State) (e : OutEvent) : s.Reported (s.emit e) := ⟨rfl, fun _ => rfl, ⟨[], by simp [State.emit]⟩, ⟨[e], rfl⟩⟩

theorem State.pba_reported (s : State) (f : Nat) (g : BitVec 32 → BitVec 32) : s.Reported (s.modFunc f fun x => { x with pba := g x.pba }) := by
  refine ⟨rfl, fun n => ?_, ⟨[], by simp [State.modFunc]⟩, ⟨[], rfl⟩⟩
  by_cases h : n = f
  · subst h; simp [State.func, State.modFunc]
  · simp [State.func, State.modFunc, Tab.get_put_other, h]

theorem State.msix_reported (s : State) (f e : Nat) (held : Bool) : s.Reported (s.msix f e held) := by
  unfold State.msix
  dsimp only
  split
  · exact State.pba_reported s f fun x => x ||| BitVec.ofNat 32 (2 ^ e)
  · exact State.emit_reported ..

theorem State.reported_foldl {α : Type} {a s : State} {f : State → α → State} {l : List α} (hs : a.Reported s) (h : ∀ (b : State) (x : α), b.Reported (f b x)) :
    a.Reported (l.foldl f s) := by
  induction l generalizing s with
  | nil => exact hs
  | cons x l ih => exact ih (hs.trans (h s x))

theorem State.flushPba_reported (s : State) (f : Nat) : s.Reported (s.flushPba f) := by
  unfold State.flushPba
  refine State.reported_foldl (State.Reported.refl s) fun b e => ?_
  dsimp only
  split
  · exact (State.pba_reported b f fun x => x &&& ~~~(BitVec.ofNat 32 (2 ^ e))).trans (State.emit_reported ..)
  · exact State.Reported.refl b

theorem State.irqBit_reported (s : State) (v : BitVec 4) : s.Reported { s with glb := { s.glb with irq := v } } :=
  ⟨rfl, fun _ => rfl, ⟨[], by simp⟩, ⟨[], rfl⟩⟩

theorem State.irq_reported (s : State) (i : Nat) : s.Reported (s.irq i) := by
  unfold State.irq
  split
  · exact State.Reported.refl s
  · dsimp only
    split
    · exact State.irqBit_reported ..
    · exact (State.irqBit_reported ..).trans (State.msix_reported ..)

theorem State.syncFaultN_reported (s : State) : s.Reported s.syncFaultN := ⟨rfl, fun _ => rfl, ⟨[], by simp [State.syncFaultN]⟩, ⟨[], rfl⟩⟩

/-! ## What follows for single fields -/

section
variable {s t : State} (h : s.Reported t)
include h

theorem State.Reported.hold : t.hold = s.hold := by rw [h.frame]
theorem State.Reported.svc : t.svc = s.svc := by rw [h.frame]
theorem State.Reported.st : t.glb.st = s.glb.st := by rw [h.frame]
theorem State.Reported.time : t.glb.time = s.glb.time := by rw [h.frame]
theorem State.Reported.tiles : t.tiles = s.tiles := by rw [h.frame]
theorem State.Reported.sched : t.sched = s.sched := by rw [h.frame]
theorem State.Reported.mesh : t.mesh = s.mesh := by rw [h.frame]
theorem State.Reported.flash : t.flash = s.flash := by rw [h.frame]
theorem State.Reported.pending : t.pending = s.pending := by rw [h.frame]
end

end Sys2Proof.Machine
end

