-- ==== Sys2Proof/Laws/State.lean ====
section
/-! SUPPORT. Each field of the state under each elementary update: the field that changes and the fields that do not. -/

namespace Sys2Proof.Machine

variable (s : State)

/-! ### setTile -/

@[simp] theorem State.setTile_glb (p : Nat) (x : Tile) : (s.setTile p x).glb = s.glb := rfl
@[simp] theorem State.setTile_pins (p : Nat) (x : Tile) : (s.setTile p x).pins = s.pins := rfl
@[simp] theorem State.setTile_hold (p : Nat) (x : Tile) : (s.setTile p x).hold = s.hold := rfl
@[simp] theorem State.setTile_funcs (p : Nat) (x : Tile) : (s.setTile p x).funcs = s.funcs := rfl
@[simp] theorem State.setTile_tmap (p : Nat) (x : Tile) : (s.setTile p x).tmap = s.tmap := rfl
@[simp] theorem State.setTile_tiles (p : Nat) (x : Tile) : (s.setTile p x).tiles = Tab.put s.tiles p x := rfl
@[simp] theorem State.setTile_sched (p : Nat) (x : Tile) : (s.setTile p x).sched = s.sched := rfl
@[simp] theorem State.setTile_rig (p : Nat) (x : Tile) : (s.setTile p x).rig = s.rig := rfl
@[simp] theorem State.setTile_shadow (p : Nat) (x : Tile) : (s.setTile p x).shadow = s.shadow := rfl
@[simp] theorem State.setTile_bights (p : Nat) (x : Tile) : (s.setTile p x).bights = s.bights := rfl
@[simp] theorem State.setTile_svc (p : Nat) (x : Tile) : (s.setTile p x).svc = s.svc := rfl
@[simp] theorem State.setTile_flash (p : Nat) (x : Tile) : (s.setTile p x).flash = s.flash := rfl
@[simp] theorem State.setTile_journal (p : Nat) (x : Tile) : (s.setTile p x).journal = s.journal := rfl
@[simp] theorem State.setTile_elog (p : Nat) (x : Tile) : (s.setTile p x).elog = s.elog := rfl
@[simp] theorem State.setTile_chans (p : Nat) (x : Tile) : (s.setTile p x).chans = s.chans := rfl
@[simp] theorem State.setTile_exp (p : Nat) (x : Tile) : (s.setTile p x).exp = s.exp := rfl
@[simp] theorem State.setTile_grm (p : Nat) (x : Tile) : (s.setTile p x).grm = s.grm := rfl
@[simp] theorem State.setTile_mesh (p : Nat) (x : Tile) : (s.setTile p x).mesh = s.mesh := rfl
@[simp] theorem State.setTile_hreads (p : Nat) (x : Tile) : (s.setTile p x).hreads = s.hreads := rfl
@[simp] theorem State.setTile_out (p : Nat) (x : Tile) : (s.setTile p x).out = s.out := rfl
@[simp] theorem State.setTile_fresh (p : Nat) (x : Tile) : (s.setTile p x).fresh = s.fresh := rfl
@[simp] theorem State.setTile_pending (p : Nat) (x : Tile) : (s.setTile p x).pending = s.pending := rfl

/-! ### modTile -/

@[simp] theorem State.modTile_glb (p : Nat) (f : Tile → Tile) : (s.modTile p f).glb = s.glb := rfl
@[simp] theorem State.modTile_pins (p : Nat) (f : Tile → Tile) : (s.modTile p f).pins = s.pins := rfl
@[simp] theorem State.modTile_hold (p : Nat) (f : Tile → Tile) : (s.modTile p f).hold = s.hold := rfl
@[simp] theorem State.modTile_funcs (p : Nat) (f : Tile → Tile) : (s.modTile p f).funcs = s.funcs := rfl
@[simp] theorem State.modTile_tmap (p : Nat) (f : Tile → Tile) : (s.modTile p f).tmap = s.tmap := rfl
@[simp] theorem State.modTile_tiles (p : Nat) (f : Tile → Tile) : (s.modTile p f).tiles = Tab.put s.tiles p (f (s.tile p)) := rfl
@[simp] theorem State.modTile_sched (p : Nat) (f : Tile → Tile) : (s.modTile p f).sched = s.sched := rfl
@[simp] theorem State.modTile_rig (p : Nat) (f : Tile → Tile) : (s.modTile p f).rig = s.rig := rfl
@[simp] theorem State.modTile_shadow (p : Nat) (f : Tile → Tile) : (s.modTile p f).shadow = s.shadow := rfl
@[simp] theorem State.modTile_bights (p : Nat) (f : Tile → Tile) : (s.modTile p f).bights = s.bights := rfl
@[simp] theorem State.modTile_svc (p : Nat) (f : Tile → Tile) : (s.modTile p f).svc = s.svc := rfl
@[simp] theorem State.modTile_flash (p : Nat) (f : Tile → Tile) : (s.modTile p f).flash = s.flash := rfl
@[simp] theorem State.modTile_journal (p : Nat) (f : Tile → Tile) : (s.modTile p f).journal = s.journal := rfl
@[simp] theorem State.modTile_elog (p : Nat) (f : Tile → Tile) : (s.modTile p f).elog = s.elog := rfl
@[simp] theorem State.modTile_chans (p : Nat) (f : Tile → Tile) : (s.modTile p f).chans = s.chans := rfl
@[simp] theorem State.modTile_exp (p : Nat) (f : Tile → Tile) : (s.modTile p f).exp = s.exp := rfl
@[simp] theorem State.modTile_grm (p : Nat) (f : Tile → Tile) : (s.modTile p f).grm = s.grm := rfl
@[simp] theorem State.modTile_mesh (p : Nat) (f : Tile → Tile) : (s.modTile p f).mesh = s.mesh := rfl
@[simp] theorem State.modTile_hreads (p : Nat) (f : Tile → Tile) : (s.modTile p f).hreads = s.hreads := rfl
@[simp] theorem State.modTile_out (p : Nat) (f : Tile → Tile) : (s.modTile p f).out = s.out := rfl
@[simp] theorem State.modTile_fresh (p : Nat) (f : Tile → Tile) : (s.modTile p f).fresh = s.fresh := rfl
@[simp] theorem State.modTile_pending (p : Nat) (f : Tile → Tile) : (s.modTile p f).pending = s.pending := rfl

/-! ### modStrand -/

@[simp] theorem State.modStrand_glb (p k : Nat) (f : Strand → Strand) : (s.modStrand p k f).glb = s.glb := rfl
@[simp] theorem State.modStrand_pins (p k : Nat) (f : Strand → Strand) : (s.modStrand p k f).pins = s.pins := rfl
@[simp] theorem State.modStrand_hold (p k : Nat) (f : Strand → Strand) : (s.modStrand p k f).hold = s.hold := rfl
@[simp] theorem State.modStrand_funcs (p k : Nat) (f : Strand → Strand) : (s.modStrand p k f).funcs = s.funcs := rfl
@[simp] theorem State.modStrand_tmap (p k : Nat) (f : Strand → Strand) : (s.modStrand p k f).tmap = s.tmap := rfl
@[simp] theorem State.modStrand_tiles (p k : Nat) (f : Strand → Strand) : (s.modStrand p k f).tiles = Tab.put s.tiles p ((s.tile p).setStrand k (f ((s.tile p).strand k))) := rfl
@[simp] theorem State.modStrand_sched (p k : Nat) (f : Strand → Strand) : (s.modStrand p k f).sched = s.sched := rfl
@[simp] theorem State.modStrand_rig (p k : Nat) (f : Strand → Strand) : (s.modStrand p k f).rig = s.rig := rfl
@[simp] theorem State.modStrand_shadow (p k : Nat) (f : Strand → Strand) : (s.modStrand p k f).shadow = s.shadow := rfl
@[simp] theorem State.modStrand_bights (p k : Nat) (f : Strand → Strand) : (s.modStrand p k f).bights = s.bights := rfl
@[simp] theorem State.modStrand_svc (p k : Nat) (f : Strand → Strand) : (s.modStrand p k f).svc = s.svc := rfl
@[simp] theorem State.modStrand_flash (p k : Nat) (f : Strand → Strand) : (s.modStrand p k f).flash = s.flash := rfl
@[simp] theorem State.modStrand_journal (p k : Nat) (f : Strand → Strand) : (s.modStrand p k f).journal = s.journal := rfl
@[simp] theorem State.modStrand_elog (p k : Nat) (f : Strand → Strand) : (s.modStrand p k f).elog = s.elog := rfl
@[simp] theorem State.modStrand_chans (p k : Nat) (f : Strand → Strand) : (s.modStrand p k f).chans = s.chans := rfl
@[simp] theorem State.modStrand_exp (p k : Nat) (f : Strand → Strand) : (s.modStrand p k f).exp = s.exp := rfl
@[simp] theorem State.modStrand_grm (p k : Nat) (f : Strand → Strand) : (s.modStrand p k f).grm = s.grm := rfl
@[simp] theorem State.modStrand_mesh (p k : Nat) (f : Strand → Strand) : (s.modStrand p k f).mesh = s.mesh := rfl
@[simp] theorem State.modStrand_hreads (p k : Nat) (f : Strand → Strand) : (s.modStrand p k f).hreads = s.hreads := rfl
@[simp] theorem State.modStrand_out (p k : Nat) (f : Strand → Strand) : (s.modStrand p k f).out = s.out := rfl
@[simp] theorem State.modStrand_fresh (p k : Nat) (f : Strand → Strand) : (s.modStrand p k f).fresh = s.fresh := rfl
@[simp] theorem State.modStrand_pending (p k : Nat) (f : Strand → Strand) : (s.modStrand p k f).pending = s.pending := rfl

/-! ### modFunc -/

@[simp] theorem State.modFunc_glb (n : Nat) (f : Func → Func) : (s.modFunc n f).glb = s.glb := rfl
@[simp] theorem State.modFunc_pins (n : Nat) (f : Func → Func) : (s.modFunc n f).pins = s.pins := rfl
@[simp] theorem State.modFunc_hold (n : Nat) (f : Func → Func) : (s.modFunc n f).hold = s.hold := rfl
@[simp] theorem State.modFunc_funcs (n : Nat) (f : Func → Func) : (s.modFunc n f).funcs = Tab.put s.funcs n (f (s.func n)) := rfl
@[simp] theorem State.modFunc_tmap (n : Nat) (f : Func → Func) : (s.modFunc n f).tmap = s.tmap := rfl
@[simp] theorem State.modFunc_tiles (n : Nat) (f : Func → Func) : (s.modFunc n f).tiles = s.tiles := rfl
@[simp] theorem State.modFunc_sched (n : Nat) (f : Func → Func) : (s.modFunc n f).sched = s.sched := rfl
@[simp] theorem State.modFunc_rig (n : Nat) (f : Func → Func) : (s.modFunc n f).rig = s.rig := rfl
@[simp] theorem State.modFunc_shadow (n : Nat) (f : Func → Func) : (s.modFunc n f).shadow = s.shadow := rfl
@[simp] theorem State.modFunc_bights (n : Nat) (f : Func → Func) : (s.modFunc n f).bights = s.bights := rfl
@[simp] theorem State.modFunc_svc (n : Nat) (f : Func → Func) : (s.modFunc n f).svc = s.svc := rfl
@[simp] theorem State.modFunc_flash (n : Nat) (f : Func → Func) : (s.modFunc n f).flash = s.flash := rfl
@[simp] theorem State.modFunc_journal (n : Nat) (f : Func → Func) : (s.modFunc n f).journal = s.journal := rfl
@[simp] theorem State.modFunc_elog (n : Nat) (f : Func → Func) : (s.modFunc n f).elog = s.elog := rfl
@[simp] theorem State.modFunc_chans (n : Nat) (f : Func → Func) : (s.modFunc n f).chans = s.chans := rfl
@[simp] theorem State.modFunc_exp (n : Nat) (f : Func → Func) : (s.modFunc n f).exp = s.exp := rfl
@[simp] theorem State.modFunc_grm (n : Nat) (f : Func → Func) : (s.modFunc n f).grm = s.grm := rfl
@[simp] theorem State.modFunc_mesh (n : Nat) (f : Func → Func) : (s.modFunc n f).mesh = s.mesh := rfl
@[simp] theorem State.modFunc_hreads (n : Nat) (f : Func → Func) : (s.modFunc n f).hreads = s.hreads := rfl
@[simp] theorem State.modFunc_out (n : Nat) (f : Func → Func) : (s.modFunc n f).out = s.out := rfl
@[simp] theorem State.modFunc_fresh (n : Nat) (f : Func → Func) : (s.modFunc n f).fresh = s.fresh := rfl
@[simp] theorem State.modFunc_pending (n : Nat) (f : Func → Func) : (s.modFunc n f).pending = s.pending := rfl

/-! ### modChan -/

@[simp] theorem State.modChan_glb (c : Nat) (f : Chan → Chan) : (s.modChan c f).glb = s.glb := rfl
@[simp] theorem State.modChan_pins (c : Nat) (f : Chan → Chan) : (s.modChan c f).pins = s.pins := rfl
@[simp] theorem State.modChan_hold (c : Nat) (f : Chan → Chan) : (s.modChan c f).hold = s.hold := rfl
@[simp] theorem State.modChan_funcs (c : Nat) (f : Chan → Chan) : (s.modChan c f).funcs = s.funcs := rfl
@[simp] theorem State.modChan_tmap (c : Nat) (f : Chan → Chan) : (s.modChan c f).tmap = s.tmap := rfl
@[simp] theorem State.modChan_tiles (c : Nat) (f : Chan → Chan) : (s.modChan c f).tiles = s.tiles := rfl
@[simp] theorem State.modChan_sched (c : Nat) (f : Chan → Chan) : (s.modChan c f).sched = s.sched := rfl
@[simp] theorem State.modChan_rig (c : Nat) (f : Chan → Chan) : (s.modChan c f).rig = s.rig := rfl
@[simp] theorem State.modChan_shadow (c : Nat) (f : Chan → Chan) : (s.modChan c f).shadow = s.shadow := rfl
@[simp] theorem State.modChan_bights (c : Nat) (f : Chan → Chan) : (s.modChan c f).bights = s.bights := rfl
@[simp] theorem State.modChan_svc (c : Nat) (f : Chan → Chan) : (s.modChan c f).svc = s.svc := rfl
@[simp] theorem State.modChan_flash (c : Nat) (f : Chan → Chan) : (s.modChan c f).flash = s.flash := rfl
@[simp] theorem State.modChan_journal (c : Nat) (f : Chan → Chan) : (s.modChan c f).journal = s.journal := rfl
@[simp] theorem State.modChan_elog (c : Nat) (f : Chan → Chan) : (s.modChan c f).elog = s.elog := rfl
@[simp] theorem State.modChan_chans (c : Nat) (f : Chan → Chan) : (s.modChan c f).chans = Tab.put s.chans c (f (s.chan c)) := rfl
@[simp] theorem State.modChan_exp (c : Nat) (f : Chan → Chan) : (s.modChan c f).exp = s.exp := rfl
@[simp] theorem State.modChan_grm (c : Nat) (f : Chan → Chan) : (s.modChan c f).grm = s.grm := rfl
@[simp] theorem State.modChan_mesh (c : Nat) (f : Chan → Chan) : (s.modChan c f).mesh = s.mesh := rfl
@[simp] theorem State.modChan_hreads (c : Nat) (f : Chan → Chan) : (s.modChan c f).hreads = s.hreads := rfl
@[simp] theorem State.modChan_out (c : Nat) (f : Chan → Chan) : (s.modChan c f).out = s.out := rfl
@[simp] theorem State.modChan_fresh (c : Nat) (f : Chan → Chan) : (s.modChan c f).fresh = s.fresh := rfl
@[simp] theorem State.modChan_pending (c : Nat) (f : Chan → Chan) : (s.modChan c f).pending = s.pending := rfl

/-! ### modPort -/

@[simp] theorem State.modPort_glb (p : Nat) (f : Port → Port) : (s.modPort p f).glb = s.glb := rfl
@[simp] theorem State.modPort_pins (p : Nat) (f : Port → Port) : (s.modPort p f).pins = s.pins := rfl
@[simp] theorem State.modPort_hold (p : Nat) (f : Port → Port) : (s.modPort p f).hold = s.hold := rfl
@[simp] theorem State.modPort_funcs (p : Nat) (f : Port → Port) : (s.modPort p f).funcs = s.funcs := rfl
@[simp] theorem State.modPort_tmap (p : Nat) (f : Port → Port) : (s.modPort p f).tmap = s.tmap := rfl
@[simp] theorem State.modPort_tiles (p : Nat) (f : Port → Port) : (s.modPort p f).tiles = s.tiles := rfl
@[simp] theorem State.modPort_sched (p : Nat) (f : Port → Port) : (s.modPort p f).sched = s.sched := rfl
@[simp] theorem State.modPort_rig (p : Nat) (f : Port → Port) : (s.modPort p f).rig = s.rig := rfl
@[simp] theorem State.modPort_shadow (p : Nat) (f : Port → Port) : (s.modPort p f).shadow = s.shadow := rfl
@[simp] theorem State.modPort_bights (p : Nat) (f : Port → Port) : (s.modPort p f).bights = s.bights := rfl
@[simp] theorem State.modPort_svc (p : Nat) (f : Port → Port) : (s.modPort p f).svc = s.svc := rfl
@[simp] theorem State.modPort_flash (p : Nat) (f : Port → Port) : (s.modPort p f).flash = s.flash := rfl
@[simp] theorem State.modPort_journal (p : Nat) (f : Port → Port) : (s.modPort p f).journal = s.journal := rfl
@[simp] theorem State.modPort_elog (p : Nat) (f : Port → Port) : (s.modPort p f).elog = s.elog := rfl
@[simp] theorem State.modPort_chans (p : Nat) (f : Port → Port) : (s.modPort p f).chans = s.chans := rfl
@[simp] theorem State.modPort_exp (p : Nat) (f : Port → Port) : (s.modPort p f).exp = s.exp := rfl
@[simp] theorem State.modPort_grm (p : Nat) (f : Port → Port) : (s.modPort p f).grm = { s.grm with ports := Tab.put s.grm.ports p (f (s.port p)) } := rfl
@[simp] theorem State.modPort_mesh (p : Nat) (f : Port → Port) : (s.modPort p f).mesh = s.mesh := rfl
@[simp] theorem State.modPort_hreads (p : Nat) (f : Port → Port) : (s.modPort p f).hreads = s.hreads := rfl
@[simp] theorem State.modPort_out (p : Nat) (f : Port → Port) : (s.modPort p f).out = s.out := rfl
@[simp] theorem State.modPort_fresh (p : Nat) (f : Port → Port) : (s.modPort p f).fresh = s.fresh := rfl
@[simp] theorem State.modPort_pending (p : Nat) (f : Port → Port) : (s.modPort p f).pending = s.pending := rfl

/-! ### modQueue -/

@[simp] theorem State.modQueue_glb (q : Nat) (f : Queue → Queue) : (s.modQueue q f).glb = s.glb := rfl
@[simp] theorem State.modQueue_pins (q : Nat) (f : Queue → Queue) : (s.modQueue q f).pins = s.pins := rfl
@[simp] theorem State.modQueue_hold (q : Nat) (f : Queue → Queue) : (s.modQueue q f).hold = s.hold := rfl
@[simp] theorem State.modQueue_funcs (q : Nat) (f : Queue → Queue) : (s.modQueue q f).funcs = s.funcs := rfl
@[simp] theorem State.modQueue_tmap (q : Nat) (f : Queue → Queue) : (s.modQueue q f).tmap = s.tmap := rfl
@[simp] theorem State.modQueue_tiles (q : Nat) (f : Queue → Queue) : (s.modQueue q f).tiles = s.tiles := rfl
@[simp] theorem State.modQueue_sched (q : Nat) (f : Queue → Queue) : (s.modQueue q f).sched = { s.sched with queues := Tab.put s.sched.queues q (f (s.queue q)) } := rfl
@[simp] theorem State.modQueue_rig (q : Nat) (f : Queue → Queue) : (s.modQueue q f).rig = s.rig := rfl
@[simp] theorem State.modQueue_shadow (q : Nat) (f : Queue → Queue) : (s.modQueue q f).shadow = s.shadow := rfl
@[simp] theorem State.modQueue_bights (q : Nat) (f : Queue → Queue) : (s.modQueue q f).bights = s.bights := rfl
@[simp] theorem State.modQueue_svc (q : Nat) (f : Queue → Queue) : (s.modQueue q f).svc = s.svc := rfl
@[simp] theorem State.modQueue_flash (q : Nat) (f : Queue → Queue) : (s.modQueue q f).flash = s.flash := rfl
@[simp] theorem State.modQueue_journal (q : Nat) (f : Queue → Queue) : (s.modQueue q f).journal = s.journal := rfl
@[simp] theorem State.modQueue_elog (q : Nat) (f : Queue → Queue) : (s.modQueue q f).elog = s.elog := rfl
@[simp] theorem State.modQueue_chans (q : Nat) (f : Queue → Queue) : (s.modQueue q f).chans = s.chans := rfl
@[simp] theorem State.modQueue_exp (q : Nat) (f : Queue → Queue) : (s.modQueue q f).exp = s.exp := rfl
@[simp] theorem State.modQueue_grm (q : Nat) (f : Queue → Queue) : (s.modQueue q f).grm = s.grm := rfl
@[simp] theorem State.modQueue_mesh (q : Nat) (f : Queue → Queue) : (s.modQueue q f).mesh = s.mesh := rfl
@[simp] theorem State.modQueue_hreads (q : Nat) (f : Queue → Queue) : (s.modQueue q f).hreads = s.hreads := rfl
@[simp] theorem State.modQueue_out (q : Nat) (f : Queue → Queue) : (s.modQueue q f).out = s.out := rfl
@[simp] theorem State.modQueue_fresh (q : Nat) (f : Queue → Queue) : (s.modQueue q f).fresh = s.fresh := rfl
@[simp] theorem State.modQueue_pending (q : Nat) (f : Queue → Queue) : (s.modQueue q f).pending = s.pending := rfl

/-! ### modGroup -/

@[simp] theorem State.modGroup_glb (g : Nat) (f : QGroup → QGroup) : (s.modGroup g f).glb = s.glb := rfl
@[simp] theorem State.modGroup_pins (g : Nat) (f : QGroup → QGroup) : (s.modGroup g f).pins = s.pins := rfl
@[simp] theorem State.modGroup_hold (g : Nat) (f : QGroup → QGroup) : (s.modGroup g f).hold = s.hold := rfl
@[simp] theorem State.modGroup_funcs (g : Nat) (f : QGroup → QGroup) : (s.modGroup g f).funcs = s.funcs := rfl
@[simp] theorem State.modGroup_tmap (g : Nat) (f : QGroup → QGroup) : (s.modGroup g f).tmap = s.tmap := rfl
@[simp] theorem State.modGroup_tiles (g : Nat) (f : QGroup → QGroup) : (s.modGroup g f).tiles = s.tiles := rfl
@[simp] theorem State.modGroup_sched (g : Nat) (f : QGroup → QGroup) : (s.modGroup g f).sched = { s.sched with groups := Tab.put s.sched.groups g (f (s.qgroup g)) } := rfl
@[simp] theorem State.modGroup_rig (g : Nat) (f : QGroup → QGroup) : (s.modGroup g f).rig = s.rig := rfl
@[simp] theorem State.modGroup_shadow (g : Nat) (f : QGroup → QGroup) : (s.modGroup g f).shadow = s.shadow := rfl
@[simp] theorem State.modGroup_bights (g : Nat) (f : QGroup → QGroup) : (s.modGroup g f).bights = s.bights := rfl
@[simp] theorem State.modGroup_svc (g : Nat) (f : QGroup → QGroup) : (s.modGroup g f).svc = s.svc := rfl
@[simp] theorem State.modGroup_flash (g : Nat) (f : QGroup → QGroup) : (s.modGroup g f).flash = s.flash := rfl
@[simp] theorem State.modGroup_journal (g : Nat) (f : QGroup → QGroup) : (s.modGroup g f).journal = s.journal := rfl
@[simp] theorem State.modGroup_elog (g : Nat) (f : QGroup → QGroup) : (s.modGroup g f).elog = s.elog := rfl
@[simp] theorem State.modGroup_chans (g : Nat) (f : QGroup → QGroup) : (s.modGroup g f).chans = s.chans := rfl
@[simp] theorem State.modGroup_exp (g : Nat) (f : QGroup → QGroup) : (s.modGroup g f).exp = s.exp := rfl
@[simp] theorem State.modGroup_grm (g : Nat) (f : QGroup → QGroup) : (s.modGroup g f).grm = s.grm := rfl
@[simp] theorem State.modGroup_mesh (g : Nat) (f : QGroup → QGroup) : (s.modGroup g f).mesh = s.mesh := rfl
@[simp] theorem State.modGroup_hreads (g : Nat) (f : QGroup → QGroup) : (s.modGroup g f).hreads = s.hreads := rfl
@[simp] theorem State.modGroup_out (g : Nat) (f : QGroup → QGroup) : (s.modGroup g f).out = s.out := rfl
@[simp] theorem State.modGroup_fresh (g : Nat) (f : QGroup → QGroup) : (s.modGroup g f).fresh = s.fresh := rfl
@[simp] theorem State.modGroup_pending (g : Nat) (f : QGroup → QGroup) : (s.modGroup g f).pending = s.pending := rfl

/-! ### setHitch -/

@[simp] theorem State.setHitch_glb (h : Nat) (x : Hitch) : (s.setHitch h x).glb = s.glb := rfl
@[simp] theorem State.setHitch_pins (h : Nat) (x : Hitch) : (s.setHitch h x).pins = s.pins := rfl
@[simp] theorem State.setHitch_hold (h : Nat) (x : Hitch) : (s.setHitch h x).hold = s.hold := rfl
@[simp] theorem State.setHitch_funcs (h : Nat) (x : Hitch) : (s.setHitch h x).funcs = s.funcs := rfl
@[simp] theorem State.setHitch_tmap (h : Nat) (x : Hitch) : (s.setHitch h x).tmap = s.tmap := rfl
@[simp] theorem State.setHitch_tiles (h : Nat) (x : Hitch) : (s.setHitch h x).tiles = s.tiles := rfl
@[simp] theorem State.setHitch_sched (h : Nat) (x : Hitch) : (s.setHitch h x).sched = { s.sched with hitches := Tab.put s.sched.hitches h x } := rfl
@[simp] theorem State.setHitch_rig (h : Nat) (x : Hitch) : (s.setHitch h x).rig = s.rig := rfl
@[simp] theorem State.setHitch_shadow (h : Nat) (x : Hitch) : (s.setHitch h x).shadow = s.shadow := rfl
@[simp] theorem State.setHitch_bights (h : Nat) (x : Hitch) : (s.setHitch h x).bights = s.bights := rfl
@[simp] theorem State.setHitch_svc (h : Nat) (x : Hitch) : (s.setHitch h x).svc = s.svc := rfl
@[simp] theorem State.setHitch_flash (h : Nat) (x : Hitch) : (s.setHitch h x).flash = s.flash := rfl
@[simp] theorem State.setHitch_journal (h : Nat) (x : Hitch) : (s.setHitch h x).journal = s.journal := rfl
@[simp] theorem State.setHitch_elog (h : Nat) (x : Hitch) : (s.setHitch h x).elog = s.elog := rfl
@[simp] theorem State.setHitch_chans (h : Nat) (x : Hitch) : (s.setHitch h x).chans = s.chans := rfl
@[simp] theorem State.setHitch_exp (h : Nat) (x : Hitch) : (s.setHitch h x).exp = s.exp := rfl
@[simp] theorem State.setHitch_grm (h : Nat) (x : Hitch) : (s.setHitch h x).grm = s.grm := rfl
@[simp] theorem State.setHitch_mesh (h : Nat) (x : Hitch) : (s.setHitch h x).mesh = s.mesh := rfl
@[simp] theorem State.setHitch_hreads (h : Nat) (x : Hitch) : (s.setHitch h x).hreads = s.hreads := rfl
@[simp] theorem State.setHitch_out (h : Nat) (x : Hitch) : (s.setHitch h x).out = s.out := rfl
@[simp] theorem State.setHitch_fresh (h : Nat) (x : Hitch) : (s.setHitch h x).fresh = s.fresh := rfl
@[simp] theorem State.setHitch_pending (h : Nat) (x : Hitch) : (s.setHitch h x).pending = s.pending := rfl

/-! ### setTask -/

@[simp] theorem State.setTask_glb (u : Nat) (x : Task) : (s.setTask u x).glb = s.glb := rfl
@[simp] theorem State.setTask_pins (u : Nat) (x : Task) : (s.setTask u x).pins = s.pins := rfl
@[simp] theorem State.setTask_hold (u : Nat) (x : Task) : (s.setTask u x).hold = s.hold := rfl
@[simp] theorem State.setTask_funcs (u : Nat) (x : Task) : (s.setTask u x).funcs = s.funcs := rfl
@[simp] theorem State.setTask_tmap (u : Nat) (x : Task) : (s.setTask u x).tmap = s.tmap := rfl
@[simp] theorem State.setTask_tiles (u : Nat) (x : Task) : (s.setTask u x).tiles = s.tiles := rfl
@[simp] theorem State.setTask_sched (u : Nat) (x : Task) : (s.setTask u x).sched = { s.sched with tasks := Tab.put s.sched.tasks u (some x) } := rfl
@[simp] theorem State.setTask_rig (u : Nat) (x : Task) : (s.setTask u x).rig = s.rig := rfl
@[simp] theorem State.setTask_shadow (u : Nat) (x : Task) : (s.setTask u x).shadow = s.shadow := rfl
@[simp] theorem State.setTask_bights (u : Nat) (x : Task) : (s.setTask u x).bights = s.bights := rfl
@[simp] theorem State.setTask_svc (u : Nat) (x : Task) : (s.setTask u x).svc = s.svc := rfl
@[simp] theorem State.setTask_flash (u : Nat) (x : Task) : (s.setTask u x).flash = s.flash := rfl
@[simp] theorem State.setTask_journal (u : Nat) (x : Task) : (s.setTask u x).journal = s.journal := rfl
@[simp] theorem State.setTask_elog (u : Nat) (x : Task) : (s.setTask u x).elog = s.elog := rfl
@[simp] theorem State.setTask_chans (u : Nat) (x : Task) : (s.setTask u x).chans = s.chans := rfl
@[simp] theorem State.setTask_exp (u : Nat) (x : Task) : (s.setTask u x).exp = s.exp := rfl
@[simp] theorem State.setTask_grm (u : Nat) (x : Task) : (s.setTask u x).grm = s.grm := rfl
@[simp] theorem State.setTask_mesh (u : Nat) (x : Task) : (s.setTask u x).mesh = s.mesh := rfl
@[simp] theorem State.setTask_hreads (u : Nat) (x : Task) : (s.setTask u x).hreads = s.hreads := rfl
@[simp] theorem State.setTask_out (u : Nat) (x : Task) : (s.setTask u x).out = s.out := rfl
@[simp] theorem State.setTask_fresh (u : Nat) (x : Task) : (s.setTask u x).fresh = s.fresh := rfl
@[simp] theorem State.setTask_pending (u : Nat) (x : Task) : (s.setTask u x).pending = s.pending := rfl

/-! ### dropTask -/

@[simp] theorem State.dropTask_glb (u : Nat) : (s.dropTask u).glb = s.glb := rfl
@[simp] theorem State.dropTask_pins (u : Nat) : (s.dropTask u).pins = s.pins := rfl
@[simp] theorem State.dropTask_hold (u : Nat) : (s.dropTask u).hold = s.hold := rfl
@[simp] theorem State.dropTask_funcs (u : Nat) : (s.dropTask u).funcs = s.funcs := rfl
@[simp] theorem State.dropTask_tmap (u : Nat) : (s.dropTask u).tmap = s.tmap := rfl
@[simp] theorem State.dropTask_tiles (u : Nat) : (s.dropTask u).tiles = s.tiles := rfl
@[simp] theorem State.dropTask_sched (u : Nat) : (s.dropTask u).sched = { s.sched with tasks := Tab.drop s.sched.tasks u } := rfl
@[simp] theorem State.dropTask_rig (u : Nat) : (s.dropTask u).rig = s.rig := rfl
@[simp] theorem State.dropTask_shadow (u : Nat) : (s.dropTask u).shadow = s.shadow := rfl
@[simp] theorem State.dropTask_bights (u : Nat) : (s.dropTask u).bights = s.bights := rfl
@[simp] theorem State.dropTask_svc (u : Nat) : (s.dropTask u).svc = s.svc := rfl
@[simp] theorem State.dropTask_flash (u : Nat) : (s.dropTask u).flash = s.flash := rfl
@[simp] theorem State.dropTask_journal (u : Nat) : (s.dropTask u).journal = s.journal := rfl
@[simp] theorem State.dropTask_elog (u : Nat) : (s.dropTask u).elog = s.elog := rfl
@[simp] theorem State.dropTask_chans (u : Nat) : (s.dropTask u).chans = s.chans := rfl
@[simp] theorem State.dropTask_exp (u : Nat) : (s.dropTask u).exp = s.exp := rfl
@[simp] theorem State.dropTask_grm (u : Nat) : (s.dropTask u).grm = s.grm := rfl
@[simp] theorem State.dropTask_mesh (u : Nat) : (s.dropTask u).mesh = s.mesh := rfl
@[simp] theorem State.dropTask_hreads (u : Nat) : (s.dropTask u).hreads = s.hreads := rfl
@[simp] theorem State.dropTask_out (u : Nat) : (s.dropTask u).out = s.out := rfl
@[simp] theorem State.dropTask_fresh (u : Nat) : (s.dropTask u).fresh = s.fresh := rfl
@[simp] theorem State.dropTask_pending (u : Nat) : (s.dropTask u).pending = s.pending := rfl

/-! ### modBight -/

@[simp] theorem State.modBight_glb (b : Nat) (f : BightSt → BightSt) : (s.modBight b f).glb = s.glb := rfl
@[simp] theorem State.modBight_pins (b : Nat) (f : BightSt → BightSt) : (s.modBight b f).pins = s.pins := rfl
@[simp] theorem State.modBight_hold (b : Nat) (f : BightSt → BightSt) : (s.modBight b f).hold = s.hold := rfl
@[simp] theorem State.modBight_funcs (b : Nat) (f : BightSt → BightSt) : (s.modBight b f).funcs = s.funcs := rfl
@[simp] theorem State.modBight_tmap (b : Nat) (f : BightSt → BightSt) : (s.modBight b f).tmap = s.tmap := rfl
@[simp] theorem State.modBight_tiles (b : Nat) (f : BightSt → BightSt) : (s.modBight b f).tiles = s.tiles := rfl
@[simp] theorem State.modBight_sched (b : Nat) (f : BightSt → BightSt) : (s.modBight b f).sched = s.sched := rfl
@[simp] theorem State.modBight_rig (b : Nat) (f : BightSt → BightSt) : (s.modBight b f).rig = s.rig := rfl
@[simp] theorem State.modBight_shadow (b : Nat) (f : BightSt → BightSt) : (s.modBight b f).shadow = s.shadow := rfl
@[simp] theorem State.modBight_bights (b : Nat) (f : BightSt → BightSt) : (s.modBight b f).bights = Tab.put s.bights b (f (s.bight b)) := rfl
@[simp] theorem State.modBight_svc (b : Nat) (f : BightSt → BightSt) : (s.modBight b f).svc = s.svc := rfl
@[simp] theorem State.modBight_flash (b : Nat) (f : BightSt → BightSt) : (s.modBight b f).flash = s.flash := rfl
@[simp] theorem State.modBight_journal (b : Nat) (f : BightSt → BightSt) : (s.modBight b f).journal = s.journal := rfl
@[simp] theorem State.modBight_elog (b : Nat) (f : BightSt → BightSt) : (s.modBight b f).elog = s.elog := rfl
@[simp] theorem State.modBight_chans (b : Nat) (f : BightSt → BightSt) : (s.modBight b f).chans = s.chans := rfl
@[simp] theorem State.modBight_exp (b : Nat) (f : BightSt → BightSt) : (s.modBight b f).exp = s.exp := rfl
@[simp] theorem State.modBight_grm (b : Nat) (f : BightSt → BightSt) : (s.modBight b f).grm = s.grm := rfl
@[simp] theorem State.modBight_mesh (b : Nat) (f : BightSt → BightSt) : (s.modBight b f).mesh = s.mesh := rfl
@[simp] theorem State.modBight_hreads (b : Nat) (f : BightSt → BightSt) : (s.modBight b f).hreads = s.hreads := rfl
@[simp] theorem State.modBight_out (b : Nat) (f : BightSt → BightSt) : (s.modBight b f).out = s.out := rfl
@[simp] theorem State.modBight_fresh (b : Nat) (f : BightSt → BightSt) : (s.modBight b f).fresh = s.fresh := rfl
@[simp] theorem State.modBight_pending (b : Nat) (f : BightSt → BightSt) : (s.modBight b f).pending = s.pending := rfl

/-! ### setMap -/

@[simp] theorem State.setMap_glb (n : Nat) (x : MapEnt) : (s.setMap n x).glb = s.glb := rfl
@[simp] theorem State.setMap_pins (n : Nat) (x : MapEnt) : (s.setMap n x).pins = s.pins := rfl
@[simp] theorem State.setMap_hold (n : Nat) (x : MapEnt) : (s.setMap n x).hold = s.hold := rfl
@[simp] theorem State.setMap_funcs (n : Nat) (x : MapEnt) : (s.setMap n x).funcs = s.funcs := rfl
@[simp] theorem State.setMap_tmap (n : Nat) (x : MapEnt) : (s.setMap n x).tmap = Tab.put s.tmap n x := rfl
@[simp] theorem State.setMap_tiles (n : Nat) (x : MapEnt) : (s.setMap n x).tiles = s.tiles := rfl
@[simp] theorem State.setMap_sched (n : Nat) (x : MapEnt) : (s.setMap n x).sched = s.sched := rfl
@[simp] theorem State.setMap_rig (n : Nat) (x : MapEnt) : (s.setMap n x).rig = s.rig := rfl
@[simp] theorem State.setMap_shadow (n : Nat) (x : MapEnt) : (s.setMap n x).shadow = s.shadow := rfl
@[simp] theorem State.setMap_bights (n : Nat) (x : MapEnt) : (s.setMap n x).bights = s.bights := rfl
@[simp] theorem State.setMap_svc (n : Nat) (x : MapEnt) : (s.setMap n x).svc = s.svc := rfl
@[simp] theorem State.setMap_flash (n : Nat) (x : MapEnt) : (s.setMap n x).flash = s.flash := rfl
@[simp] theorem State.setMap_journal (n : Nat) (x : MapEnt) : (s.setMap n x).journal = s.journal := rfl
@[simp] theorem State.setMap_elog (n : Nat) (x : MapEnt) : (s.setMap n x).elog = s.elog := rfl
@[simp] theorem State.setMap_chans (n : Nat) (x : MapEnt) : (s.setMap n x).chans = s.chans := rfl
@[simp] theorem State.setMap_exp (n : Nat) (x : MapEnt) : (s.setMap n x).exp = s.exp := rfl
@[simp] theorem State.setMap_grm (n : Nat) (x : MapEnt) : (s.setMap n x).grm = s.grm := rfl
@[simp] theorem State.setMap_mesh (n : Nat) (x : MapEnt) : (s.setMap n x).mesh = s.mesh := rfl
@[simp] theorem State.setMap_hreads (n : Nat) (x : MapEnt) : (s.setMap n x).hreads = s.hreads := rfl
@[simp] theorem State.setMap_out (n : Nat) (x : MapEnt) : (s.setMap n x).out = s.out := rfl
@[simp] theorem State.setMap_fresh (n : Nat) (x : MapEnt) : (s.setMap n x).fresh = s.fresh := rfl
@[simp] theorem State.setMap_pending (n : Nat) (x : MapEnt) : (s.setMap n x).pending = s.pending := rfl

/-! ### setPd -/

@[simp] theorem State.setPd_glb (d v : Nat) : (s.setPd d v).glb = s.glb := rfl
@[simp] theorem State.setPd_pins (d v : Nat) : (s.setPd d v).pins = s.pins := rfl
@[simp] theorem State.setPd_hold (d v : Nat) : (s.setPd d v).hold = s.hold := rfl
@[simp] theorem State.setPd_funcs (d v : Nat) : (s.setPd d v).funcs = s.funcs := rfl
@[simp] theorem State.setPd_tmap (d v : Nat) : (s.setPd d v).tmap = s.tmap := rfl
@[simp] theorem State.setPd_tiles (d v : Nat) : (s.setPd d v).tiles = s.tiles := rfl
@[simp] theorem State.setPd_sched (d v : Nat) : (s.setPd d v).sched = s.sched := rfl
@[simp] theorem State.setPd_rig (d v : Nat) : (s.setPd d v).rig = s.rig := rfl
@[simp] theorem State.setPd_shadow (d v : Nat) : (s.setPd d v).shadow = s.shadow := rfl
@[simp] theorem State.setPd_bights (d v : Nat) : (s.setPd d v).bights = s.bights := rfl
@[simp] theorem State.setPd_svc (d v : Nat) : (s.setPd d v).svc = { s.svc with pd := Tab.put s.svc.pd d (BitVec.ofNat 2 v) } := rfl
@[simp] theorem State.setPd_flash (d v : Nat) : (s.setPd d v).flash = s.flash := rfl
@[simp] theorem State.setPd_journal (d v : Nat) : (s.setPd d v).journal = s.journal := rfl
@[simp] theorem State.setPd_elog (d v : Nat) : (s.setPd d v).elog = s.elog := rfl
@[simp] theorem State.setPd_chans (d v : Nat) : (s.setPd d v).chans = s.chans := rfl
@[simp] theorem State.setPd_exp (d v : Nat) : (s.setPd d v).exp = s.exp := rfl
@[simp] theorem State.setPd_grm (d v : Nat) : (s.setPd d v).grm = s.grm := rfl
@[simp] theorem State.setPd_mesh (d v : Nat) : (s.setPd d v).mesh = s.mesh := rfl
@[simp] theorem State.setPd_hreads (d v : Nat) : (s.setPd d v).hreads = s.hreads := rfl
@[simp] theorem State.setPd_out (d v : Nat) : (s.setPd d v).out = s.out := rfl
@[simp] theorem State.setPd_fresh (d v : Nat) : (s.setPd d v).fresh = s.fresh := rfl
@[simp] theorem State.setPd_pending (d v : Nat) : (s.setPd d v).pending = s.pending := rfl

/-! ### emit -/

@[simp] theorem State.emit_glb (e : OutEvent) : (s.emit e).glb = s.glb := rfl
@[simp] theorem State.emit_pins (e : OutEvent) : (s.emit e).pins = s.pins := rfl
@[simp] theorem State.emit_hold (e : OutEvent) : (s.emit e).hold = s.hold := rfl
@[simp] theorem State.emit_funcs (e : OutEvent) : (s.emit e).funcs = s.funcs := rfl
@[simp] theorem State.emit_tmap (e : OutEvent) : (s.emit e).tmap = s.tmap := rfl
@[simp] theorem State.emit_tiles (e : OutEvent) : (s.emit e).tiles = s.tiles := rfl
@[simp] theorem State.emit_sched (e : OutEvent) : (s.emit e).sched = s.sched := rfl
@[simp] theorem State.emit_rig (e : OutEvent) : (s.emit e).rig = s.rig := rfl
@[simp] theorem State.emit_shadow (e : OutEvent) : (s.emit e).shadow = s.shadow := rfl
@[simp] theorem State.emit_bights (e : OutEvent) : (s.emit e).bights = s.bights := rfl
@[simp] theorem State.emit_svc (e : OutEvent) : (s.emit e).svc = s.svc := rfl
@[simp] theorem State.emit_flash (e : OutEvent) : (s.emit e).flash = s.flash := rfl
@[simp] theorem State.emit_journal (e : OutEvent) : (s.emit e).journal = s.journal := rfl
@[simp] theorem State.emit_elog (e : OutEvent) : (s.emit e).elog = s.elog := rfl
@[simp] theorem State.emit_chans (e : OutEvent) : (s.emit e).chans = s.chans := rfl
@[simp] theorem State.emit_exp (e : OutEvent) : (s.emit e).exp = s.exp := rfl
@[simp] theorem State.emit_grm (e : OutEvent) : (s.emit e).grm = s.grm := rfl
@[simp] theorem State.emit_mesh (e : OutEvent) : (s.emit e).mesh = s.mesh := rfl
@[simp] theorem State.emit_hreads (e : OutEvent) : (s.emit e).hreads = s.hreads := rfl
@[simp] theorem State.emit_out (e : OutEvent) : (s.emit e).out = e :: s.out := rfl
@[simp] theorem State.emit_fresh (e : OutEvent) : (s.emit e).fresh = s.fresh := rfl
@[simp] theorem State.emit_pending (e : OutEvent) : (s.emit e).pending = s.pending := rfl

/-! ### send -/

@[simp] theorem State.send_glb (p : Packet) : (s.send p).glb = s.glb := rfl
@[simp] theorem State.send_pins (p : Packet) : (s.send p).pins = s.pins := rfl
@[simp] theorem State.send_hold (p : Packet) : (s.send p).hold = s.hold := rfl
@[simp] theorem State.send_funcs (p : Packet) : (s.send p).funcs = s.funcs := rfl
@[simp] theorem State.send_tmap (p : Packet) : (s.send p).tmap = s.tmap := rfl
@[simp] theorem State.send_tiles (p : Packet) : (s.send p).tiles = s.tiles := rfl
@[simp] theorem State.send_sched (p : Packet) : (s.send p).sched = s.sched := rfl
@[simp] theorem State.send_rig (p : Packet) : (s.send p).rig = s.rig := rfl
@[simp] theorem State.send_shadow (p : Packet) : (s.send p).shadow = s.shadow := rfl
@[simp] theorem State.send_bights (p : Packet) : (s.send p).bights = s.bights := rfl
@[simp] theorem State.send_svc (p : Packet) : (s.send p).svc = s.svc := rfl
@[simp] theorem State.send_flash (p : Packet) : (s.send p).flash = s.flash := rfl
@[simp] theorem State.send_journal (p : Packet) : (s.send p).journal = s.journal := rfl
@[simp] theorem State.send_elog (p : Packet) : (s.send p).elog = s.elog := rfl
@[simp] theorem State.send_chans (p : Packet) : (s.send p).chans = s.chans := rfl
@[simp] theorem State.send_exp (p : Packet) : (s.send p).exp = s.exp := rfl
@[simp] theorem State.send_grm (p : Packet) : (s.send p).grm = s.grm := rfl
@[simp] theorem State.send_mesh (p : Packet) : (s.send p).mesh = s.mesh ++ [p] := rfl
@[simp] theorem State.send_hreads (p : Packet) : (s.send p).hreads = s.hreads := rfl
@[simp] theorem State.send_out (p : Packet) : (s.send p).out = s.out := rfl
@[simp] theorem State.send_fresh (p : Packet) : (s.send p).fresh = s.fresh := rfl
@[simp] theorem State.send_pending (p : Packet) : (s.send p).pending = s.pending := rfl

/-! ### unsend -/

@[simp] theorem State.unsend_glb (i : Nat) : (s.unsend i).glb = s.glb := rfl
@[simp] theorem State.unsend_pins (i : Nat) : (s.unsend i).pins = s.pins := rfl
@[simp] theorem State.unsend_hold (i : Nat) : (s.unsend i).hold = s.hold := rfl
@[simp] theorem State.unsend_funcs (i : Nat) : (s.unsend i).funcs = s.funcs := rfl
@[simp] theorem State.unsend_tmap (i : Nat) : (s.unsend i).tmap = s.tmap := rfl
@[simp] theorem State.unsend_tiles (i : Nat) : (s.unsend i).tiles = s.tiles := rfl
@[simp] theorem State.unsend_sched (i : Nat) : (s.unsend i).sched = s.sched := rfl
@[simp] theorem State.unsend_rig (i : Nat) : (s.unsend i).rig = s.rig := rfl
@[simp] theorem State.unsend_shadow (i : Nat) : (s.unsend i).shadow = s.shadow := rfl
@[simp] theorem State.unsend_bights (i : Nat) : (s.unsend i).bights = s.bights := rfl
@[simp] theorem State.unsend_svc (i : Nat) : (s.unsend i).svc = s.svc := rfl
@[simp] theorem State.unsend_flash (i : Nat) : (s.unsend i).flash = s.flash := rfl
@[simp] theorem State.unsend_journal (i : Nat) : (s.unsend i).journal = s.journal := rfl
@[simp] theorem State.unsend_elog (i : Nat) : (s.unsend i).elog = s.elog := rfl
@[simp] theorem State.unsend_chans (i : Nat) : (s.unsend i).chans = s.chans := rfl
@[simp] theorem State.unsend_exp (i : Nat) : (s.unsend i).exp = s.exp := rfl
@[simp] theorem State.unsend_grm (i : Nat) : (s.unsend i).grm = s.grm := rfl
theorem State.unsend_mesh (i : Nat) (h : ∀ p, s.deliverable i = some p → p.more = []) : (s.unsend i).mesh = s.mesh.eraseIdx i := by
  unfold State.unsend
  split
  · exact absurd (h _ ‹_›) (by simp)
  · rfl
@[simp] theorem State.unsend_hreads (i : Nat) : (s.unsend i).hreads = s.hreads := rfl
@[simp] theorem State.unsend_out (i : Nat) : (s.unsend i).out = s.out := rfl
@[simp] theorem State.unsend_fresh (i : Nat) : (s.unsend i).fresh = s.fresh := rfl
@[simp] theorem State.unsend_pending (i : Nat) : (s.unsend i).pending = s.pending := rfl

/-! ### passBy -/

@[simp] theorem State.passBy_glb (i : Nat) : (s.passBy i).glb = s.glb := rfl
@[simp] theorem State.passBy_pins (i : Nat) : (s.passBy i).pins = s.pins := rfl
@[simp] theorem State.passBy_hold (i : Nat) : (s.passBy i).hold = s.hold := rfl
@[simp] theorem State.passBy_funcs (i : Nat) : (s.passBy i).funcs = s.funcs := rfl
@[simp] theorem State.passBy_tmap (i : Nat) : (s.passBy i).tmap = s.tmap := rfl
@[simp] theorem State.passBy_tiles (i : Nat) : (s.passBy i).tiles = s.tiles := rfl
@[simp] theorem State.passBy_sched (i : Nat) : (s.passBy i).sched = s.sched := rfl
@[simp] theorem State.passBy_rig (i : Nat) : (s.passBy i).rig = s.rig := rfl
@[simp] theorem State.passBy_shadow (i : Nat) : (s.passBy i).shadow = s.shadow := rfl
@[simp] theorem State.passBy_bights (i : Nat) : (s.passBy i).bights = s.bights := rfl
@[simp] theorem State.passBy_svc (i : Nat) : (s.passBy i).svc = s.svc := rfl
@[simp] theorem State.passBy_flash (i : Nat) : (s.passBy i).flash = s.flash := rfl
@[simp] theorem State.passBy_journal (i : Nat) : (s.passBy i).journal = s.journal := rfl
@[simp] theorem State.passBy_elog (i : Nat) : (s.passBy i).elog = s.elog := rfl
@[simp] theorem State.passBy_chans (i : Nat) : (s.passBy i).chans = s.chans := rfl
@[simp] theorem State.passBy_exp (i : Nat) : (s.passBy i).exp = s.exp := rfl
@[simp] theorem State.passBy_grm (i : Nat) : (s.passBy i).grm = s.grm := rfl
@[simp] theorem State.passBy_hreads (i : Nat) : (s.passBy i).hreads = s.hreads := rfl
@[simp] theorem State.passBy_out (i : Nat) : (s.passBy i).out = s.out := rfl
@[simp] theorem State.passBy_fresh (i : Nat) : (s.passBy i).fresh = s.fresh := rfl
@[simp] theorem State.passBy_pending (i : Nat) : (s.passBy i).pending = s.pending := rfl

/-! ### release -/

@[simp] theorem State.release_glb (n : Nat) : (s.release n).glb = s.glb := rfl
@[simp] theorem State.release_pins (n : Nat) : (s.release n).pins = s.pins := rfl
@[simp] theorem State.release_hold (n : Nat) : (s.release n).hold = s.hold := rfl
@[simp] theorem State.release_funcs (n : Nat) : (s.release n).funcs = s.funcs := rfl
@[simp] theorem State.release_tmap (n : Nat) : (s.release n).tmap = s.tmap := rfl
@[simp] theorem State.release_tiles (n : Nat) : (s.release n).tiles = s.tiles := rfl
@[simp] theorem State.release_sched (n : Nat) : (s.release n).sched = s.sched := rfl
@[simp] theorem State.release_rig (n : Nat) : (s.release n).rig = s.rig := rfl
@[simp] theorem State.release_shadow (n : Nat) : (s.release n).shadow = s.shadow := rfl
@[simp] theorem State.release_bights (n : Nat) : (s.release n).bights = s.bights := rfl
@[simp] theorem State.release_svc (n : Nat) : (s.release n).svc = s.svc := rfl
@[simp] theorem State.release_flash (n : Nat) : (s.release n).flash = s.flash := rfl
@[simp] theorem State.release_journal (n : Nat) : (s.release n).journal = s.journal := rfl
@[simp] theorem State.release_elog (n : Nat) : (s.release n).elog = s.elog := rfl
@[simp] theorem State.release_chans (n : Nat) : (s.release n).chans = s.chans := rfl
@[simp] theorem State.release_exp (n : Nat) : (s.release n).exp = s.exp := rfl
@[simp] theorem State.release_grm (n : Nat) : (s.release n).grm = s.grm := rfl
@[simp] theorem State.release_mesh (n : Nat) : (s.release n).mesh = s.mesh.map fun p =>
    { p with dst := s.unfence n p.dst, more := p.more.map (s.unfence n) } := rfl
@[simp] theorem State.release_hreads (n : Nat) : (s.release n).hreads = s.hreads := rfl
@[simp] theorem State.release_out (n : Nat) : (s.release n).out = s.out := rfl
@[simp] theorem State.release_fresh (n : Nat) : (s.release n).fresh = s.fresh := rfl
@[simp] theorem State.release_pending (n : Nat) : (s.release n).pending = s.pending := rfl

end Sys2Proof.Machine
end

