-- ==== Sys2Proof/WellFormed.lean ====
section
/-! DEFINITION. Well-formed commands: each operand lies in the range the manual gives the resource it names. -/

namespace Sys2Proof

/-- A PCIe function: the PF or a VF (R435). -/
def inFn (fn : Nat) : Bool := decide (fn < 64)
/-- A physical tile (R16). -/
def inTile (tile : Nat) : Bool := decide (tile < 68)
/-- A strand of a tile (R164). -/
def inStrand (strand : Nat) : Bool := decide (strand < 8)
/-- A memory channel. -/
def inChan (chan : Nat) : Bool := decide (chan < 8)
/-- A grommet port. -/
def inPort (port : Nat) : Bool := decide (port < 4)
/-- A queue (R264). -/
def inQueue (q : Nat) : Bool := decide (q < 32768)
/-- A size of a PCIe access. -/
def accSize (size : Nat) : Bool := size == 1 || size == 2 || size == 4 || size == 8

/-- A training result: one of the three capacities (R309), and a temperature of `MEM_TRAIN_STATUS`. -/
def TrainResult.wf (r : TrainResult) : Bool := r.cap != 3 && decide (-128 ≤ r.temp) && decide (r.temp ≤ 127)
/-- A start-up's surroundings: four key slots of 32-byte hashes (R245), and a result for each channel. -/
def BootEnv.wf (e : BootEnv) : Bool :=
  decide (e.fuses.length = 4) && e.fuses.all (fun k => match k with | some h => decide (h.length = 32) | none => true)
    && decide (e.train.length = 8) && e.train.all TrainResult.wf && decide (e.verify.length = 8)
/-- What a service command is given: at most a result for each channel. -/
def SourceIo.wf (io : SourceIo) : Bool := decide (io.train.length ≤ 8) && io.train.all TrainResult.wf
/-- A protected word that exists (R362). -/
def MemRef.wf (m : MemRef) : Bool :=
  match m with
  | .scratchpad p w => inTile p && decide (w < 524288)
  | .programStore p => inTile p
  | .tileState p k => inTile p && (match k with | some k => inStrand k | none => true)
  | .splice c set way => inChan c && decide (set < 128) && decide (way < 16)
  | .tagCache c _ => inChan c
  | .writtenMap c _ => inChan c
  | .schedTask _ => true
  | .schedHitch h => decide (h < 256)
  | .meshPacket _ => true
/-- A frame: at most 256 payload bytes (R344), and a whole tag or none (R349). -/
def WireFrame.wf (f : WireFrame) : Bool :=
  decide (f.payload.length ≤ 256) && (decide (f.gcmTag.length = 0) || decide (f.gcmTag.length = 16))
/-- Where a verdict comes from. -/
def VerdictSrc.wf (v : VerdictSrc) : Bool :=
  match v with
  | .packet _ => true
  | .frame port f => inPort port && f.wf

/-- Every operand of the command is in range. -/
def Instr.wf (i : Instr) : Bool :=
  match i with
  | .powerGood env | .perstAssert env | .hotReset env => env.wf
  | .powerLoss | .perstDeassert | .holdChange _ _ | .discrepancyFault _ _ _ | .supplyAck _ | .supplyTimeout | .smbusState
  | .smbusTj | .smbusTjMax | .smbusProfile | .smbusNodeId | .smbusSerialNumber | .smbusWrite _ _
  | .alertResponse | .tclkDivisorChange | .watchdogExpiry | .journalCompaction _ | .drainEnd _ | .drainLimit
  | .switchWaitTimeout | .fwAlive _ | .fwAliveTimeout _ | .faultRecovery _ _ | .logCommit _ _ | .dispatch _
  | .tableMulticastPacket _ | .hitchArrival _ | .hitchRelease _ | .scratchpadWrite _ | .scratchpadRead _ | .readResponse _
  | .writeAck _ | .claim _ | .fullUpdate _ | .abandon _ | .creditReturn _ | .memoryRead _ _ | .memoryWrite _ _
  | .wpmClearDone | .epochIssue | .frameInject _ | .hostInterfaceRequest _ => true
  | .glbResetWarm fn _ env | .functionLevelReset fn env => inFn fn && env.wf
  | .busMasterEnable fn _ | .memorySpaceEnable fn _ | .d3hot fn _ | .irqMaskWrite fn _ | .discFaultClear fn _
  | .profileCommand fn _ | .domainCommand fn _ | .lineRetirement fn _ _ | .bankRetirement fn _ _ | .tileRetirement fn _ _
  | .logClear fn _ | .queueEnable fn _ | .queueFlush fn _ | .wpmClear fn _ | .codeTableLoad fn _ _ _ | .keyLoad fn _
  | .regionEnable fn _ _ | .bar4Read fn _ _ _ | .bar4Write fn _ _ _ => inFn fn
  | .lowWordRead fn _ rd => inFn fn && accSize rd.size
  | .csrWrite fn _ size _ | .completerAbort fn _ size | .submissionDoorbell fn _ size _
  | .completionDoorbell fn _ size _ => inFn fn && accSize size
  | .pstoreDataRead fn tile => inFn fn && inTile tile
  | .thermalSample _ others => decide (others.length = 23)
  | .domainTransitionEnd d train => decide (d < 80) && train.wf
  | .writeSlot fn _ io | .activate fn _ io | .rollback fn _ io | .load fn _ io | .reconfLay fn _ io | .reconfTile fn _ io
  | .setBoot fn _ io | .compact fn _ io | .revoke fn _ io | .fwWriteSlot fn _ io | .switch fn _ io | .fwSetBoot fn _ io =>
    inFn fn && io.wf
  | .fwLoad fn _ io env => inFn fn && io.wf && env.wf
  | .tileLost tile _ | .scrub tile _ | .scrubAlarm tile _ | .passRetire tile | .tableSwap tile | .rippleEnd tile
  | .streamRequest tile => inTile tile
  | .reread m _ => m.wf
  | .healTest tile word _ => inTile tile && decide (word < 524288)
  | .recentre chan _ | .fullRetrainEnd chan _ | .spliceFill chan _ _ _ _ _ | .gatherBufferClose chan _ _
  | .spliceFlushDone chan | .recentreEnd chan => inChan chan
  | .entryRead q _ _ _ _ | .packetAcceptance q | .completionRecordPost q | .modUsExpiry q => inQueue q
  | .completionReport tile strand | .endStep tile strand | .tbuild tile strand | .tmcast tile strand | .cbload tile strand
  | .lpass tile strand | .setTimeout tile strand | .output tile strand | .partialSend tile strand | .combine tile strand
  | .copy tile strand | .add tile strand | .sub tile strand | .mul tile strand | .fma tile strand | .scale tile strand
  | .max tile strand | .min tile strand | .exp tile strand | .log tile strand | .recip tile strand | .rsqrt tile strand
  | .tanh tile strand | .sigmoid tile strand | .silu tile strand | .gelu tile strand | .rsum tile strand
  | .rsumsq tile strand | .rmax tile strand | .dot tile strand | .odot tile strand | .fcomb tile strand
  | .statcmb tile strand | .rmsnorm tile strand | .smexp tile strand | .smnorm tile strand | .rope tile strand
  | .qu8a tile strand | .qs8 tile strand | .kapp tile strand | .vapp tile strand | .pscale tile strand | .qg8 tile strand
  | .qm8 tile strand | .topk tile strand | .topkm tile strand | .argmax tile strand | .iadd tile strand
  | .gather tile strand | .fill tile strand | .inval tile strand | .matvec tile strand | .outer tile strand
  | .dsilu tile strand | .dgelu tile strand | .adamw tile strand | .sstart tile strand | .swait tile strand
  | .bread tile strand | .bightTimeout tile strand | .bwrite tile strand | .brel tile strand | .harrive tile strand
  | .hwait tile strand | .loop tile strand | .setr tile strand => inTile tile && inStrand strand
  | .unitStepComplete tile unit => inTile tile && decide (unit < 6)
  | .verdict src => src.wf
  | .spliceFlush fn chan _ => inFn fn && inChan chan
  | .pcieCompletion tag _ _ => decide (tag < 1024)
  | .portEnable fn port _ | .portRetrain fn port _ => inFn fn && inPort port
  | .linkTrained port | .linkNak port _ | .linkDown port _ => inPort port
  | .hello port f | .change port f | .epoch port f | .frameForward port f | .rdReq port f | .wr port f | .slot port f
  | .credit port f | .rdRsp port f | .wrAck port f | .frameDiscard port f => inPort port && f.wf
  | .replyTimeout rtag => decide (rtag < 65536)
  | .linkAck port _ credits => inPort port && decide (credits.length = 8)
  | .smbusUnlistedRead cmd => decide (4 < cmd.toNat) && cmd != 8

end Sys2Proof
end

