-- ==== Sys2Proof/Tests/Slice0.lean ====
section
/-! SUPPORT. Small tests: a witness for the hypotheses of each statement, the rules' own numbers on one command, and ill-formed commands. -/

namespace Sys2Proof.Tests
open Sys2Proof.Machine

set_option Elab.async false

/-- The state after a command. -/
def after (c : Instr) (s : State) : State := match exec c s with | .next t => t | _ => {}

/-- A device that serves the host: link trained, memory space enabled, every block available. -/
def up : State :=
  { glb := { st := .running, started := true, linkUp := true, vfEn := true, avail := 9 }
    pins := { perst := false }
    hold := { a := false, b := true, agreed := false }
    exp := { mapped := 0x3FF0 }
    funcs := [(0, { bme := true, mse := true }), (1, { bme := true, mse := true })] }

/-- Surroundings of a start-up without a flash. -/
def env : BootEnv :=
  { nodeId := 3, grm := 0x0A, bmAddr := 1, serial := 0x1122334455667788, stepping := 0x10, fuses := [none, none, none, none], supplyOk := true
    train := List.replicate 8 { ok := true, cap := 0, temp := 40 }, verify := List.replicate 8 false, flashOk := false }

/-- A source that answers. -/
def io : SourceIo := { host := [], readOk := true, flashOk := true, train := [], chk := .clean }

/-! ## Hold, board manager, power and resets -/

/-! ## A tile with one kernel -/

/-- A step with the given fields: place of the lowest bit, and value. -/
def wd (l : List (Nat × Nat)) : BitVec 128 := BitVec.ofNat 128 (l.foldl (fun n e => n + e.2 * 2 ^ e.1) 0)

/-- A program store whose kernel 0 is the steps from index 40 on. -/
def prog (l : List (BitVec 128)) : Mem :=
  Mem.write 0 (Mem.write 0 [] 640 (l.flatMap fun w => leBytes 16 w.toNat)) 0 (leBytes 8 (40 + l.length * 2 ^ 12 + 2 ^ 48))

/-- Strand 0 of a task with window 64 KiB, about to issue the kernel's first step. -/
def strand0 : Strand := { st := .issuing, size := 65536, next := 40, uid := 9, a := List.replicate 15 0, c := [0, 0, 0, 0] }

/-- A device whose tile 0 runs `x` on the kernel `l`. -/
def onStep (l : List (BitVec 128)) (x : Strand) (t : Tile) : State :=
  { up with
    svc := { up.svc with pd := [(0, 2)] }
    tiles := [(0, { t with pstore := prog l, strands := [(0, x)] })] }

/-- END. -/
def endW : BitVec 128 := 0

/-- Bight 3: two slots of 64 bytes at 64 on tile 0, filled by tile 1. -/
def bight3 : BightDecl :=
  { lay := 0, cnode := 0, ctile := 0, region := 64, slotsz := 1, slots := 2, nprod := 1, prod := [(0, 1)], tps := 1, tstride := 0 }
def withBight (s : State) (st : SlotSt) : State :=
  { s with rig := { s.rig with bights := [(3, some bight3)] }, bights := [(3, { slots := [(0, { st := st, prod := some (0, 1) })] })] }
def withHitch (s : State) : State := { s with sched := { s.sched with hitches := [(6, { target := 3, alloc := true })] } }

theorem witness_HoldSampleUpdatesHoldLogic :
    up.glb.st ≠ .off ∧ (after (.holdChange true true) { up with hold := { up.hold with run := 99999, disagree := true } }).hold.disc = true ∧
    (after (.holdChange false false) { up with hold := { up.hold with run := 99998 } }).hold.disc = false ∧
    (after (.holdChange true false) { up with hold := { up.hold with run := 7 } }).hold = { a := true, b := false, agreed := true, cnt := 1, max := 7 } := by
  decide +kernel

theorem witness_DiscrepancyFaultLatchesAndClears_latch :
    up.glb.st ≠ .off ∧ ¬(100000 ≤ up.hold.run ∧ up.hold.disc = true) ∧ 100000 ≤ up.hold.run + 100000 ∧
    (after (.discrepancyFault true true 100000) up).pins.faultN = false ∧
    (after (.discrepancyFault true true 100000) up).elog.queue.map (fun e => (e.event, e.source, e.sev)) = [(0x0050, 0x6000, 3)] ∧
    (after (.discrepancyFault true true 100000) up).hold.disc = true ∧
    (after (.discrepancyFault true true 100000) up).hold.agreed = false := by
  decide +kernel

/-- A latched discrepancy fault whose pins agree again. -/
def latched : State := { up with hold := { up.hold with disc := true }, pins := { up.pins with faultN := false } }

theorem witness_DiscrepancyFaultLatchesAndClears_clear :
    latched.pfWrites 0 0x804 = true ∧ (0x10 : Word).getLsbD 4 = true ∧ latched.hold.disagree = false ∧ latched.hold.disc = true ∧
    { latched with hold := { latched.hold with disagree := true } }.pfWrites 0 0x804 = true ∧
    (after (.discFaultClear 0 0x10) latched).hold.disc = false ∧ (after (.discFaultClear 0 0x10) latched).pins.faultN = true ∧
    (after (.discFaultClear 0 0x10) latched).outputHold = false := by
  decide +kernel

theorem witness_SmbusRequestsAreAnswered :
    up.glb.st ≠ .off ∧ 4 < (5 : BitVec 8).toNat ∧ (5 : BitVec 8) ≠ 8 ∧ { up with pins := { up.pins with alertN := false } }.pins.alertN = false ∧
    up.pins.alertN = true ∧ (after .smbusState up).out = [.smbus [4] (pecOf [0xB0, 0, 0xB1, 4])] ∧
    (after .alertResponse { up with pins := { up.pins with alertN := false, bmAddr := 2 } }).out = [.smbus [0x5A] (pecOf [0x19, 0x5A])] ∧
    (after (.smbusUnlistedRead 5) up).out = [.smbus [0] (pecOf [0xB0, 5, 0xB1, 0])] ∧ (after (.smbusWrite 0 [1]) up).out = [.smbusNak] := by
  decide +kernel

theorem witness_PowerLossForcesOffAndPowerGoodStartsUp :
    ({ up with glb := { up.glb with st := .off } }.glb.st = .off ∨ False) ∧ State.reset.glb.st = .boot ∧ State.reset.glb.started = false ∧
    env.flashOk = false ∧ (after (.powerGood env) State.reset).glb.st = .held ∧ (after (.powerGood env) State.reset).svc.romMode = true ∧
    (after .powerLoss up).glb.st = .off := by
  decide +kernel

theorem witness_WarmResetRestartsAndKeepsAlwaysOnState :
    up.glb.st ≠ .off ∧ up.glb.started = true ∧ up.glb.linkUp = true ∧ up.pfWrites 0 0x20 = true ∧
    (0xA55A0001 : Word).getLsbD 0 = true ∧ (0xA55A0001 : Word).extractLsb' 16 16 = 0xA55A ∧
    (after (.perstAssert env) up).glb.st = .held ∧ (after (.hotReset env) up).hold = { discMs := up.hold.discMs, agreed := up.hold.agreed, disc := up.hold.disc, cnt := up.hold.cnt, max := up.hold.max } ∧
    (after (.glbResetWarm 0 0xA55A0001 env) up).glb.st = .held ∧ (after (.glbResetWarm 0 0xA55B0001 env) up).glb.st = .running ∧
    (after (.functionLevelReset 0 env) up).glb.st = .held ∧ (after (.perstDeassert) (after (.perstAssert env) up)).glb.linkUp = true := by
  decide +kernel

theorem witness_TemperatureAndWatchdogThrottleAndHalt :
    up.glb.st ≠ .off ∧ up.glb.st ≠ .halted ∧ ([40, 110] : List Int)[1]? = some 110 ∧ (∀ x ∈ ([40, 110] : List Int), x ≤ 110) ∧ (∀ i, i < 1 → ([40, 110] : List Int)[i]? ≠ some 110) ∧
    (-128 : Int) ≤ 110 ∧ (110 : Int) ≤ 127 ∧ up.svc.hot = 0 ∧ (94 : Int) < 110 ∧
    { up with svc := { up.svc with hot := 1 } }.svc.hot = 1 ∧ up.svc.romMode = false ∧
    (after (.thermalSample 40 [95]) up).svc.level = 1 ∧ (after (.thermalSample 40 [94]) up).svc.level = 0 ∧ (after (.thermalSample 40 [100]) up).svc.level = 2 ∧
    (after (.thermalSample 40 [105]) up).svc.divNext = some 16 ∧ (after (.thermalSample 40 [110]) up).glb.st = .running ∧
    (after (.thermalSample 40 [90]) { up with svc := { up.svc with level := 1 } }).svc.level = 1 ∧
    (after (.thermalSample 40 [89]) { up with svc := { up.svc with level := 1 } }).svc.level = 0 ∧
    (after (.thermalSample 40 [110]) { up with svc := { up.svc with hot := 1 } }).glb.haltCause = 2 ∧
    (after .watchdogExpiry up).glb.st = .halted ∧ (after .watchdogExpiry up).out = [.aer] ∧ (after .watchdogExpiry up).pins.faultN = false := by
  decide +kernel

/-! ## Profiles, domains, functions -/

/-- P0's supply has been asked for. -/
def supplyAsked : State :=
  { up with svc := { up.svc with supplyWait := some 0, pwrBusy := true }, pins := { up.pins with ackLow := true, supplyReq := 0 } }

/-- The change to P2 waits for the divisor. -/
def divisorDue : State := { up with svc := { up.svc with divNext := some 6, profNext := some 2, pwrBusy := true } }

/-- Four channels in force. -/
def four : State := { up with exp := { up.exp with ways := 1 } }

theorem witness_ProfileChangeRunsToItsEnd_command :
    four.pfWrites 0 0x10700 = true ∧ (0x80000004 : Word).getLsbD 31 = true ∧ (0x80000004 : Word).getLsbD 0 = false ∧ four.svc.pwrBusy = false ∧
    four.svc.fwBusy = false ∧ four.svc.rigBusy = false ∧ four.svc.romMode = false ∧ four.glb.st = .running ∧
    (0x80000004 : Word).extractLsb' 1 2 = 2 ∧ four.svc.rigActive.getLsbD 0 = false ∧ four.exp.list.length = 4 ∧
    four.svc.profile < (0x80000004 : Word).extractLsb' 1 2 ∧ (0x80000002 : Word).extractLsb' 1 2 = four.svc.profile ∧
    (0x80000000 : Word).extractLsb' 1 2 < four.svc.profile ∧ (0x80000006 : Word).extractLsb' 1 2 = 3 ∧ four.rig.placed.length ≤ 32 ∧
    (after (.profileCommand 0 0x80000004) four).svc.divNext = some 6 ∧ (after (.profileCommand 0 0x80000000) four).pins.supplyReq = 0 ∧
    (after (.profileCommand 0 0x80000002) four).svc.pwrDone = true ∧ (after (.profileCommand 0 0x80000006) four).svc.pwrErr = true := by
  decide +kernel

theorem witness_ProfileChangeRunsToItsEnd_end :
    supplyAsked.glb.st ≠ .off ∧ supplyAsked.svc.supplyWait = some 0 ∧ supplyAsked.pins.ackLow = true ∧ divisorDue.glb.st ≠ .off ∧
    divisorDue.glb.st ≠ .halted ∧ divisorDue.svc.divNext = some 6 ∧ divisorDue.svc.profNext = some 2 ∧ (2 : BitVec 2) ≠ 3 ∧
    { divisorDue with svc := { divisorDue.svc with profNext := none } }.svc.profNext = none ∧
    (after (.supplyAck true) supplyAsked).svc.divNext = some 4 ∧ (after .supplyTimeout supplyAsked).svc.pwrReason = 4 ∧
    (after .supplyTimeout supplyAsked).pins.supplyReq = 1 ∧ (after .tclkDivisorChange divisorDue).svc.profile = 2 ∧
    (after .tclkDivisorChange divisorDue).pins.supplyReq = 2 ∧ (after .tclkDivisorChange divisorDue).svc.div = 6 := by
  decide +kernel

/-- Domains under a command: tile 5 goes to RET, channel 2 to OFF. -/
def tileLeaving : State :=
  { up with
    svc := { up.svc with pd := [(5, 3)], pdNext := [(5, 1)], pwrBusy := true }
    tiles := [(5, { mem := [(8, 1)], acc0 := { st := .ready } })] }
def chanLeaving : State :=
  { up with
    svc := { up.svc with pd := [(70, 3)], pdNext := [(70, 0)], pwrBusy := true }
    chans := [(2, { dram := [(8, 1)] })] }
/-- What the training of a channel gives. -/
def trained : TrainResult := { ok := true, cap := 0, temp := 40 }

theorem witness_DomainChangeRunsToItsEnd_command :
    up.pfWrites 0 0x10700 = true ∧ (0x80000829 : Word).getLsbD 31 = true ∧ (0x80000829 : Word).getLsbD 0 = true ∧
    ((0x80000829 : Word).extractLsb' 3 7).toNat = 5 ∧ (0x80000829 : Word).extractLsb' 10 2 = 2 ∧ up.pd 5 ≠ 2 ∧
    (up.mapEnt (up.logOf 5)).role = 0 ∧ up.rig.placeOf (up.logOf 5) = none ∧ up.svc.profile ≠ 3 ∧ four.pd 75 ≠ 2 ∧
    ((0x80000A59 : Word).extractLsb' 3 7).toNat = 75 ∧ (0x80000A59 : Word).extractLsb' 10 2 = 2 ∧ 75 - 68 ∉ four.exp.list ∧
    ((0x80000A61 : Word).extractLsb' 3 7).toNat = 76 ∧ (0x80000A61 : Word).extractLsb' 10 2 = 2 ∧ up.pd 76 ≠ 2 ∧
    (after (.domainCommand 0 0x80000829) up).pd 5 = 3 ∧ (after (.domainCommand 0 0x80000A59) four).pd 75 = 3 ∧
    (after (.domainCommand 0 0x80000A61) up).pd 76 = 3 := by
  decide +kernel

theorem witness_DomainChangeRunsToItsEnd_end :
    tileLeaving.pd 5 = 3 ∧ tileLeaving.svc.pwrBusy = true ∧ (Tab.get 0 tileLeaving.svc.pdNext 5 : BitVec 2) = 1 ∧
    chanLeaving.pd 70 = 3 ∧ (Tab.get 0 chanLeaving.svc.pdNext 70 : BitVec 2) = 0 ∧
    (after (.domainTransitionEnd 5 trained) tileLeaving).pd 5 = 1 ∧
    ((after (.domainTransitionEnd 5 trained) tileLeaving).tile 5).mem = [(8, 1)] ∧
    ((after (.domainTransitionEnd 5 trained) tileLeaving).tile 5).acc0.st = .free ∧
    ((after (.domainTransitionEnd 70 trained) chanLeaving).chan 2).dram = [] ∧
    (after (.domainTransitionEnd 70 trained) chanLeaving).svc.pwrDone = true := by
  decide +kernel

/-- A firmware command runs. -/
def fwRuns : State := { up with svc := { up.svc with fwBusy := true } }

theorem witness_ServiceCommandsOneAtATime :
    fwRuns.svc.fwBusy = true ∧ fwRuns.pfWrites 0 0x10700 = true ∧ (0x80000000 : Word).getLsbD 31 = true ∧ (0x80000000 : Word).getLsbD 0 = false ∧
    (0x80000001 : Word).getLsbD 0 = true ∧ fwRuns.pfWrites 0 0x1042C = true ∧ (2 : Word).extractLsb' 0 4 = 2 ∧ fwRuns.pfWrites 0 0x10800 = true ∧
    (after (.profileCommand 0 0x80000000) fwRuns).svc.pwrReason = 6 ∧ (after (.domainCommand 0 0x80000001) fwRuns).svc.pwrReason = 6 ∧
    (after (.activate 0 2 io) fwRuns).svc.rigReason = 0x0D ∧ (after (.switch 0 2 io) fwRuns).svc.fwReason = 0x0D := by
  decide +kernel

/-- Queue 7 of function 1 is ACTIVE. -/
def vfQueue : State := { up with sched := { groups := [(1, { cfg := 0x701 })], queues := [(7, { st := .active, cfg := 0x103, head := 4 })] } }

theorem witness_FunctionsAreEnabledAndReset :
    up.glb.st ≠ .off ∧ up.glb.linkUp = true ∧ up.glb.vfEn = true ∧ vfQueue.glb.vfEn = true ∧ vfQueue.qFunc 7 = 1 ∧ vfQueue.qFunc 8 ≠ 1 ∧
    (after (.busMasterEnable 1 false) up).func 1 = { bme := false, mse := true } ∧ (after (.memorySpaceEnable 0 false) up).func 0 = { bme := true } ∧
    ((after (.d3hot 0 true) up).func 0).d3 = true ∧ (after (.functionLevelReset 1 env) vfQueue).func 1 = {} ∧
    ((after (.functionLevelReset 1 env) vfQueue).queue 7).st = .disabled ∧ ((after (.functionLevelReset 1 env) vfQueue).queue 7).head = 0 := by
  decide +kernel
/-! ## Steps of a strand -/

def loopW : BitVec 128 := wd [(0, 0x0E), (14, 40), (26, 1), (30, 0xFFF), (42, 4), (46, 15), (12, 2)]
def setrW : BitVec 128 := wd [(0, 0x0F), (13, 3), (17, 2), (21, 0xFFFFFFFF)]
def setcW : BitVec 128 := wd [(0, 0x0F), (12, 1), (13, 7), (17, 15), (21, 0x12345)]
def looping (n : BitVec 16) : State := onStep [loopW] { strand0 with c := [0, 0, n, 0], a := [0, 5] ++ List.replicate 13 0 } {}

theorem witness_ControlStepsEndLoopAndSet :
    (onStep [endW] strand0 {}).issues 0 0 endW = true ∧ opcodeOf endW = 0 ∧ ((onStep [endW] strand0 {}).tile 0).quiet 0 = true ∧ endW >>> 12 = 0 ∧
    (looping 0).issues 0 0 loopW = true ∧ (looping 3).issues 0 0 loopW = true ∧ opcodeOf loopW = 0x0E ∧ fld loopW 66 62 = 0 ∧
    ((looping 3).tile 0).inKernel ((looping 3).strand 0 0) (fld loopW 14 12) = true ∧ ((looping 3).strand 0 0).cnt 2 ≠ 0 ∧ ((looping 0).strand 0 0).cnt 2 = 0 ∧
    (onStep [setrW] strand0 {}).issues 0 0 setrW = true ∧ opcodeOf setrW = 0x0F ∧ fld setrW 53 75 = 0 ∧ flag setrW 12 = false ∧ fld setrW 13 4 ≠ 15 ∧
    (onStep [setcW] strand0 {}).issues 0 0 setcW = true ∧ opcodeOf setcW = 0x0F ∧ fld setcW 53 75 = 0 ∧ flag setcW 12 = true := by
  decide +kernel

theorem test_control :
    ((after (.endStep 0 0) (onStep [endW] strand0 {})).strand 0 0).st = .ending ∧
    ((after (.loop 0 0) (looping 3)).strand 0 0).next = 40 ∧ ((after (.loop 0 0) (looping 3)).strand 0 0).cnt 2 = 2 ∧
    ((after (.loop 0 0) (looping 3)).strand 0 0).reg 1 = 0xFFFFFFF5 ∧ ((after (.loop 0 0) (looping 0)).strand 0 0).next = 41 ∧
    ((after (.loop 0 0) (looping 0)).strand 0 0).reg 1 = 5 ∧
    ((after (.setr 0 0) (onStep [setrW] { strand0 with a := [0, 0, 9] } {})).strand 0 0).reg 3 = 8 ∧
    ((after (.setr 0 0) (onStep [setcW] strand0 {})).strand 0 0).cnt 3 = 0x2345 := by
  decide +kernel

/-- SSTART of a stream of 8 bytes into the window, its descriptor at offset 0; SWAIT on stream 1. -/
def sstartW : BitVec 128 := wd [(0, 7), (32, 1)]
def swaitW : BitVec 128 := wd [(0, 8), (12, 2)]

/-- A load of 8 bytes from device address `a` to window offset 128; a store of them. -/
def desc8 (a : Nat) (store : Bool) : List Byte :=
  leBytes 8 (a + (if store then 2 ^ 47 else 0)) ++ leBytes 8 128 ++ leBytes 16 8 ++ leBytes 32 1
def sstartS : State := onStep [sstartW] strand0 { mem := Mem.write 0 [] 0 (desc8 0x40 false), valid := List.range 8 }

theorem witness_StreamStartTakesAContext :
    let d := descOf ((sstartS.tile 0).opBytes 0 (spadOpnd strand0 (fld sstartW 12 20)) 64)
    sstartS.issues 0 0 sstartW = true ∧ opcodeOf sstartW = 7 ∧ fld sstartW 35 93 = 0 ∧
    sstartS.accsClear 0 0 [{ o := spadOpnd strand0 (fld sstartW 12 20), len := 64, align := 64 }] = true ∧
    (∀ st ∈ sstartS.descChecks 0 0 (fld sstartW 32 3) d.1 d.2, st = 0) ∧ d.1.fits 65536 = true ∧ (sstartS.tile 0).ctx 0 = none ∧
    (onStep [swaitW] strand0 {}).issues 0 0 swaitW = true ∧ opcodeOf swaitW = 8 ∧ fld swaitW 20 108 = 0 ∧
    (∀ i, i < 8 → (fld swaitW 12 8).testBit i = true → ((onStep [swaitW] strand0 {}).tile 0).streaming 0 i = false) := by
  decide +kernel

theorem test_stream :
    (((after (.sstart 0 0) sstartS).tile 0).ctx 0).map (fun x => (x.strand, x.sid, x.desc.gaddr, x.desc.loc, x.desc.total)) = some (0, 1, 0x40, 128, 8) ∧
    ((after (.swait 0 0) (onStep [swaitW] strand0 {})).strand 0 0).next = 41 := by
  decide +kernel

def bread3 : BitVec 128 := wd [(0, 9), (12, 3), (20, 4)]
def bwrite3 : BitVec 128 := wd [(0, 10), (12, 3), (20, 5)]
def brel3 : BitVec 128 := wd [(0, 11), (12, 3)]
def breadS (st : SlotSt) : State := withBight (onStep [bread3] strand0 {}) st
def brelS : State := withBight (onStep [brel3] { strand0 with held := [{ bight := 3, slot := 0, rd := true }] } {}) .draining
/-- Tile 0 fills its own bight 3. -/
def own3 : BightDecl := { bight3 with prod := [(0, 0)] }
def bwriteS : State := { onStep [bwrite3] strand0 {} with rig := { bights := [(3, some own3)] } }
def fullS : State :=
  { onStep [brel3] { strand0 with held := [{ bight := 3, slot := 0, rd := false }] } {} with
    rig := { bights := [(3, some own3)] }
    bights := [(3, { slots := [(0, { st := .filling, prod := some (0, 0), puid := some 9 })] })] }

theorem witness_BightStepsTakeAndReleaseSlots :
    (breadS .full).issues 0 0 bread3 = true ∧ ((breadS .full).tile 0).unitBusy 5 0 = false ∧ (breadS .full).bightDecl (fld bread3 12 8) = some bight3 ∧
    opcodeOf bread3 = 9 ∧ fld bread3 24 104 = 0 ∧ fld bread3 20 4 ≠ 15 ∧ bight3.consumer ((breadS .full).me 0) = true ∧
    (∀ j, j < bight3.slots → ((breadS .full).slotAt 3 j).returned = false) ∧
    ((breadS .full).slotAt 3 ((breadS .full).bight 3).rd).st = .full ∧ ((breadS .full).bight 3).rd < bight3.slots ∧
    bwriteS.issues 0 0 bwrite3 = true ∧ (bwriteS.tile 0).unitBusy 5 0 = false ∧ bwriteS.bightDecl (fld bwrite3 12 8) = some own3 ∧
    opcodeOf bwrite3 = 10 ∧ fld bwrite3 24 104 = 0 ∧ fld bwrite3 20 4 ≠ 15 ∧ own3.consumer (bwriteS.me 0) = true ∧
    own3.rank (bwriteS.me 0) = some 0 ∧ 0 < bwriteS.credit 3 own3 0 ∧ bwriteS.layHeld own3 9 = false ∧
    (bwriteS.slotAt 3 (bwriteS.nextWr 3 0)).st = .empty ∧ own3.prod[bwriteS.nextWr 3 0 % own3.nprod]? = some (bwriteS.me 0) ∧
    brelS.issues 0 0 brel3 = true ∧ (brelS.tile 0).unitBusy 5 0 = false ∧ brelS.bightDecl (fld brel3 12 8) = some bight3 ∧ opcodeOf brel3 = 11 ∧
    fld brel3 20 108 = 0 ∧ (brelS.strand 0 0).held.find? (fun h => h.bight == 3) = some { bight := 3, slot := 0, rd := true } := by
  decide +kernel

theorem test_bight_steps :
    ((after (.bread 0 0) (breadS .full)).strand 0 0).reg 4 = 64 ∧ ((after (.bread 0 0) (breadS .full)).slotAt 3 0).st = .draining ∧
    ((after (.bread 0 0) (breadS .empty)).strand 0 0).reason = .slot ∧
    ((after (.bwrite 0 0) bwriteS).strand 0 0).reg 5 = 64 ∧ (after (.bwrite 0 0) bwriteS).credit 3 own3 0 = 1 ∧
    (after (.bwrite 0 0) bwriteS).slotAt 3 0 = { st := .filling, prod := some (0, 0), puid := some 9 } ∧ (after (.bwrite 0 0) bwriteS).mesh = [] ∧
    ((after (.brel 0 0) fullS).slotAt 3 0).st = .full ∧
    ((after (.brel 0 0) brelS).slotAt 3 0).st = .empty ∧ (after (.brel 0 0) brelS).mesh.map (fun q => (q.dst, q.body)) = [(.tile 1, .credit 3 0)] := by
  decide +kernel

def harriveW : BitVec 128 := wd [(0, 12), (12, 6), (20, 2)]
def hwaitW : BitVec 128 := wd [(0, 13), (12, 6)]

theorem witness_HitchStepsArriveAndWait :
    (withHitch (onStep [harriveW] strand0 {})).issues 0 0 harriveW = true ∧ (withHitch up).hitch 6 = { target := 3, alloc := true } ∧
    fld harriveW 12 8 = 6 ∧ opcodeOf harriveW = 12 ∧ fld harriveW 36 92 = 0 ∧ fld harriveW 20 16 ≠ 0 ∧ ((onStep [harriveW] strand0 {}).tile 0).unit 5 = [] ∧
    strand0.unacked = 0 ∧ ((onStep [harriveW] strand0 {}).tile 0).canArrive 0 6 = true ∧ (withHitch (onStep [hwaitW] strand0 {})).issues 0 0 hwaitW = true ∧ opcodeOf hwaitW = 13 ∧
    fld hwaitW 12 8 = 6 ∧ fld hwaitW 20 108 = 0 ∧
    Tab.get 1 { strand0 with arrived := [(6, 0)] }.arrived 6 = 0 ∧
    (∀ u ∈ ((onStep [hwaitW] strand0 {}).tile 0).unit 5 ++ ((onStep [hwaitW] strand0 {}).tile 0).unit 0, u.strand = 0 → u.arrive.map (·.1) ≠ some 6) ∧
    (after (.harrive 0 0) (withHitch (onStep [harriveW] strand0 {}))).mesh.map (fun q => q.body) = [.arrive 6 2 9 0 0 false] ∧
    ((after (.hwait 0 0) (withHitch (onStep [hwaitW] { strand0 with arrived := [(6, 0)] } {}))).strand 0 0).next = 41 ∧
    ((after (.hwait 0 0) (withHitch (onStep [hwaitW] { strand0 with arrived := [(6, 1)] } {}))).strand 0 0).reason = .hitch := by
  decide +kernel

/-- The limits of tile 0 have run out: 200 time units since the wait began. -/
def expired (s : State) : State := { s with glb := { s.glb with time := 200 } }
def slotWait : State := expired (withBight (onStep [bread3] { strand0 with st := .waiting, reason := .slot } { bightLimit := 2, setLimit := 2 }) .empty)
def setWait : State :=
  expired (withBight (onStep [bread3] { strand0 with st := .waiting, reason := .mset }
    { bightLimit := 2, setLimit := 2, tb1 := { st := .building, owner := some 0, share := some (4, 0) } }) .empty)
/-- A TMCAST at the head of the builder has waited for its share hitch since time 0. -/
def shareWait : State :=
  expired (onStep [endW] strand0 { setLimit := 2, units := [(0, [{ strand := 0, uid := 9, ent := { word := endW, tok := 0 }, wait := true }])] })

theorem witness_WaitLimitsEndTheTask :
    (slotWait.strand 0 0).st = .waiting ∧ (slotWait.strand 0 0).reason = .slot ∧
    (slotWait.strand 0 0).waitFrom + 100 * max 1 (slotWait.tile 0).bightLimit.toNat ≤ slotWait.glb.time ∧
    slotWait.fetch 0 0 = .step { word := bread3, tok := 0 } false ∧ (slotWait.tile 0).waituBlocked 0 (waituOf bread3) = false ∧
    opcodeOf bread3 = 9 ∧ (slotWait.tile 0).room 5 = true ∧ fld bread3 12 8 = 3 ∧ fld bread3 24 104 = 0 ∧ fld bread3 20 4 ≠ 15 ∧
    slotWait.bightDecl 3 = some bight3 ∧ bight3.consumer (slotWait.me 0) = true ∧ slotWait.takeable 3 bight3 = none ∧
    (setWait.strand 0 0).st = .waiting ∧ (setWait.strand 0 0).reason = .mset ∧
    (setWait.strand 0 0).waitFrom + 100 * max 1 (setWait.tile 0).setLimit.toNat ≤ setWait.glb.time ∧
    (setWait.tile 0).shadow.owner = some 0 ∧ (setWait.tile 0).shadow.st = .building ∧
    (shareWait.strand 0 0).st = .issuing ∧ (∃ y ∈ (shareWait.tile 0).unit 0, y.strand = 0 ∧ y.wait = true ∧ y.arrive = none ∧
      y.since + 100 * max 1 (shareWait.tile 0).setLimit.toNat ≤ shareWait.glb.time) ∧
    ((after (.bightTimeout 0 0) slotWait).strand 0 0).status = 8 ∧ ((after (.setTimeout 0 0) setWait).strand 0 0).status = 15 ∧
    ((after (.setTimeout 0 0) shareWait).strand 0 0).status = 15 ∧ ((after (.setTimeout 0 0) setWait).tile 0).arraySt = 4 ∧
    (after (.setTimeout 0 0) setWait).elog.queue.map (fun e => (e.event, e.info1)) = [(0x0010, 0x0F)] := by
  decide +kernel

/-! ## Vector operations -/

/-- Operation `op` on two FP32 elements at offsets 0 and 64, to offset 128. -/
def vw (op : Nat) : BitVec 128 := wd [(0, 6), (12, op), (18, 3), (22, 3), (26, 2), (42, 0), (62, 1), (82, 2), (118, 15)]
def vecMem : Mem := Mem.write 0 (Mem.write 0 [] 0 (leBytes 8 0x4020000040000000)) 64 (leBytes 8 0xC0A000003F800000)
def vecS (op : Nat) : State := onStep [vw op] strand0 { mem := vecMem, valid := [0, 8] }
/-- The two results. -/
def vecOut (c : Instr) (op : Nat) : Nat × Nat :=
  let t := (after c (vecS op)).tile 0
  (leNat (t.bytes 128 4), leNat (t.bytes 132 4))

theorem witness_VectorStepWritesItsResults :
    let pl := binaryPlan addR strand0 (vw 1)
    let rd : Rd := fun o n => ((vecS 1).tile 0).opBytes 0 o n
    (1, Instr.add, binaryPlan addR).1 = 1 ∧ (vecS 1).memOk = true ∧ (vecS 1).issues 0 0 (vw 1) = true ∧ opcodeOf (vw 1) = 6 ∧ vopOf (vw 1) = 1 ∧
    vLen (vw 1) ≠ 0 ∧ (∀ st ∈ pl.checks ++ (pl.more rd).2, st = 0) ∧ (vecS 1).accsClear 0 0 (pl.accs ++ (pl.more rd).1) = true ∧
    (pl.run rd pl.count).st = 0 := by
  decide +kernel

theorem witness_ElementwiseOperationsComputeEachElement :
    (vecS 4).memOk = true ∧ (vecS 4).issues 0 0 (vw 4) = true ∧ opcodeOf (vw 4) = 6 ∧ vopOf (vw 4) = 4 ∧ vLen (vw 4) ≠ 0 ∧ anyFmt (vSF (vw 4)) = true ∧
    floatFmt (vDF (vw 4)) = true ∧ (vecS 4).accsClear 0 0 ([{ o := vA strand0 (vw 4), len := 8 }] ++ [{ o := vB strand0 (vw 4), len := 8 }]
      ++ [{ o := vD strand0 (vw 4), len := 8 }] ++ [{ o := vD strand0 (vw 4), len := 8, write := true }]) = true := by
  decide +kernel

/-- 2 + 1 and 2.5 + -5; 2 - 1 and 2.5 + 5; their products; the larger and the smaller. -/
theorem test_vector_binary :
    vecOut (.add 0 0) 1 = (0x40400000, 0xC0200000) ∧ vecOut (.sub 0 0) 2 = (0x3F800000, 0x40F00000) ∧
    vecOut (.mul 0 0) 3 = (0x40000000, 0xC1480000) ∧ vecOut (.max 0 0) 6 = (0x40000000, 0x40200000) ∧
    vecOut (.min 0 0) 7 = (0x3F800000, 0xC0A00000) ∧ vecOut (.copy 0 0) 0 = (0x40000000, 0x40200000) ∧
    vecOut (.fma 0 0) 4 = (0x40000000, 0xC1480000) ∧ vecOut (.pscale 0 0) 31 = (0x40000000, 0xC1480000) := by
  decide +kernel
/-! ## Tables, passes and the epilogue -/

/-- 64 channels of token 0 at 0, its record at 64 (scale 1, zero point 3). -/
def actMem : Mem := Mem.write 0 (Mem.write 0 [] 0 ((List.range 64).map fun i => BitVec.ofNat 8 (i % 7))) 64 (leBytes 8 0x033F800000)
def tbuildW : BitVec 128 := wd [(0, 1), (28, 64), (43, 15), (78, 0xFFFFF)]
def tmcastW : BitVec 128 := wd [(0, 2), (28, 64), (43, 15), (78, 0xFFFFF), (116, 5), (120, 6)]
def buildS (w : BitVec 128) : State :=
  { withHitch (onStep [w] strand0 { mem := actMem, valid := List.range 9 }) with
    rig := { mcast := [(0, some { share := true, lay := 0, src := 0, shareset := 4, dest := [1] }),
                       (1, some { share := true, lay := 0, src := 1, shareset := 4, dest := [0] })] } }
def tokRec : TokRec := { scale := 0x3F800000, zero := 3, fmt := false }

theorem witness_TableBuildsFillTheShadowBank_build :
    let e := buildEnt strand0 { word := tbuildW, tok := 0 } false
    let m := buildEnt strand0 { word := tmcastW, tok := 0 } false
    (buildS tbuildW).issues 0 0 tbuildW = true ∧ opcodeOf tbuildW = 1 ∧ strand0.suppressed e.tok = false ∧ strand0.rg = none ∧
    strand0.skipping e.tok = false ∧ isV (fld tbuildW 12 3) = false ∧ ((buildS tbuildW).tile 0).canClaim 0 = true ∧
    (∀ st ∈ buildChecks ((buildS tbuildW).tile 0) e false, st = 0) ∧ (buildS tbuildW).accsClear 0 0 (buildAccs strand0 e) = true ∧ e.o2 = .none_ ∧
    (buildS tbuildW).getRecord 0 0 e = some tokRec ∧
    (buildS tmcastW).issues 0 0 tmcastW = true ∧ opcodeOf tmcastW = 2 ∧ strand0.only = none ∧ strand0.skipping m.tok = false ∧
    isV (fld tmcastW 12 3) = false ∧ ((buildS tmcastW).tile 0).canClaim 0 = true ∧ (∀ st ∈ buildChecks ((buildS tmcastW).tile 0) m true, st = 0) ∧
    (buildS tmcastW).shareSet ((buildS tmcastW).logOf 0) = some (4, [0, 1]) ∧ ((buildS tmcastW).hitch (fld tmcastW 120 8)).alloc = true ∧
    ((buildS tmcastW).tile 0).canArrive 0 6 = true ∧ (buildS tmcastW).accsClear 0 0 (buildAccs strand0 m) = true ∧ m.o2 = .none_ ∧
    (buildS tmcastW).getRecord 0 0 m = some tokRec := by
  decide +kernel

theorem witness_TableBuildsFillTheShadowBank_settled : (buildS tbuildW).UnitsSettled 0 ∧ (buildS tmcastW).UnitsSettled 0 :=
  ⟨⟨rfl, rfl⟩, ⟨rfl, rfl⟩⟩

def sharing : State :=
  { up with
    svc := { up.svc with pd := [(1, 2)] }
    tiles := [(1, { tb1 := { st := .building, owner := some 2, present := 0x7FFF, share := some (4, 5), slots := List.replicate 16 [] } })]
    mesh := [{ src := .tile 0, dst := .tile 1, vc := .pst, body := .tableSlot 4 5 15 [7] (.step 0 0 9) },
             { src := .tile 3, dst := .tile 1, vc := .pst, body := .tableSlot 4 6 15 [7] (.step 3 0 9) }] }

theorem witness_TableBuildsFillTheShadowBank_packet :
    sharing.deliverable 0 = some { src := .tile 0, dst := .tile 1, vc := .pst, body := .tableSlot 4 5 15 [7] (.step 0 0 9) } ∧
    sharing.deliverable 1 = some { src := .tile 3, dst := .tile 1, vc := .pst, body := .tableSlot 4 6 15 [7] (.step 3 0 9) } ∧
    (sharing.tile 1).deadRouter = false ∧ sharing.spadOpen 1 = true ∧ (sharing.tile 1).shadow.st = .building ∧ (sharing.tile 1).shadow.share = some (4, 5) ∧ (sharing.tile 1).shadow.share ≠ some (4, 6) ∧
    ((after (.tableMulticastPacket 0) sharing).tile 1).shadow.st = .ready ∧ ((after (.tableMulticastPacket 0) sharing).tile 1).shadow.present = 0xFFFF ∧
    ((after (.tableMulticastPacket 1) sharing).tile 1).arraySt = 2 := by
  decide +kernel

def cbloadW : BitVec 128 := wd [(0, 3), (13, 0x77)]
/-- Tile 0 with step `u` on unit `n` and shadow bank `b`. -/
def onUnit (n : Nat) (u : UStep) (b : TableBank) : State := onStep [endW] strand0 { units := [(n, [u])], tb1 := b }
def theStep (w : BitVec 128) : UStep := { strand := 0, uid := 9, ent := { word := w, tok := 0 } }
def drained : State := onStep [endW] strand0 {
  units := [(2, [theStep (wd [(0, 5)])])]
  acc0 := { st := .draining, owner := some 0, groups := [(0, { base := 0, rows := 1, wfmt := 4, drained := true })] } }

theorem witness_UnitsLoadSwapAndComplete :
    (onStep [cbloadW] strand0 {}).issues 0 0 cbloadW = true ∧ opcodeOf cbloadW = 3 ∧ fld cbloadW 50 78 = 0 ∧ ((onStep [cbloadW] strand0 {}).tile 0).unit 0 = [] ∧
    (onStep [cbloadW] strand0 {}).accsClear 0 0 [{ o := spadOpnd strand0 (fld cbloadW 30 20), len := 1024, align := 64 }] = true ∧
    (onUnit 0 (theStep cbloadW) {}).tileRuns 0 = true ∧ ((onUnit 0 (theStep cbloadW) {}).tile 0).unit 0 = [theStep cbloadW] ∧
    (theStep cbloadW).wait = false ∧ (theStep cbloadW).clamped = false ∧ ((onUnit 0 (theStep cbloadW) {}).tile 0).nothingWaits = true ∧
    ((onUnit 0 (theStep cbloadW) {}).tile 0).loadsInto (flag cbloadW 12) = [theStep cbloadW] ∧
    ((onStep [cbloadW] strand0 {}).tile 0).loadsInto (flag cbloadW 12) = [] ∧
    ((onUnit 0 (theStep tbuildW) { st := .building, owner := some 0 }).tile 0).shadow.st = .building ∧
    ((drained.tile 0).abank 0).clamped = false ∧ (∀ g ∈ ((drained.tile 0).abank 0).groups, g.2.drained = true) ∧
    ((onUnit 1 (theStep (wd [(0, 4), (20, 1)])) { st := .ready, owner := some 0 }).tile 0).shadow.st = .ready ∧
    ((onUnit 1 (theStep (wd [(0, 4), (20, 1)])) { st := .ready, owner := some 0 }).strand 0 0).skipping 0 = false ∧
    ((onStep [endW] strand0 { tb1 := { st := .ripple }, swapBusy := true }).tile 0).swapBusy = true := by
  decide +kernel

theorem test_units :
    ((after (.cbload 0 0) (onStep [cbloadW] strand0 {})).tile 0).cb0.loading = true ∧
    ((after (.unitStepComplete 0 0) (onUnit 0 (theStep tbuildW) { st := .building, owner := some 0 })).tile 0).shadow.st = .ready ∧
    ((after (.unitStepComplete 0 2) drained).tile 0).acc0.st = .free ∧
    ((after (.tableSwap 0) (onUnit 1 (theStep (wd [(0, 4), (20, 1)])) { st := .ready, owner := some 0 })).tile 0).active.owner = some 0 ∧
    ((after (.tableSwap 0) (onUnit 1 (theStep (wd [(0, 4), (20, 1)])) { st := .ready, owner := some 0 })).tile 0).shadow.st = .ripple ∧
    ((after (.rippleEnd 0) (onStep [endW] strand0 { tb1 := { st := .ripple }, swapBusy := true })).tile 0).tb1.st = .free := by
  decide +kernel

/-- The example of R181 (05_tile_and_strands): its doublewords. -/
theorem test_lpass_encoding :
    wd [(0, 4), (12, 2), (17, 1), (20, 1), (22, 1), (24, 8), (36, 128), (50, 0x20000), (70, 3), (86, 128), (94, 4096), (109, 5)] =
      0x0000A400200000C80000080008522004 := by
  decide +kernel

/-- A segment of one row under one plane, its index block at 1024; group 0 at entry 0. -/
def lpassW : BitVec 128 := wd [(0, 4), (20, 1), (22, 1), (23, 1), (24, 4), (36, 1), (45, 1), (50, 16), (94, 1)]
def zeroSet (st : TBankSt) : TableBank := { st := st, owner := some 0, slots := List.replicate 16 [1, 2, 3, 4, 5, 6, 7, 8], sums := List.replicate 16 1 }
def lpassS : State := onStep [lpassW] strand0 { tb1 := zeroSet .ready }
def segment : UStep := { strand := 0, uid := 9, ent := { word := lpassW, tok := 0, o1 := .spad 1024, sum := true }, run := true, bank := 0 }
def retireS (sat : Bool) : State := onStep [endW]
    { strand0 with log := [{ word := lpassW, tok := 0 }], rg := some { tok := 0, rgo := true }, recs := [(0, tokRec)] } {
  tb0 := zeroSet .active, units := [(1, [segment])]
  acc0 := { st := .filling, owner := some 0, groups := [(0, { base := 0, rows := 1, wfmt := 4 })]
            entries := if sat then [(0, { total := 2 ^ 31 })] else [] } }

theorem witness_LookupPassesAreQueuedAndRetired_queue :
    lpassS.issues 0 0 lpassW = true ∧ opcodeOf lpassW = 4 ∧ strand0.suppressed 0 = false ∧ strand0.rg = none ∧ strand0.skipping 0 = false ∧
    ((lpassS.tile 0).passSet 0 (flag lpassW 20)).toOption = some (zeroSet .ready) ∧ (lpassS.tile 0).passBank 0 (flag lpassW 22) = some (some 0) ∧
    (∀ st ∈ lpassChecks lpassW (zeroSet .ready) {}, st = 0) ∧
    lpassS.accsClear 0 0 [lpassAcc (lpassEnt strand0 { word := lpassW, tok := 0 } false) (passRows lpassW {})] = true ∧
    ((after (.lpass 0 0) lpassS).tile 0).acc0.st = .filling := by
  decide +kernel

def segOut (sat : Bool) : SegOut :=
  runSegment (fun a n => ((retireS sat).tile 0).opBytes 0 ((Opnd.spad 1024).plus a) n) lpassW ((retireS sat).tile 0).active.slots
    { base := 0, rows := 1, wfmt := 4 } ((retireS sat).tile 0).acc0.entries

theorem witness_LookupPassesAreQueuedAndRetired_retire :
    (retireS false).tileRuns 0 = true ∧ ((retireS true).tile 0).unit 1 = [segment] ∧ segment.run = true ∧ segment.skipped = false ∧
    ((retireS true).strand 0 0).skipping 0 = false ∧ (segOut true).invalid = none ∧ (segOut false).invalid = none ∧
    (segOut true).anyGuard = false ∧ (segOut false).anyGuard = false ∧
    flag lpassW 23 = true ∧ ((retireS true).strand 0 0).shiftOf 0 < 3 ∧ ((retireS true).strand 0 0).log ≠ [] ∧
    ((retireS true).strand 0 0).logOver = false ∧
    ((after (.passRetire 0) (retireS false)).tile 0).acc0.st = .ready ∧
    ((after (.passRetire 0) (retireS true)).tile 0).acc0.st = .replay := by
  decide +kernel

/-- OUTPUT of group 0 as FP32 at offset 4096, row records at 2048. -/
def outputW : BitVec 128 := wd [(0, 5), (17, 1), (32, 64), (52, 3), (56, 15), (61, 15)]
def readyBank : AccBank := { st := .ready, owner := some 0, groups := [(0, { base := 0, rows := 1, wfmt := 4 })], entries := [(0, { total := 6 })] }
def outputS : State :=
  onStep [outputW] { strand0 with a := [0, 0, 0, 2048], recs := [(0, tokRec)] } {
    acc0 := readyBank, mem := [(2050, 0x80), (2051, 0x3F)], valid := [256] }

theorem witness_OutputsLeaveTheirBank_output :
    outputS.memOk = true ∧ outputS.issues 0 0 outputW = true ∧ opcodeOf outputW = 5 ∧ fld outputW 12 2 = 0 ∧ (outputS.strand 0 0).only = none ∧
    (outputS.tile 0).drainBank 0 0 = some (some 0) ∧ readyBank.group (fld outputW 25 3) = some { base := 0, rows := 1, wfmt := 4 } ∧
    twoGroups outputW = false ∧ Tab.get none ((outputS.strand 0 0).recs.map fun r => (r.1, some r.2)) 0 = some tokRec ∧
    outputS.epiClear 0 0 outputW 4 1 = true ∧ ((after (.output 0 0) outputS).tile 0).acc0.st = .draining ∧
    leNat (((after (.output 0 0) outputS).tile 0).bytes 4096 4) = 0x40400000 := by
  decide +kernel

/-- PARTIAL of reduction group 2, whose parts are tiles 0 and 1 and whose combining bight is bight 3 on tile 4. -/
def partialW : BitVec 128 := wd [(0, 5), (12, 1), (52, 15), (86, 2)]
def combBight : BightDecl :=
  { lay := 0, cnode := 0, ctile := 4, region := 4096, slotsz := 2, slots := 2, nprod := 2, prod := [(0, 0), (0, 1)], tps := 1, tstride := 0 }
def red2 : RedGroup := { lay := 0, n := 2, cbight := 3, comb := (0, 4), parts := [(0, 0), (0, 1)] }
def partialS : State :=
  { onStep [partialW] { strand0 with recs := [(0, tokRec)] } { acc0 := { readyBank with groups := [(0, { base := 0, rows := 1, wfmt := 4, part := true })] } } with
    rig := { bights := [(3, some combBight)], reduce := [(2, some red2)] }
    sched := { tasks := [(9, some { func := 0, queue := 0, tag := 0, kernel := 0, irq := false, lay := 0, stage := 0, tile := 255, layVer := 0,
                                    base := 0, size := 65536, opnds := [], st := .running 0 0 })] } }
def partialOut : List Byte × State := partialS.partials (partialS.tile 0).acc0 0 2 0 0 0x3F800000

theorem witness_OutputsLeaveTheirBank_partial :
    partialS.issues 0 0 partialW = true ∧ opcodeOf partialW = 5 ∧ fld partialW 12 2 = 1 ∧ (partialS.strand 0 0).only = none ∧
    (partialS.tile 0).drainBank 0 0 = some (some 0) ∧ fld partialW 93 35 = 0 ∧ fld partialW 14 3 < 6 ∧ twoGroups partialW = false ∧
    ((partialS.tile 0).acc0.group 0).isSome = true ∧ Tab.get none partialS.rig.reduce 2 = some red2 ∧ red2.parts.contains (partialS.me 0) = true ∧
    partialS.bightDecl 3 = some combBight ∧ combBight.rank (partialS.me 0) = some 0 ∧ combBight.cnode = partialS.node ∧
    combBight.consumer (partialS.me 0) = false ∧ partialOut.1.length ≤ combBight.slotsz * 64 ∧ 0 < partialS.credit 3 combBight 0 ∧
    partialS.layHeld combBight 9 = false ∧ (partialS.strand 0 0).ackRoom (piecesOf 256 (combBight.slotOff 0) partialOut.1.length) = true ∧
    ((after (.partialSend 0 0) partialS).task 9).map (·.sent) = some [(2, 0)] := by
  decide +kernel

/-- COMBINE of the group on tile 4, its two parts in the slots. -/
def combineW : BitVec 128 := wd [(0, 5), (12, 2), (17, 1), (32, 0), (52, 3), (56, 15), (61, 15), (86, 2)]
def combineS : State :=
  { up with
    svc := { up.svc with pd := [(4, 2)] }
    rig := { bights := [(3, some combBight)], reduce := [(2, some red2)] }
    bights := [(3, { slots := [(0, { st := .full, prod := some (0, 0) }), (1, { st := .full, prod := some (0, 1) })] })]
    tiles := [(4, {
      pstore := prog [combineW]
      mem := [(2050, 0x80), (2051, 0x3F), (4103, 4), (4104, 1), (4108, 2), (4114, 0x80), (4115, 0x3F), (4160, 6),
              (4229, 1), (4231, 4), (4232, 1), (4236, 2), (4242, 0x80), (4243, 0x3F), (4288, 4)]
      valid := [256, 512, 513, 514, 520, 528, 529, 530, 536], strands := [(0, { strand0 with a := [0, 0, 0, 2048] })] })] }
def partsSeen : List PartRec × List Nat :=
  combineCheck ([0, 1].map fun j => findPartial ((combineS.tile 4).bytes (combBight.slotOff j) (combBight.slotsz * 64)) 0 8) 2 0 2
/-- The step's strand waits for partials, and none has come for 200 time units. -/
def combineWait : State :=
  expired { combineS with bights := [], tiles := combineS.tiles.map fun q => (q.1, { q.2 with
    bightLimit := 2, strands := [(0, { strand0 with st := .waiting, reason := .slot })] }) }

theorem witness_CombineAcceptsAndSums :
    combineS.memOk = true ∧ combineS.issues 4 0 combineW = true ∧ opcodeOf combineW = 5 ∧ fld combineW 12 2 = 2 ∧ twoGroups combineW = false ∧
    fld combineW 93 35 = 0 ∧ fld combineW 14 3 < 6 ∧ Tab.get none combineS.rig.reduce 2 = some red2 ∧ red2.comb = combineS.me 4 ∧
    combineS.bightDecl 3 = some combBight ∧
    ((combineS.endPass 4 0).takePartials 4 0 2 0 red2 combBight).map (·.2) = some ([0, 1], []) ∧
    (∀ j ∈ [0, 1], (combineS.tile 4).blocked (combBight.slotOff j) 128 = false ∧ (combineS.tile 4).poisonedIn (combBight.slotOff j) 128 = false) ∧
    partsSeen.1.map (·.totals) = [[6], [4]] ∧ partsSeen.2 = [0, 0] ∧ (∀ r ∈ combineRows partsSeen.1, r.2.2.1 = false) ∧
    combineS.epiClear 4 0 combineW 4 1 = true ∧
    (∀ a ∈ (Dest.spad (spadOpnd strand0 (fld combineW 32 20))).accs 1 4, ∀ v ∈ wordsOf (a.o.off.getD 0) a.len, combineS.regionAt 4 (8 * v) = none) ∧
    leNat (((after (.combine 4 0) combineS).tile 4).bytes 0 4) = 0x40A00000 ∧ ((after (.combine 4 0) combineS).slotAt 3 1).st = .empty := by
  decide +kernel

theorem witness_WaitLimitsEndTheTask_combine :
    (combineWait.strand 4 0).st = .waiting ∧ (combineWait.strand 4 0).reason = .slot ∧
    (combineWait.strand 4 0).waitFrom + 100 * max 1 (combineWait.tile 4).bightLimit.toNat ≤ combineWait.glb.time ∧
    combineWait.fetch 4 0 = .step { word := combineW, tok := 0 } false ∧ (combineWait.tile 4).waituBlocked 0 (waituOf combineW) = false ∧
    isCombine combineW = true ∧ (combineWait.tile 4).room 2 = true ∧ fld combineW 93 35 = 0 ∧ fld combineW 14 3 < 6 ∧
    Tab.get none combineWait.rig.reduce (fld combineW 86 6) = some red2 ∧ red2.comb = combineWait.me 4 ∧ combineWait.bightDecl 3 = some combBight ∧
    ((combineWait.endPass 4 0).takePartials 4 0 2 (tokOpnd (combineWait.strand 4 0) (fld combineW 18 7)) red2 combBight).isNone = true ∧
    ((after (.bightTimeout 4 0) combineWait).strand 4 0).status = 8 := by
  decide +kernel

/-! ## Streams and packets at a tile -/

def load8 : Desc := (descOf (desc8 0x40 false)).1
def store8 : Desc := (descOf (desc8 0x8003000040 true)).1
/-- Context 3 of tile 0 runs stream `d` for strand 0. -/
def streaming (d : Desc) : State :=
  onStep [endW] strand0 { mem := [(128, 7), (130, 8)], valid := [16], ctxs := [(3, some { strand := 0, uid := 9, sid := 1, desc := d })], rr := 2 }
def spadLoad : Desc := { load8 with gaddr := 0x8003000040 }
def dramStore : Desc := { store8 with gaddr := 0x40 }
/-- The same bytes to the scratchpads of multicast group 4, tiles 3 and 5. -/
def mcastStore : Desc := { store8 with gaddr := 0x40, mcast := true, mgroup := 4 }
def group4 : McastGroup := { share := false, lay := 0, src := 0, shareset := 0, dest := [3, 5] }
def multicasting : State := { streaming mcastStore with rig := { mcast := [(4, some group4)] } }
/-- The context of `streaming d`. -/
def ctxOf (d : Desc) : StreamCtx := { strand := 0, uid := 9, sid := 1, desc := d }

theorem witness_StreamRequestSendsOnePacket :
    (streaming load8).tileRuns 0 = true ∧ (((streaming load8).tile 0).rr + 1) % 16 = 3 ∧ ((streaming load8).tile 0).ctx 3 = some (ctxOf load8) ∧
    (∀ d ∈ [load8, spadLoad, store8, dramStore], (ctxOf d).spent = false ∧
      ((streaming d).ctxSlot 0 3 (ctxOf d)).map (fun r => r.toOption.map (·.2)) = some (some (ctxOf d)) ∧
      ((streaming d).spend 0 ((streaming d).extBytes ((streaming d).strand 0 0) (ctxOf d) 8)).isSome = true) ∧
    (ctxOf mcastStore).spent = false ∧ mcastStore.dir = true ∧ mcastStore.dbight = false ∧ Tab.get none multicasting.rig.mcast 4 = some group4 ∧
    mcastStore.mgroup = 4 ∧ strand0.ackRoom 2 = true ∧ [3, 5].map multicasting.tileEnd = [.tile 3, .tile 5] ∧ (multicasting.strand 0 0).func = 0 ∧
    (multicasting.ctxSlot 0 3 (ctxOf mcastStore)).map (fun r => r.toOption.map (·.2)) = some (some (ctxOf mcastStore)) ∧
    (multicasting.spend 0 (multicasting.extBytes (multicasting.strand 0 0) (ctxOf mcastStore) 8)).isSome = true ∧
    load8.total = 8 ∧ load8.run 0 0 8 0 = 8 ∧ load8.dbight = false ∧ load8.mcast = false ∧ load8.dir = false ∧ ((streaming load8).tile 0).outReads < 64 ∧
    ((streaming load8).taskTarget 0 0 (((0x40 : Int) + load8.pat 0) / 64 * 64) false).toOption = some (.dram 0x40 0) ∧
    ((streaming spadLoad).taskTarget 0 0 0x8003000040 false).toOption = some (.spad 3 0x40) ∧
    store8.dir = true ∧ store8.dbight = false ∧ store8.mcast = false ∧ strand0.ackRoom 1 = true ∧
    (∀ v ∈ store8.localWords 0 0 8, ((streaming store8).tile 0).wordEcc v = .clean) ∧
    ((streaming store8).taskTarget 0 0 0x8003000040 true).toOption = some (.spad 3 0x40) ∧
    ((streaming dramStore).taskTarget 0 0 0x40 true).toOption = some (.dram 0x40 0) ∧
    (after (.streamRequest 0) multicasting).mesh.map (fun q => (q.dst, q.more)) = [(.tile 3, [.tile 5])] ∧
    (((after (.streamRequest 0) multicasting).tile 0).ctx 3).map (·.unacked) = some 2 ∧
    (after (.streamRequest 0) (streaming load8)).mesh.map (·.dst) = [.chan ((streaming load8).exp.locate 0x40).1] ∧
    (after (.streamRequest 0) (streaming spadLoad)).mesh.map (·.dst) = [.tile 3] ∧
    (after (.streamRequest 0) (streaming store8)).mesh.map (·.body) =
      [.spadWrite [(64, 7), (65, 0), (66, 8), (67, 0), (68, 0), (69, 0), (70, 0), (71, 0)] (some (0, 0)) (.stream 0 0 9 3 0 8)] := by
  decide +kernel

/-- A packet for tile 0 waits in the mesh. -/
def pkt (b : Body) : Packet := { src := .tile 3, dst := .tile 0, vc := .pst, body := b }
def arriving (s : State) (b : Body) : State := { s with mesh := [pkt b] }
def tile0 (t : Tile) : State := onStep [endW] strand0 t

theorem witness_TilePacketsTakeEffect_scratchpad :
    let w := arriving (tile0 {}) (.spadWrite [(64, 7), (66, 8)] none (.step 3 0 9))
    let r := arriving (tile0 { mem := [(64, 7)], valid := [8] }) (.spadRead 64 4 (.stream 3 0 9 2 0 4))
    w.spadOpen 0 = true ∧ (w.tile 0).deadRouter = false ∧ w.memOk = true ∧
    { w with mesh := [{ pkt (.spadWrite [(64, 7), (66, 8)] none (.step 3 0 9)) with bad := true }] }.deliverable 0 =
      some { pkt (.spadWrite [(64, 7), (66, 8)] none (.step 3 0 9)) with bad := true } ∧
    (after (.scratchpadWrite 0) { w with mesh := [{ pkt (.spadWrite [(64, 7), (66, 8)] none (.step 3 0 9)) with bad := true }] }).mesh.map (·.body) =
      [.ack 1 (.step 3 0 9)] ∧
    { w with svc := { w.svc with pd := [(0, 1)] } }.spadOpen 0 = false ∧
    (after (.scratchpadWrite 0) { w with svc := { w.svc with pd := [(0, 1)] } }).mesh.map (·.body) = [.ack 0x0C (.step 3 0 9)] ∧
    w.deliverable 0 = some (pkt (.spadWrite [(64, 7), (66, 8)] none (.step 3 0 9))) ∧
    (w.tile 0).writeBlocked [(64, 7), (66, 8)] = false ∧ 64 < (w.tile 0).usable ∧ w.slotRule 0 64 none = true ∧ (w.tile 0).wordEcc 8 = .clean ∧
    r.spadOpen 0 = true ∧ (r.tile 0).deadRouter = false ∧
    r.deliverable 0 = some (pkt (.spadRead 64 4 (.stream 3 0 9 2 0 4))) ∧
    64 + 4 ≤ (r.tile 0).usable ∧ (∀ v ∈ wordsOf 64 4, (r.tile 0).wordEcc v = .clean) ∧
    ((after (.scratchpadWrite 0) w).tile 0).mem = [(64, 7), (66, 8)] ∧ ((after (.scratchpadWrite 0) w).tile 0).valid = [8] ∧
    (after (.scratchpadRead 0) r).mesh.map (·.body) = [.response [7, 0, 0, 0] 0 (.stream 3 0 9 2 0 4)] := by
  decide +kernel

/-- The response to the stream's one read; an acknowledgement. -/
def responding : State :=
  arriving (tile0 { ctxs := [(3, some { strand := 0, uid := 9, sid := 1, desc := load8, pos := 8, out := 1 })], outReads := 1 })
    (.response ((List.range 64).map (BitVec.ofNat 8)) 0 (.stream 0 0 9 3 0 8))
def acked (st : Nat) : State := arriving (onStep [endW] { strand0 with unacked := 2 } {}) (.ack st (.step 0 0 9))

theorem witness_TilePacketsTakeEffect_response :
    (responding.strand 0 0).uid = 9 ∧ (responding.strand 0 0).st = .issuing ∧ responding.memOk = true ∧
    responding.deliverable 0 = some (pkt (.response ((List.range 64).map (BitVec.ofNat 8)) 0 (.stream 0 0 9 3 0 8))) ∧
    (responding.tile 0).ctx 3 = some { strand := 0, uid := 9, sid := 1, desc := load8, pos := 8, out := 1 } ∧
    (responding.tile 0).writeBlocked (responding.landing 0 { strand := 0, uid := 9, sid := 1, desc := load8, pos := 8, out := 1 } 0 8
      ((List.range 64).map (BitVec.ofNat 8))) = false ∧
    (∀ v ∈ wordsOf 128 8, 8 * v < (responding.tile 0).usable ∧ responding.slotRule 0 (8 * v) (some (responding.me 0)) = true ∧
      (responding.tile 0).wordEcc v = .clean) ∧
    (acked 0).deliverable 0 = some (pkt (.ack 0 (.step 0 0 9))) ∧ ((acked 3).tile 0).nothingWaits = true ∧
    ((after (.readResponse 0) responding).tile 0).mem = [(129, 1), (130, 2), (131, 3), (132, 4), (133, 5), (134, 6), (135, 7)] ∧
    ((after (.readResponse 0) responding).tile 0).ctx 3 = none ∧ ((after (.writeAck 0) (acked 0)).strand 0 0).unacked = 1 ∧
    ((after (.writeAck 0) (acked 3)).strand 0 0).status = 3 := by
  decide +kernel

def slotMsgS (m : SlotMsg) (st : BSlot) : State :=
  { arriving (tile0 {}) (.slot m 3 1 (0, 1) 9 (.msg 1 9 none)) with
    rig := { bights := [(3, some bight3)] }
    bights := [(3, { slots := [(1, st)], credit := [(0, 1)] })] }
def creditS : State :=
  { arriving (tile0 {}) (.credit 3 0) with
    rig := { bights := [(3, some bight3)] }
    bights := [(3, { credit := [(0, 1)] })] }

theorem witness_SlotMessagesMoveTheSlot :
    (creditS.tile 0).deadRouter = false ∧ (slotMsgS .claim {}).spadOpen 0 = true ∧ (slotMsgS .claim {}).bightDecl 3 = some bight3 ∧
    (slotMsgS .claim {}).deliverable 0 = some (pkt (.slot .claim 3 1 (0, 1) 9 (.msg 1 9 none))) ∧
    ((slotMsgS .claim {}).slotAt 3 1).st = .empty ∧ bight3.prod[1 % bight3.nprod]? = some (0, 1) ∧
    ((slotMsgS .full { st := .filling, prod := some (0, 1) }).slotAt 3 1).prod = some (0, 1) ∧
    creditS.deliverable 0 = some (pkt (.credit 3 0)) ∧
    (after (.claim 0) (slotMsgS .claim {})).slotAt 3 1 = { st := .filling, prod := some (0, 1), puid := some 9 } ∧
    ((after (.fullUpdate 0) (slotMsgS .full { st := .filling, prod := some (0, 1) })).slotAt 3 1).st = .full ∧
    ((after (.abandon 0) (slotMsgS .abandon { st := .filling, prod := some (0, 1) })).slotAt 3 1).st = .empty ∧
    (after (.creditReturn 0) creditS).credit 3 bight3 0 = 2 := by
  decide +kernel

/-! ## Scheduler -/

def taskOf (st : TaskSt) : Task :=
  { func := 0, queue := 7, tag := 0xAB, kernel := 0, irq := false, lay := 0, stage := 0, tile := 255, layVer := 0, base := 0, size := 65536
    opnds := [], st := st }
/-- Task 9 of queue 7 beside the tile's strand. -/
def withTask (s : State) (y : Task) : State := { s with sched := { s.sched with tasks := [(9, some y)], nextUid := 10 } }
def arrival (c : BitVec 16) (n : Nat) : State :=
  { withTask (tile0 {}) (taskOf (.running 0 0)) with
    sched := { (withTask (tile0 {}) (taskOf (.running 0 0))).sched with hitches := [(6, { target := 3, alloc := true, count := c })] }
    mesh := [{ src := .tile 0, dst := .core false, vc := .ctl, body := .arrive 6 n 9 0 0 false }] }
/-- The rig does not allocate the hitch; the task made this arrival in an earlier execution. -/
def strayArrival : State := { arrival 1 1 with sched := { (arrival 1 1).sched with hitches := [(6, { target := 3, count := 1 })] } }
def oldArrival : State := withTask (arrival 1 1) { taskOf (.running 0 0) with oldArr := [(6, 0)] }
/-- A TMCAST at the head of the builder, whose own round ends with this release. -/
def shareStep : UStep := { strand := 0, uid := 9, ent := { word := tmcastW, tok := 0 }, wait := true, left := 1, out := [(3, [7])], set := (4, 5) }
def shareRelease : State :=
  { arriving (onStep [endW] { strand0 with arrived := [(6, 1)] } { units := [(0, [shareStep])] }) (.release 6 4 0 0 9) with
    rig := { mcast := (buildS tmcastW).rig.mcast } }
def releaseS : State := arriving (onStep [endW] { strand0 with arrived := [(6, 2)] } {}) (.release 6 4 0 0 9)
def verdictS (st : TaskSt) : State :=
  { withTask up { taskOf st with ltile := 0, sent := [(2, 0)], reds := [2] } with
    rig := { reduce := [(2, some red2)] }
    mesh := [{ src := .tile 4, dst := .core false, vc := .ctl, body := .verdict 2 0 .accept (0, 0) }] }
def verdictR (v : VerdictKind) : State :=
  { verdictS .verdicts with mesh := [{ src := .tile 4, dst := .core false, vc := .ctl, body := .verdict 2 0 v (0, 0) }] }

theorem witness_ArrivalsReleasesAndVerdicts :
    (arrival 1 1).deliverable 0 = some { src := .tile 0, dst := .core false, vc := .ctl, body := .arrive 6 1 9 0 0 false } ∧
    (arrival 1 1).task 9 = some (taskOf (.running 0 0)) ∧ ((arrival 1 1).hitch 6).alloc = true ∧
    (taskOf (.running 0 0)).oldArr.contains (6, ((arrival 1 1).hitch 6).gen) = false ∧ ((arrival 1 1).hitch 6).target < 65536 ∧
    ((arrival 1 1).hitch 6).count.toNat + 1 < 3 ∧ ((arrival 1 2).hitch 6).count.toNat + 2 = 3 ∧ 3 < ((arrival 2 2).hitch 6).count.toNat + 2 ∧
    (strayArrival.hitch 6).alloc = false ∧ (strayArrival.strand 0 0).uid = 9 ∧ (strayArrival.strand 0 0).st = .issuing ∧
    strayArrival.deliverable 0 = (arrival 1 1).deliverable 0 ∧ oldArrival.deliverable 0 = (arrival 1 1).deliverable 0 ∧ (oldArrival.hitch 6).alloc = true ∧
    oldArrival.task 9 = some { taskOf (.running 0 0) with oldArr := [(6, 0)] } ∧ (oldArrival.hitch 6).gen = 0 ∧
    ((after (.hitchArrival 0) (arrival 1 1)).hitch 6).count = 2 ∧ ((after (.hitchArrival 0) (arrival 1 2)).hitch 6).gen = 1 ∧
    ((after (.hitchArrival 0) (arrival 2 2)).strand 0 0).status = 0x0B ∧ ((after (.hitchArrival 0) strayArrival).strand 0 0).status = 6 ∧
    ((after (.hitchArrival 0) oldArrival).task 9).map (fun y => (y.oldArr, y.arrivals)) = some ([], [(6, 0)]) := by
  decide +kernel

theorem witness_ArrivalsReleasesAndVerdicts_release :
    releaseS.deliverable 0 = some (pkt (.release 6 4 0 0 9)) ∧ (releaseS.strand 0 0).uid = 9 ∧
    (releaseS.strand 0 0).st ≠ .free ∧ (releaseS.tile 0).unit 0 = [] ∧
    shareRelease.deliverable 0 = some (pkt (.release 6 4 0 0 9)) ∧ (shareRelease.tile 0).unit 0 = [shareStep] ∧ shareStep.arrive = none ∧
    fld tmcastW 120 8 = 6 ∧ shareStep.left ≤ 1 ∧ shareStep.out ≠ [] ∧
    ((((shareRelease.shareSet (shareRelease.logOf 0)).map (·.2)).getD []).filter (· != shareRelease.logOf 0)).map shareRelease.tileEnd = [.tile 1] ∧
    (shareRelease.strand 0 0).ackRoom 1 = true ∧
    (after (.hitchRelease 0) shareRelease).mesh.map (fun q => (q.dst, q.body)) = [(.tile 1, .tableSlot 4 5 3 [7] (.step 0 0 9))] ∧
    Tab.get 0 ((after (.hitchRelease 0) releaseS).strand 0 0).arrived 6 = 1 := by
  decide +kernel

theorem witness_ArrivalsReleasesAndVerdicts_verdict :
    (verdictS .verdicts).deliverable 0 = some { src := .tile 4, dst := .core false, vc := .ctl, body := .verdict 2 0 .accept (0, 0) } ∧
    Tab.get none (verdictS .verdicts).rig.reduce 2 = some red2 ∧ (0, 0) ∈ red2.parts ∧ (0 : Nat) = (verdictS .verdicts).node ∧
    (verdictS .verdicts).taskList.map (·.1) = [9] ∧ ((verdictS .verdicts).task 9).map (·.sent) = some [(2, 0)] ∧
    ((verdictS .verdicts).task 9).map (·.verds) = some [] ∧ ((verdictS .verdicts).task 9).map (·.aborted) = some [] ∧
    ((after (.verdict (.packet 0)) (verdictR .replay)).task 9).map (·.only) = some (some [0]) ∧
    ((after (.verdict (.packet 0)) (verdictS (.running 0 0))).task 9).map (·.verds) = some [(2, 0, 0)] ∧
    ((after (.verdict (.packet 0)) (verdictS .verdicts)).task 9).map (·.st) = some .retired := by
  decide +kernel

theorem witness_ArrivalsReleasesAndVerdicts_settled : releaseS.pumpBld 0 = releaseS := rfl

/-- Queue 7 of the PF, its rings in DRAM, with `x` done to it. -/
def onQ (x : Queue) : State :=
  { up with
    svc := { up.svc with pd := [(69, 2), (70, 2)] }
    funcs := [(0, { mse := true, qsel := 7 })]
    sched := { queues := [(7, x)], groups := [(0, { cfg := 0x740 })] } }
def actQ : Queue := { st := .active, cfg := 1, head := 5, tail := 6, cqTail := 9, cqHead := 8, sqBase := 0x10000, cqBase := 0x20000 }

theorem witness_QueuesTakeDoorbellsAndRegisters :
    (onQ actQ).barOpen 0 = true ∧ (onQ actQ).qFunc 7 = 0 ∧ ((onQ actQ).queue 7).st = .active ∧ (onQ actQ).glb.st ≠ .halted ∧
    ((21 : BitVec 32) - actQ.head).toNat ≤ ringSize actQ.sqLog ∧ ringSize actQ.sqLog < ((22 : BitVec 32) - actQ.head).toNat ∧
    (actQ.cqTail - 9).toNat ≤ (actQ.cqTail - actQ.cqHead).toNat ∧ (actQ.cqTail - actQ.cqHead).toNat < (actQ.cqTail - 7).toNat ∧
    (onQ {}).blockUp 0x800000 = true ∧ (onQ {}).selQ 0 = 7 ∧ (onQ {}).qFunc ((onQ {}).selQ 0) = 0 ∧ ((onQ {}).queue 7).st = .disabled ∧
    (onQ actQ).queueTasks 7 = [] ∧ actQ.recs = [] ∧ actQ.markers = [] ∧ (1 : Word).getLsbD 0 = true ∧ (0 : Word).getLsbD 0 = false ∧
    ((after (.submissionDoorbell 0 448 8 21) (onQ actQ)).queue 7).tail = 21 ∧ ((after (.submissionDoorbell 0 448 8 22) (onQ actQ)).queue 7).err = 1 ∧
    ((after (.completionDoorbell 0 456 8 9) (onQ actQ)).queue 7).cqHead = 9 ∧ ((after (.completionDoorbell 0 456 8 7) (onQ actQ)).queue 7).err = 2 ∧
    ((after (.queueEnable 0 1) (onQ {})).queue 7).st = .active ∧ ((after (.queueEnable 0 0) (onQ actQ)).queue 7).st = .disabled ∧
    ((after (.queueFlush 0 3) (withTask (onQ actQ) (taskOf .waiting))).queue 7).head = 6 := by
  decide +kernel

/-- The queue's ENABLE has been cleared while a task of it runs. -/
def closingQ : State := withTask (onQ { actQ with cfg := 0 }) (taskOf (.running 0 0))

theorem witness_QueuesTakeDoorbellsAndRegisters_more :
    ((onQ actQ).queue 6).st = .disabled ∧ (onQ {}).qFunc 7 = 0 ∧ (closingQ.queue 7).st ≠ .disabled ∧ (closingQ.queue 7).enable = false ∧
    (after (.submissionDoorbell 0 384 8 3) (onQ actQ)).elog.queue.map (·.event) = [0x0011] ∧
    ((after (.queueEnable 0 1) closingQ).queue 7).cqTail = 0 ∧ ((after (.queueEnable 0 1) closingQ).queue 7).st = .active ∧
    { withTask (tile0 {}) (taskOf (.running 0 0)) with sched := { (withTask (onQ actQ) (taskOf (.running 0 0))).sched with nextUid := 10 }, funcs := (onQ actQ).funcs }.selQ 0 = 7 ∧
    ((after (.queueFlush 0 3) { withTask (tile0 {}) (taskOf (.running 0 0)) with
      sched := (withTask (onQ actQ) (taskOf (.running 0 0))).sched, funcs := (onQ actQ).funcs }).strand 0 0).status = 0x0A := by
  decide +kernel

/-- A MARKER entry; a GRAPH entry whose packet of one task lies in host memory at 0xC000000000. -/
def markerB : List Byte := [2] ++ leBytes 3 0 ++ leBytes 4 0xAB ++ leBytes 56 0
def graphB : List Byte := [1] ++ leBytes 3 0 ++ leBytes 4 0xAB ++ leBytes 8 0x30000 ++ leBytes 4 128 ++ leBytes 44 0
def packetB : List Byte := leBytes 2 0x4750 ++ leBytes 2 1 ++ leBytes 4 0 ++ leBytes 56 128 ++ leBytes 4 0xCD ++ leBytes 2 0 ++ [255, 0] ++
  leBytes 4 0 ++ leBytes 4 0 ++ leBytes 4 65536 ++ leBytes 44 0
/-- Host-range rings. -/
def hostQ : State := { onQ { actQ with sqBase := 0xC000000000 } with
  exp := { hostWin := [(0, { lo := 0x401 })] }
  funcs := [(0, { mse := true, bme := true, qsel := 7 })] }
def fetched : State := onQ { actQ with entry := some { etag := 0xAB, irq := false, plen := 128, bytes := packetB } }

theorem witness_EntriesAreReadAndAccepted :
    hostQ.hasEntry 7 = true ∧ (∀ r ∈ hostQ.sched.queues, r.1 ≠ 7 → hostQ.hasEntry r.1 = false) ∧ (hostQ.queue 7).entry.isNone = true ∧ hostQ.glb.st ≠ .off ∧ hostQ.glb.st ≠ .halted ∧
    hostQ.qFunc 7 = 0 ∧ (hostQ.devRead false 0 0xC000000140 64 markerB true .clean).2 = (0, markerB) ∧
    (hostQ.devRead false 0 0xC000000140 64 graphB true .clean).2 = (0, graphB) ∧ fieldAt markerB 1 1 < 2 ∧ fieldAt graphB 1 1 < 2 ∧
    fieldAt markerB 2 2 = 0 ∧ allZero (slice markerB 20 44) = true ∧ fieldAt markerB 0 1 = 2 ∧ fieldAt markerB 8 8 = 0 ∧ fieldAt markerB 16 4 = 0 ∧
    hostQ.queueTasks 7 = [] ∧ (hostQ.queue 7).markers = [] ∧ fieldAt graphB 0 1 = 1 ∧ fieldAt graphB 8 8 < 0xC000000000 ∧ fieldAt graphB 8 8 % 64 = 0 ∧
    (after (.entryRead 7 markerB [] true .clean) hostQ).sched.queues.map (fun e => (e.2.head, e.2.recs.length)) = [(6, 1)] ∧
    (fetched.queue 7).entry.map (·.fault) = some none ∧ (fetched.queue 7).entry.map (·.fetch) = some none ∧ (fetched.queue 7).st = .active ∧ packetHeader packetB 128 = some (1, 0, 0) ∧
    packetEnds 1 0 0 = (128, 128, 128) ∧ fetched.roomFor 7 1 = true ∧ (fetched.task 0).isNone = true ∧
    ((after (.packetAcceptance 7) fetched).task 0).map (fun y => (y.tag, y.size, y.queue)) = some (0xCD, 65536, 7) ∧
    ((after (.packetAcceptance 7) fetched).queue 7).head = 6 := by
  decide +kernel

/-- A task of lay 0, whose one stage is tile 0. -/
def readyS : State :=
  { withTask (tile0 {}) (taskOf .waiting) with
    rig := { lays := [(0, some { nstage := 1, ver := 4 })], place := [(0, some (0, 0))], masks := [(0, 0xFF)] } }
def dispS : State := { readyS with tiles := [(0, { pstore := prog [endW], masks := [(0, 0xFE)] })], glb := { up.glb with st := .ready } }
def endingS : State := withTask (onStep [endW] { strand0 with st := .ending, status := 3, replays := 2 } {}) (taskOf (.running 0 0))
def postS : State :=
  { onQ { actQ with cqBase := 0xC000000000, recs := [{ tag := 0xAB, status := 0, flags := 0x40, uid := some 9 }] } with
    exp := { hostWin := [(0, { lo := 0x401 })] }
    funcs := [(0, { mse := true, bme := true })] }
def modS : State :=
  { onQ { actQ with cfg := 0x05000001, vector := 2, unsig := 3 } with
    glb := { up.glb with time := 500 }
    funcs := [(0, { mse := true, bme := true, msix := [(2, { addr := 0x1000, data := 5, masked := false })] })] }

theorem witness_TasksAreDispatchedAndRetired :
    dispS.held (taskOf .waiting) = false ∧ dispS.crosses (coreSide 0) (.tile 0) = true ∧ (dispS.tile 0).launch = none ∧
    endingS.crosses (.tile 0) (coreSide 0) = true ∧ (endingS.tile 0).launch = none ∧ (taskOf (.running 0 0)).reds = [] ∧
    (taskOf (.running 0 0)).lostTo = false ∧ dispS.task 9 = some (taskOf .waiting) ∧ dispS.ready (taskOf .waiting) = true ∧ dispS.rigCheck (taskOf .waiting) = none ∧
    dispS.placeOf (taskOf .waiting) = some (0, some 1) ∧ dispS.taskList.map (·.1) = [9] ∧ dispS.windowOk 0 (taskOf .waiting) = true ∧
    (kernelDir (dispS.tile 0).psRead 0).valid = true ∧ dispS.glb.st = .ready ∧ dispS.glb.degRig = false ∧ dispS.glb.degChan = false ∧
    (endingS.strand 0 0).st = .ending ∧ (endingS.strand 0 0).outRd = 0 ∧ (endingS.strand 0 0).unacked = 0 ∧ endingS.tileRuns 0 = true ∧
    endingS.task (endingS.strand 0 0).uid = some (taskOf (.running 0 0)) ∧
    ((after (.dispatch 9) dispS).strand 0 1).next = 40 ∧ (after (.dispatch 9) dispS).glb.st = .running ∧
    ((after (.completionReport 0 0) endingS).queue 7).recs.map (fun r => (r.tag, r.status, r.replay)) = [(0xAB, 3, 2)] ∧
    (after (.completionReport 0 0) endingS).strand 0 0 = {} := by
  decide +kernel

/-- Every strand of the tile that the task names holds a task, and its launch slot is free. -/
def forTile0 : Task := { taskOf .waiting with tile := 0 }
def fullTile : State :=
  withTask { dispS with tiles := [(0, { pstore := prog [endW], strands := (List.range 8).map fun k => (k, { strand0 with uid := 20 + k }) })] } forTile0

theorem witness_TasksAreDispatchedAndRetired_launch :
    fullTile.task 9 = some forTile0 ∧ fullTile.ready forTile0 = true ∧ fullTile.held forTile0 = false ∧
    fullTile.rigCheck forTile0 = none ∧ fullTile.windowOk 0 forTile0 = true ∧ fullTile.crosses (coreSide 0) (.tile 0) = true ∧
    (fullTile.tile 0).launch = none ∧ fullTile.placeOf forTile0 = some (0, none) ∧ fullTile.taskList.map (·.1) = [9] ∧
    ((after (.dispatch 9) fullTile).tile 0).launch = some 9 := by
  decide +kernel

theorem witness_RecordsArePostedAndSignalled :
    (postS.queue 7).recs = [{ tag := 0xAB, status := 0, flags := 0x40, uid := some 9 }] ∧ postS.dispatching = true ∧ (postS.queue 7).cqHeld = false ∧
    ((postS.queue 7).cqTail - (postS.queue 7).cqHead).toNat < ringSize (postS.queue 7).cqLog ∧ (postS.queue 7).entry = none ∧
    (postS.writeRecord 7 (CRec.bytes { tag := 0xAB, status := 0, flags := 0x40, uid := some 9 } 9 16)).map (·.2) = some false ∧
    NSet.wf (postS.sched.tasks.map (·.1)) = true ∧ (modS.queue 7).modUs ≠ 0 ∧ (modS.queue 7).unsig ≠ 0 ∧ (modS.queue 7).vector.toNat < 32 ∧
    (modS.queue 7).unsigAt + 100 * (modS.queue 7).modUs ≤ modS.glb.time ∧ modS.outputHold = false ∧ (after (.modUsExpiry 7) modS).out = [.msix 0 0x1000 5] ∧
    ((after (.completionRecordPost 7) postS).queue 7).cqTail = 10 := by
  decide +kernel

/-- The completion ring lies in no host window; Bus Master Enable is 0; the message is masked. -/
def noWindow : State := { postS with exp := {} }
def noMaster : State := { postS with funcs := [(0, { mse := true })] }
def maskedS : State := { modS with funcs := [(0, { mse := true, bme := true })] }

theorem witness_RecordsArePostedAndSignalled_held :
    (noWindow.writeRecord 7 (CRec.bytes { tag := 0xAB, status := 0, flags := 0x40, uid := some 9 } 9 16)).map (·.2) = some true ∧
    (noMaster.writeRecord 7 (CRec.bytes { tag := 0xAB, status := 0, flags := 0x40, uid := some 9 } 9 16)).isNone = true ∧
    noWindow.dispatching = true ∧ noMaster.dispatching = true ∧ (Tab.get {} (maskedS.func 0).msix 2).masked = true ∧
    ((after (.completionRecordPost 7) noWindow).queue 7).err = 5 ∧ ((after (.completionRecordPost 7) noMaster).queue 7).recs.length = 1 ∧
    ((after (.modUsExpiry 7) maskedS).func 0).pba = 4 := by
  decide +kernel

/-- Every channel trained and ON. -/
def withDram (s : State) : State :=
  { s with
    exp := { s.exp with mapped := 0x3FF0 }
    svc := { s.svc with pd := [(68, 2), (69, 2), (70, 2), (71, 2), (72, 2), (73, 2), (74, 2), (75, 2)] }
    chans := (List.range 8).map fun c => (c, { train := .trained }) }
/-- The packet of `graphB` stands in DRAM. -/
def graphS : State :=
  { withDram hostQ with
    chans := [((withDram hostQ).exp.locate 0x30000).1].map fun c => (c, {
      train := .trained, written := [((withDram hostQ).exp.locate 0x30000).2 / 65536]
      tags := [(((withDram hostQ).exp.locate 0x30000).2 / 512, 15)], dram := Mem.write 0 [] ((withDram hostQ).exp.locate 0x30000).2 packetB }) }

theorem witness_EntriesAreReadAndAccepted_graph :
    graphS.hasEntry 7 = true ∧ (graphS.devRead false 0 0xC000000140 64 graphB true .clean).2 = (0, graphB) ∧
    (graphS.devRead false 0 0x30000 64 packetB true .clean).2 = (0, packetB.take 64) ∧ packetHeader (packetB.take 64) 128 = some (1, 0, 0) ∧
    (graphS.devRead false 0 0x30000 128 packetB true .clean).2 = (0, packetB) ∧
    ((after (.entryRead 7 graphB [] true .clean) graphS).queue 7).entry.map (·.bytes) = some packetB := by
  decide +kernel

/-- The queue's group is not enabled. -/
def noRoom : State := { fetched with sched := { fetched.sched with groups := [(0, { cfg := 0 })] } }
/-- The packet of the entry is still to fetch; Bus Master Enable lets no fetch from the host range go. -/
def fetching : State := { graphS with sched := { graphS.sched with queues := [(7, { actQ with entry := some { etag := 0xAB, irq := false, plen := 128, bytes := [], fetch := some 0x30000 } })] } }
def waiting : State := { hostQ with exp := {}, funcs := [(0, { mse := true })], sched := { hostQ.sched with queues := [(7, { actQ with sqBase := 0x30000 })] } }

theorem witness_EntriesAreReadAndAccepted_fetch :
    fetching.hasEntry 7 = true ∧ (fetching.queue 7).entry.map (·.fetch) = some (some 0x30000) ∧
    ((after (.entryRead 7 [] [] true .clean) fetching).queue 7).entry.map (·.bytes) = some packetB ∧
    waiting.fetchWaits 7 0xC000000000 = true ∧
    fetched.roomFor 7 1 = true ∧ (noRoom.queue 7).entry.isSome = true ∧ noRoom.roomFor 7 1 = false := by
  decide +kernel
/-! ## External memory -/

def loc (a : Nat) : Nat × Nat := (withDram up).exp.locate a
/-- A packet for channel `c`, whose state is `x`. -/
def atChan (c : Nat) (x : Chan) (b : Body) : State :=
  { withDram up with
    chans := [(c, { x with train := .trained })]
    mesh := [{ src := .tile 3, dst := .chan c, vc := .req, body := b }] }
/-- The block at 0x30000, stored raw with byte 3 set; stored as a coded block that cannot be decoded. -/
def rawBlock : Chan :=
  { written := [(loc 0x30000).2 / 65536], tags := [((loc 0x30000).2 / 512, 15)], dram := [((loc 0x30000).2 + 3, 0x5A)], spliceEn := false }
def badBlock : Chan := { rawBlock with tags := [((loc 0x30000).2 / 512, 4)] }
def rd4 : Body := .read 0x30002 4 0 false (.stream 3 0 9 2 0 4)
def chan3 : Nat := (loc 0x30000).1

theorem witness_ReadsAreAnsweredFromTheirBlock :
    (atChan chan3 rawBlock rd4).deliverable 0 = some { src := .tile 3, dst := .chan chan3, vc := .req, body := rd4 } ∧
    (atChan chan3 rawBlock rd4).chanHolds chan3 = false ∧ (atChan chan3 rawBlock rd4).chanStatus chan3 = 0 ∧
    (atChan chan3 rawBlock rd4).minWaits chan3 (.stream 3 0 9 2 0 4) = false ∧ (atChan chan3 badBlock rd4).badStored 0x30000 4 = false ∧ 0x30002 < 0x8000000000 ∧
    (atChan chan3 rawBlock rd4).dramPermit false 1 0x30002 false ≠ 0 ∧ (atChan chan3 rawBlock rd4).dramPermit false 0 0x30002 false = 0 ∧
    ((atChan chan3 rawBlock rd4).exp.locate 0x30000).1 = chan3 ∧ rawBlock.shareOn = false ∧ rawBlock.bufOf 0x30000 = none ∧
    rawBlock.lostWpm.has ((loc 0x30000).2 / 65536) = false ∧ rawBlock.written.has ((loc 0x30000).2 / 65536) = true ∧
    rawBlock.tag ((loc 0x30000).2 / 512) = 15 ∧ badBlock.tag ((loc 0x30000).2 / 512) = 4 ∧
    (match blockDecode ((atChan chan3 badBlock rd4).classAt 0x30000) [] 4 [] with | .error k => k | _ => 0) = 1 ∧
    (after (.memoryRead 0 .clean) (atChan chan3 rawBlock rd4)).mesh.map (·.body) = [.response [0, 0x5A, 0, 0] 0 (.stream 3 0 9 2 0 4)] ∧
    (after (.memoryRead 0 .clean) (atChan chan3 { rawBlock with bufs := [(0, { addr := 0x30000, bytes := [(4, 7)], acks := [] })] } rd4)).mesh.map (·.body) =
      [.response [0, 0x5A, 7, 0] 0 (.stream 3 0 9 2 0 4)] ∧
    (after (.memoryRead 0 .clean) (atChan chan3 badBlock rd4)).mesh.map (·.body) = [.response [] 5 (.stream 3 0 9 2 0 4)] ∧
    (after (.memoryRead 0 .clean) (atChan chan3 rawBlock (.read 0x30002 4 1 false (.stream 3 0 9 2 0 4)))).mesh.map (·.body) =
      [.response [] 0x0C (.stream 3 0 9 2 0 4)] := by
  decide +kernel

def wrBody (data : List (Nat × Byte)) : Body := .write 0x30000 data 0 (some (0, 3)) false (.step 3 0 9)
def wholeB : List (Nat × Byte) := (List.range 512).map fun i => (0x30000 + i, 5)

theorem witness_WritesStoreTheirBlock_whole : ∀ o, o < 512 → ∃ e ∈ wholeB.map (fun e => (e.1 % 512, e.2)), e.1 = o := by
  intro o h
  refine ⟨(o, 5), ?_, rfl⟩
  simp only [wholeB, List.map_map, List.mem_map, List.mem_range, Function.comp_apply, Prod.mk.injEq, and_true]
  exact ⟨o, h, by omega⟩

def bpRegion : Region := { base := 0, size := 0x10, ctl := 1 + 2 }
def coded (s : State) : State := { s with exp := { s.exp with regions := [(0, bpRegion)] } }

theorem witness_WritesStoreTheirBlock :
    (atChan chan3 rawBlock (wrBody wholeB)).memOk = true ∧
    (atChan chan3 rawBlock (wrBody wholeB)).deliverable 0 = some { src := .tile 3, dst := .chan chan3, vc := .req, body := wrBody wholeB } ∧
    (atChan chan3 rawBlock (wrBody wholeB)).chanHolds chan3 = false ∧ (atChan chan3 rawBlock (wrBody wholeB)).chanStatus chan3 = 0 ∧
    (atChan chan3 rawBlock (wrBody wholeB)).dramPermit false 0 0x30000 true = 0 ∧ rawBlock.bufOf 0x30000 = none ∧
    (atChan chan3 rawBlock (wrBody wholeB)).minWaits chan3 (.step 3 0 9) = false ∧ (atChan chan3 rawBlock (wrBody wholeB)).badStored 0x30000 15 = false ∧
    (∀ i, i < 64 → (atChan chan3 rawBlock (wrBody wholeB)).checkPlace 0x30000 ((loc 0x30000).2 + 8 * i) = none) ∧
    rawBlock.lostTags.has ((loc 0x30000).2 / 512) = false ∧ ¬ (∃ e ∈ [((3 : Nat), (9 : Byte))], e.1 = 0) ∧ (atChan chan3 rawBlock (wrBody [])).classAt 0x30000 = 0 ∧
    (coded (atChan chan3 rawBlock (wrBody []))).classAt 0x30000 = 1 ∧ (coded (atChan chan3 rawBlock (wrBody []))).dramPermit false 0 0x30000 true = 0 ∧
    (({} : Chan).written.has ((loc 0x30000).2 / 65536)) = false ∧ rawBlock.bufs.length < 16 := by
  decide +kernel

def closing : State :=
  { atChan chan3 { rawBlock with bufs := [(2, { addr := 0x30000, bytes := [(4, 7)], acks := [.step 3 0 9] })] } (wrBody []) with mesh := [] }

theorem test_partial_write_waits :
    ((after (.memoryWrite 0 .clean) (coded (atChan chan3 rawBlock (wrBody [(0x30004, 9)])))).chan chan3).bufs =
      [(0, { addr := 0x30000, bytes := [(4, 9)], acks := [.step 3 0 9] })] := by
  decide +kernel

theorem witness_WritesStoreTheirBlock_close :
    closing.memOk = true ∧ Tab.get none ((closing.chan chan3).bufs.map fun e => (e.1, some e.2)) 2 =
      some { addr := 0x30000, bytes := [(4, 7)], acks := [.step 3 0 9] } ∧
    (closing.exp.locate 0x30000).1 = chan3 ∧ (closing.chan chan3).written.has ((closing.exp.locate 0x30000).2 / 65536) = true ∧
    (closing.chan chan3).tag ((closing.exp.locate 0x30000).2 / 512) = 15 ∧ (closing.chan chan3).lostTags = [] ∧ (closing.chan chan3).lostWpm = [] ∧
    closing.chanStatus chan3 = 0 ∧ (∀ i, i < 64 → closing.checkPlace 0x30000 ((loc 0x30000).2 + 8 * i) = none) := by
  decide +kernel

def wrd : Body := .read 0x30002 4 0 true (.stream 3 0 9 2 0 4)
def lineB : SpliceLine := { addr := 0x30000, func := 0, data := [0, 0, 6, 7, 8, 9] }
def withLine : Chan := { rawBlock with spliceEn := true, sets := [((withDram up).spliceSet 0x30000, [lineB])] }
def filling : SpliceFillSt :=
  { addr := 0x30000, func := 0, install := true, snap := { data := [0, 0, 6, 7, 8, 9] }, waiters := [(0x30002, 4, .stream 3 0 9 2 0 4)] }
def withFill : Chan := { rawBlock with spliceEn := true, fills := [(5, filling)], nextFill := 6 }

/-- A weight read of a host-range block, and its fill with the bytes and the tag returned. -/
def hostRd : Body := .read 0xC000000040 4 0 true (.stream 3 0 9 2 0 4)
def hostFill (c : Nat) (b : Body) : State :=
  { atChan c { rawBlock with spliceEn := true, fills := [(5, { addr := 0xC000000000, func := 0, install := true, waiters := [(0xC000000040, 4, .stream 3 0 9 2 0 4)]
                                                               host := some (List.replicate 512 3, true), hostTag := some (some 15) })] } b with
    exp := { (withDram up).exp with hostWin := [(0, { lo := 0x5001 })] } }
def hostChan0 : Nat := ((hostFill 0 hostRd).hostChan 0xC000000040).1
def hostMiss : State :=
  { atChan hostChan0 { rawBlock with spliceEn := true } hostRd with exp := { (withDram up).exp with hostWin := [(0, { lo := 0x5001 })] } }

theorem witness_SpliceCacheServesFillsAndFlushes_host :
    hostMiss.deliverable 0 = some { src := .tile 3, dst := .chan hostChan0, vc := .req, body := hostRd } ∧ hostMiss.chanHolds hostChan0 = false ∧
    hostMiss.chanStatus hostChan0 = 0 ∧ hostMiss.minWaits hostChan0 (.stream 3 0 9 2 0 4) = false ∧ (hostMiss.chan hostChan0).shareOn = true ∧
    hostMiss.hostPermit 0 0xC000000040 false = 0 ∧ hostMiss.hostChan 0xC000000040 = (hostChan0, true) ∧
    hostMiss.spliceLine hostChan0 0xC000000000 0 = none ∧ (hostMiss.chan hostChan0).fills = [] ∧ (hostMiss.hostCoded 0 0xC000000000).isNone = true ∧
    hostMiss.freeTag = some 0 ∧ hostMiss.hostAddr 0 0xC000000000 = some 0x5000 ∧
    (after (.memoryRead 0 .clean) hostMiss).out = [.hostRead 0 0x5000 512 0 false] ∧
    (Tab.get none (((hostFill hostChan0 hostRd).chan hostChan0).fills.map fun e => (e.1, some e.2)) 5).map (·.host) = some (some (List.replicate 512 3, true)) ∧
    ((hostFill hostChan0 hostRd).hostBlock 0 0xC000000000 (List.replicate 512 3) true (some 15)).st = 0 ∧
    ((after (.spliceFill hostChan0 5 .clean .clean .clean .clean) (hostFill hostChan0 hostRd)).mesh.map (·.body)).getLast? = some (.response [3, 3, 3, 3] 0 (.stream 3 0 9 2 0 4)) := by
  decide +kernel

theorem witness_SpliceCacheServesFillsAndFlushes :
    (atChan chan3 withLine wrd).minWaits chan3 (.stream 3 0 9 2 0 4) = false ∧ (atChan chan3 withFill wrd).badStored 0x30000 filling.snap.tag = false ∧
    (atChan chan3 withLine wrd).deliverable 0 = some { src := .tile 3, dst := .chan chan3, vc := .req, body := wrd } ∧
    (atChan chan3 withLine wrd).chanHolds chan3 = false ∧ (atChan chan3 withLine wrd).chanStatus chan3 = 0 ∧
    (atChan chan3 withLine wrd).dramPermit false 0 0x30002 false = 0 ∧ withLine.shareOn = true ∧
    (atChan chan3 withLine wrd).spliceLine chan3 0x30000 0 = some lineB ∧ (atChan chan3 withFill wrd).spliceLine chan3 0x30000 0 = none ∧
    withFill.fills.find? (fun e => e.2.addr == 0x30000 && e.2.func == 0 && e.2.install) = some (5, filling) ∧
    ({ rawBlock with spliceEn := true } : Chan).fills = [] ∧ filling.snap.st = 0 ∧
    Tab.get none (withFill.fills.map fun e => (e.1, some e.2)) 5 = some filling ∧
    (withDram up).pfWrites 0 (0x600800 + chan3 * 0x10000) = true ∧ chan3 < 8 ∧ (3 : Word).getLsbD 1 = true ∧
    ((after (.memoryRead 0 .clean) (atChan chan3 withLine wrd)).chan chan3).hit = 1 ∧
    (after (.memoryRead 0 .clean) (atChan chan3 withLine wrd)).mesh.map (·.body) = [.response [6, 7, 8, 9] 0 (.stream 3 0 9 2 0 4)] ∧
    ((after (.memoryRead 0 .clean) (atChan chan3 withFill wrd)).chan chan3).merge = 1 ∧
    ((after (.memoryRead 0 .clean) (atChan chan3 { rawBlock with spliceEn := true } wrd)).chan chan3).miss = 1 ∧
    (after (.spliceFill chan3 5 .clean .clean .clean .clean) (atChan chan3 withFill wrd)).spliceLine chan3 0x30000 0 =
      some { addr := 0x30000, func := 0, data := [0, 0, 6, 7, 8, 9] } ∧
    ((after (.spliceFlush 0 chan3 3) (atChan chan3 withLine wrd)).chan chan3).sets = [] ∧
    ((after (.spliceFlush 0 chan3 3) (atChan chan3 withLine wrd)).chan chan3).flushing = true ∧
    ((after (.spliceFlushDone chan3) (after (.spliceFlush 0 chan3 3) (atChan chan3 withLine wrd))).chan chan3).flushing = false := by
  decide +kernel

/-- A table of four symbols of two bits each. -/
def table4 : List Byte := leBytes 128 0x2222
/-- The table in host memory; region 0 that names table 9. -/
def tableS (en : Bool) : State :=
  { withDram up with
    funcs := [(0, { bme := true, mse := true })]
    exp := { (withDram up).exp with
      tblSrc := 0xC000000000, hostWin := [(0, { lo := 0x401 })], clrSize := 0x3FF, keyData := 77
      regions := if en then [(0, { base := 0, size := 0x10, ctl := 1 + 4 + 9 * 65536 })] else [(0, { base := 0, size := 0x10 })] } }

theorem witness_ExpanderCommandsTakeEffect :
    (tableS false).pfWrites 0 0x740018 = true ∧ (1 : Word).getLsbD 0 = true ∧ (tableS false).exp.clrBusy = false ∧ (tableS false).memOk = true ∧
    (tableS false).pfWrites 0 0x740028 = true ∧ (0x109 : Word).getLsbD 8 = true ∧
    ((tableS false).devRead false 0 0xC000000000 128 table4 true .clean).2 = (0, table4) ∧ tableValid table4 = true ∧
    tableValid (List.replicate 128 0) = false ∧ bitsOf (0x109 : Word).toNat 0 8 = 9 ∧ (∃ e ∈ (tableS true).regions, e.en = true ∧ e.table = 9) ∧
    (∀ e ∈ (tableS false).regions, e.en = true → e.table ≠ 9) ∧ (tableS false).pfWrites 0 0x740040 = true ∧ (0xC3 : Word).getLsbD 7 = true ∧
    (tableS false).pfWrites 0 0x741008 = true ∧ (tableS false).regionLegal { base := 0, size := 0x10, ctl := 5 } = true ∧
    ((after (.wpmClear 0 ⟨1, .clean⟩) (tableS false)).exp.clrBusy = true) ∧ (after .wpmClearDone (after (.wpmClear 0 ⟨1, .clean⟩) (tableS false))).exp.clrBusy = false ∧
    (after (.codeTableLoad 0 0x109 table4 ⟨true, .clean⟩) (tableS false)).exp.tbl 9 = table4 ∧
    (after (.codeTableLoad 0 0x109 table4 ⟨true, .clean⟩) (tableS true)).exp.tblReason = 1 ∧
    ((tableS false).devRead false 0 0xC000000000 128 table4 false .clean).2.1 = 1 ∧ heldStatus ≠ 1 ∧
    (after (.codeTableLoad 0 0x109 table4 ⟨false, .clean⟩) (tableS false)).exp.tblReason = 2 ∧
    (after (.codeTableLoad 0 0x109 (List.replicate 128 0) ⟨true, .clean⟩) (tableS false)).exp.tblErr = true ∧
    Tab.get 0 (after (.keyLoad 0 0xC3) (tableS false)).exp.keys 3 = 77 ∧ (after (.keyLoad 0 0xC3) (tableS false)).exp.keyEn = 8 ∧
    ((after (.regionEnable 0 0x741008 5) (tableS false)).region 0).en = true ∧ ((after (.regionEnable 0 0x741008 7) (tableS false)).region 0).en = false ∧
    ((after (.regionEnable 0 0x741008 0) (tableS true)).region 0).table = 9 := by
  decide +kernel

def barS : State := { withDram (tile0 { mem := [(64, 7)], valid := [8] }) with
  svc := { up.svc with pd := [(0, 2), (68, 2), (69, 2), (70, 2), (71, 2), (72, 2), (73, 2), (74, 2), (75, 2)] }
  chans := [(chan3, { rawBlock with train := .trained })] }
def hostReqS (b : Body) : State :=
  { withDram up with
    funcs := [(0, { bme := true, mse := true })]
    exp := { (withDram up).exp with hostWin := [(0, { lo := 0x5001 })] }
    mesh := [{ src := .tile 3, dst := .host false, vc := .req, body := b }] }
def hreadS : State := { up with hreads := [(4, { fn := 0, addr := 0xC000000040, len := 2, who := .stream 3 0 9 2 0 4, dst := .host false })] }

theorem witness_HostAccessesReachMemory :
    barS.barOpen 0 = true ∧ barS.rangePermit false 0 0x30002 4 false = 0 ∧ barS.chanStatus (barS.exp.locate 0x30002).1 = 0 ∧
    (barS.chan (barS.exp.locate 0x30000).1).bufOf 0x30000 = none ∧ (barS.chan (barS.exp.locate 0x30000).1).tag ((barS.exp.locate 0x30000).2 / 512) = 15 ∧
    (barS.mapEnt 0).fenced = false ∧ barS.spadOpen (barS.physOf 0) = true ∧ 64 + 2 ≤ (barS.tile 0).usable ∧ (barS.tile 0).wordEcc 8 = .clean ∧
    barS.chanHolds (barS.exp.locate 0x30000).1 = false ∧ barS.hostWaits 0x30002 (.chan (barS.exp.locate 0x30000).1) .req = false ∧
    barS.hostWaits (spadAddr 0 64) (barS.tileEnd 0) .req = false ∧ barS.hostWaits (spadAddr 0 65) (barS.tileEnd 0) .pst = false ∧
    barS.hostWaits 0x30002 (.chan chan3) .pst = false ∧ barS.chanStatus chan3 = 0 ∧ (barS.exp.locate 0x30000).1 = chan3 ∧ rawBlock.lostTags.has ((loc 0x30000).2 / 512) = false ∧
    barS.classAt 0x30000 = 0 ∧ (coded barS).classAt 0x30000 = 1 ∧ barS.badStored 0x30000 15 = false ∧ ({} : Chan).written.has ((loc 0x30000).2 / 65536) = false ∧
    (∀ i, i < 64 → barS.checkPlace 0x30000 ((loc 0x30000).2 + 8 * i) = none) ∧ 0xC000000000 < 0xC000000000 + 1 ∧ barS.memOk = true ∧ barS.rangePermit false 0 0x30002 2 true = 0 ∧ (coded barS).rangePermit false 0 0x30002 2 true = 0 ∧
    (barS.tile 0).writeBlocked (bytesAt 65 [9]) = false ∧ barS.slotRule 0 64 none = true ∧
    (hostReqS (.read 0xC000000040 64 0 false .none_)).hostAddr 0 0xC000000040 = some 0x5040 ∧
    (hostReqS (.read 0xC000000040 64 0 false .none_)).hostPermit 0 0xC000000040 false = 0 ∧
    (hostReqS (.write 0xC000000040 (bytesAt 0xC000000040 [1, 2]) 0 none false (.step 3 0 9))).hostPermit 0 0xC000000040 true = 0 ∧
    Tab.get none (hreadS.hreads.map fun e => (e.1, some e.2)) 4 = some { fn := 0, addr := 0xC000000040, len := 2, who := .stream 3 0 9 2 0 4, dst := .host false } ∧
    (after (.bar4Read 0 0x30002 4 .clean) barS).out = [.completion 0 [0, 0x5A, 0, 0]] ∧
    (after (.bar4Read 0 (spadAddr 0 64) 2 .clean) barS).out = [.completion 0 [7, 0]] ∧
    (after (.bar4Read 0 0xC000000000 4 .clean) barS).out = [.abort 0] ∧
    ((after (.bar4Write 0 (spadAddr 0 65) [9] .clean) barS).tile 0).mem = [(64, 7), (65, 9)] ∧
    ((after (.bar4Write 0 0x30002 [8, 9] .clean) barS).chan chan3).dram = [((loc 0x30000).2 + 2, 8), ((loc 0x30000).2 + 3, 9)] ∧
    ((after (.bar4Write 0 0x30002 [8, 9] .clean) (coded barS)).chan chan3).bufs = [(0, { addr := 0x30000, bytes := [(2, 8), (3, 9)], acks := [.bar4 0 0x30002] })] ∧
    (after (.hostInterfaceRequest 0) (hostReqS (.read 0xC000000040 64 0 false .none_))).out = [.hostRead 0 0x5040 64 0 false] ∧
    (after (.hostInterfaceRequest 0) (hostReqS (.write 0xC000000040 (bytesAt 0xC000000040 [1, 2]) 0 none false (.step 3 0 9)))).out =
      [.hostWrite 0 0x5040 [1, 2]] ∧
    (after (.pcieCompletion 4 [1, 2, 3] true) hreadS).mesh.map (·.body) = [.response [1, 2] 0 (.stream 3 0 9 2 0 4)] := by
  decide +kernel

/-- An access over a boundary of 64 bytes: the piece below goes on its own, and the one above is what remains (R437). -/
theorem witness_HostAccessesReachMemory_split :
    64 < 0x3003E % 64 + 4 ∧ (after (.bar4Read 0 0x3003E 2 .clean) barS).barOpen 0 = true ∧
    (after (.bar4Read 0 0x3003E 4 .clean) barS).out = [.completion 0 [0, 0], .completion 0 [0, 0]] ∧
    (after (.bar4Write 0 (spadAddr 0 126) [1, 2] .clean) barS).barOpen 0 = true ∧ 64 < spadAddr 0 126 % 64 + 4 ∧
    ((after (.bar4Write 0 (spadAddr 0 126) [1, 2, 3, 4] .clean) barS).tile 0).mem = [(64, 7), (126, 1), (127, 2), (128, 3), (129, 4)] := by
  decide +kernel

/-- A block whose bytes are all 0 or 1 codes under `table4` in class 1. -/
theorem witness_CodedDataDecodesToItself :
    tableValid table4 = true ∧ (List.replicate 512 (0 : Byte)).length = 512 ∧ (blockEncode 1 table4 (List.replicate 512 0)).isSome = true ∧
    (List.replicate 256 (0 : Byte)).length = 256 ∧ (payloadEncode 1 table4 (List.replicate 256 0)).isSome = true := by
  decide +kernel

/-! ## Grommet -/

/-- Node 1 of a ring of four, ports 0 and 2 as given, in epoch 5 of nodes 0 to 2. -/
def node1 (a b : Port) : State :=
  { up with
    svc := { up.svc with pd := [(76, 2), (78, 2)] }
    grm := { up.grm with
      node := 1, dimX := 4, dimY := 1, epoch := { num := 5, up := 7, transit := 0, links := 0x154 }, maxEpoch := 5, member := 7
      ports := [(0, a), (2, b)] } }
/-- A port that is UP with neighbour `n` and four credits of each kind. -/
def upTo (n : BitVec 4) : Port :=
  { ctl := 1, st := .up, nbValid := true, nb := n, credits := [(0, 4), (1, 4), (2, 4), (3, 4), (4, 4), (5, 4), (6, 4), (7, 4)] }
def n1 : State := node1 (upTo 0) (upTo 2)
/-- A frame with a good CRC. -/
def frameOf (h : BitVec 128) (pl : List Byte) (seq : BitVec 12) : WireFrame :=
  let h := hdrSet h 16 9 pl.length
  { hdr := h, payload := pl, gcmTag := [], seq := seq, rsv := 0, crc := frameCrc h pl [] seq 0 }
/-- A frame of node `src` for node 1, of a type, address and request tag. -/
def inF (src vc typ addr rtag : Nat) (pl : List Byte) : WireFrame := frameOf (mkHdr 1 src vc 0 typ 5 addr 0x7F rtag) pl 0

def helloF (node : Byte) : WireFrame := inF 0 3 7 0 0 ([node, 0x02] ++ leBytes 2 (4 + 32) ++ leBytes 4 0x40 ++ leBytes 4 6 ++ leBytes 8 0)
def waitHello : State := node1 { ctl := 1, st := .hello } (upTo 2)

theorem witness_PortsTrainComeUpAndFall :
    (node1 {} {}).pd (76 + 2) = 2 ∧ (node1 {} {}).portLegal 2 = true ∧ (node1 {} {}).pfWrites 0 (0x700000 + 2 * 0x10000) = true ∧
    ((node1 {} {}).port 2).st = .down ∧ (5 : Word).getLsbD 0 = true ∧ (3 : Word).getLsbD 1 = true ∧
    ((after (.portEnable 0 2 5) (node1 {} {})).port 2).st = .training ∧ ((after (.portEnable 0 2 5) (node1 {} {})).port 2).keyed = true ∧
    ((after (.portRetrain 0 2 3) (node1 {} { ctl := 1, st := .heldDown })).port 2).st = .training ∧
    (node1 {} {}).pfWrites 0 (0x700010 + 2 * 0x10000) = true ∧ ((after (.csrWrite 0 0x720010 4 9) (node1 {} {})).port 2).keyData = 9 ∧
    ((after (.csrWrite 0 0x720010 4 9) n1).port 2).keyData = 0 ∧
    ((after (.linkTrained 2) (node1 {} { ctl := 1, st := .training })).port 2).st = .hello := by
  decide +kernel

theorem witness_PortsTrainComeUpAndFall_hello :
    (match waitHello.rx 0 (helloF 0) with | .ok pl => (helloOf pl).node | _ => 15) = 0 ∧ (helloF 0).typ = 7 ∧ (helloF 0).dst = waitHello.node ∧
    (match waitHello.rx 0 (helloF 3) with | .ok pl => (helloOf pl).node | _ => 15) = 3 ∧
    ((after (.hello 0 (helloF 0)) waitHello).port 0).st = .up ∧ (after (.hello 0 (helloF 0)) waitHello).grm.maxEpoch = 6 ∧
    ((after (.hello 0 (helloF 3)) waitHello).port 0).st = .heldDown ∧ ((after (.hello 0 (helloF 3)) waitHello).port 0).flags = 1 := by
  decide +kernel

theorem witness_PortsTrainComeUpAndFall_down :
    ((after (.linkDown 2 .laneLock) n1).port 2).st = .training ∧ ((after (.linkDown 2 .laneLock) n1).port 2).flags = 0x10 ∧
    ((after (.linkDown 2 .resends) (node1 (upTo 0) { upTo 2 with sends := [8], replay := [helloF 0] })).port 2).st = .training ∧
    ((after (.linkDown 2 .noProgress) (node1 (upTo 0) { upTo 2 with replay := [helloF 0] })).port 2).st = .training ∧
    ((after (.linkDown 2 .tagFailure) (node1 (upTo 0) { upTo 2 with ctl := 5 })).port 2).flags = 0x18 := by
  decide +kernel

def fA : WireFrame := { inF 0 0 0 0 0 [] with seq := 7 }
def fB : WireFrame := { fA with seq := 8 }
def replaying (n : Nat) : State := node1 (upTo 0) { upTo 2 with replay := [fA, fB], sends := [n, n] }
/-- A frame of the reserved type 10. -/
def fR : WireFrame := inF 2 0 10 0 0 []

theorem witness_LinkWordsKeepTheReplayBuffer :
    ((replaying 1).port 2).replay.findIdx? (fun f => f.seq == 7) = some 0 ∧ ((replaying 1).port 2).replay.findIdx? (fun f => f.seq == 8) = some 1 ∧
    ((after (.linkAck 2 7 [0, 3]) (replaying 1)).port 2).replay = [fB] ∧ Tab.get 0 ((after (.linkAck 2 7 [0, 3]) (replaying 1)).port 2).credits 1 = 7 ∧
    (after (.linkNak 2 7) (replaying 7)).out = [.frame 2 fB, .frame 2 fA] ∧ ((after (.linkNak 2 7) (replaying 7)).port 2).sends = [8, 8] ∧
    ((after (.linkNak 2 7) (replaying 8)).port 2).st = .training ∧ ((after (.linkNak 2 8) (replaying 7)).port 2).replay = [fB] ∧
    ((replaying 1).port 2).mq = [] ∧ ((replaying 1).port 2).draining = false ∧ (∀ q, q < 4 → ((replaying 1).port q).held = []) ∧
    (∀ n ∈ ((replaying 7).port 2).sends, n < 8) ∧ (∃ n ∈ ((replaying 8).port 2).sends, 8 ≤ n) ∧ (n1.port 2).keyed = false ∧ fR.len ≤ 256 ∧ fR.seq = (n1.port 2).rxSeq ∧
    (after (.frameDiscard 2 { fR with crc := 0 }) n1).out = [.linkCtl 2 true 0 none] ∧ fR.typ = 10 ∧ fR.payload.length = fR.len ∧
    (after (.frameDiscard 2 fR) n1).out = [.linkCtl 2 false 0 (some 0)] := by
  decide +kernel

/-- From node 0 to node 2, and to a node that the epoch does not hold. -/
def onward : WireFrame := frameOf (mkHdr 2 0 0 0 0 5 0xA400000040 9 21) [] 0
def nowhere : WireFrame := frameOf (mkHdr 9 0 0 0 0 5 0xA400000040 9 21) [] 0
/-- A tile's read of node 2's window waits at port 2. -/
def sending (s : State) : State :=
  { s with mesh := [{ src := .tile 4, dst := .port 2, vc := .req, body := .read 0xA400000048 32 0 false (.stream 4 0 9 2 0 32) }] }

/-- The neighbour has no buffer left; node 2 is no member. -/
def noCredit : State := node1 (upTo 0) { upTo 2 with credits := [] }
def away : State := { n1 with grm := { n1.grm with epoch := { n1.grm.epoch with up := 3 } } }

theorem witness_FramesLeaveByTheirRoute :
    (match n1.rx 0 onward with | .ok _ => true | _ => false) = true ∧ onward.dst ≠ n1.node ∧ n1.routeTo 2 = some 2 ∧ n1.routeTo 9 = none ∧
    (n1.port 2).ready (onward.vc * 2 + n1.laneAfter 0 2 onward.lane) = true ∧
    (match n1.rx 0 nowhere with | .ok _ => true | _ => false) = true ∧
    (match (after (.frameForward 0 onward) n1).out with | [.frame 2 g, .linkCtl 0 false 0 (some 0), .linkCtl 0 false 0 none] => g.hdr | _ => 0) = onward.hdr ∧
    (after (.frameForward 0 nowhere) n1).out = [.linkCtl 0 false 0 (some 0), .linkCtl 0 false 0 none] ∧
    n1.outPort onward.hdr = some 2 ∧ n1.outPort nowhere.hdr = none ∧ (n1.port 0).held = [] ∧ noCredit.outPort onward.hdr = some 2 ∧
    (match noCredit.rx 0 onward with | .ok _ => true | _ => false) = true ∧
    (noCredit.port 2).ready (onward.vc * 2 + noCredit.laneAfter 0 2 onward.lane) = false ∧
    ((after (.frameForward 0 onward) noCredit).port 0).held = [(onward.hdr, [])] ∧
    (sending n1).injectable 0 = some { src := .tile 4, dst := .port 2, vc := .req, body := .read 0xA400000048 32 0 false (.stream 4 0 9 2 0 32) } ∧
    (sending n1).isMember 2 = true ∧ (sending n1).routeTo 2 = some 2 ∧ (sending n1).grm.fenced.has 2 = false ∧ (sending away).isMember 2 = false ∧
    (after (.frameInject 0) (sending away)).mesh.map (·.body) = [.response [] 0x0D (.stream 4 0 9 2 0 32)] ∧
    (sending n1).deliverable 0 = some { src := .tile 4, dst := .port 2, vc := .req, body := .read 0xA400000048 32 0 false (.stream 4 0 9 2 0 32) } ∧
    n1.glb.st.serving = true ∧ peerNode 0xA400000048 = 2 ∧ (n1.port 2).ready 0 = true ∧ n1.grm.pend.length < 65536 ∧
    (match (after (.frameInject 0) (sending n1)).out with | [.frame 2 g] => (g.typ, g.dst, g.addr) | _ => (0, 0, 0)) = (0, 2, 0xA400000040) ∧
    (node1 { upTo 0 with st := .down } (upTo 2)).routeTo 9 = none ∧
    (after (.frameInject 0) (sending { n1 with grm := { n1.grm with epoch := { n1.grm.epoch with links := 0 } } })).mesh.map (·.body) =
      [.response [] 0x0D (.stream 4 0 9 2 0 32)] := by
  decide +kernel

/-- Node 1 with logical tile 2, bight 3 of tile 2 filled by node 0's tile 1, bight 4 of node 0 filled by node 1's tile 2, and requests that wait. -/
def peerS : State :=
  { withDram n1 with
    svc := { (withDram n1).svc with pd := (76, 2) :: (78, 2) :: (withDram n1).svc.pd }
    exp := { (withDram n1).exp with regions := [(0, { base := 0, size := 0x10, ctl := 1 })] }
    grm := { n1.grm with
      aperLo := 1, pend := [(30, { dst := 0, read := true, grp := 30, who := .stream 4 0 9 2 0 32 }), (31, { dst := 0, read := false, grp := 31, who := .step 4 0 9 })] }
    rig := { n1.rig with bights := [
      (3, some { lay := 0, cnode := 1, ctile := 2, region := 64, slotsz := 1, slots := 2, nprod := 1, prod := [(0, 1)], tps := 1, tstride := 0 }),
      (4, some { lay := 0, cnode := 0, ctile := 1, region := 64, slotsz := 1, slots := 2, nprod := 1, prod := [(1, 2)], tps := 1, tstride := 0 })] } }

theorem witness_PeerFramesReachTheirTargets :
    (match peerS.rx 0 (inF 0 0 0 (0xA202000040) 5 []) with | .ok _ => true | _ => false) = true ∧ (inF 0 0 0 0 5 []).dst = peerS.node ∧
    peerS.hears (inF 0 0 0 0 5 []) = true ∧ (inF 0 0 0 0 5 []).coding = 0 ∧ peerOff 0xA202000040 = 0x2000040 ∧
    (peerS.ownWindow 0x2000040 false).toOption = some (.spad 2 64) ∧ (peerS.ownWindow 0x100000040 false).toOption = some (.dram 64 0) ∧
    (peerS.ownWindow 0x100000040 true).toOption = some (.dram 64 0) ∧ (match peerS.ownWindow 0x50000000 false with | .error e => e | _ => 0) = 0x0C ∧ (match peerS.ownWindow 0x50000000 true with | .error e => e | _ => 0) = 0x0C ∧
    peerS.bightDecl 3 ≠ none ∧ (match peerS.bightDecl 4 with | some d => d.rank (1, 2) | none => none) = some 0 ∧
    (match peerS.pendAt 30 with | some y => y.read && y.dst == 0 && y.st == 0 | none => false) = true ∧
    (match peerS.pendAt 31 with | some y => !y.read && y.dst == 0 && y.st == 0 | none => false) = true ∧
    (∀ e ∈ Tab.drop peerS.grm.pend 31, e.2.read = false → e.2.grp ≠ 31) := by
  decide +kernel

theorem test_frames_from_node_0 :
    (after (.rdReq 0 (inF 0 0 0 0xA202000040 5 [])) peerS).mesh =
      [{ src := .port 0, dst := peerS.tileEnd 2, vc := .req, body := .spadRead 64 64 (.peer 0 0 0x7F 5) }] ∧
    (after (.rdReq 0 (inF 0 0 0 0xA300000040 5 [])) peerS).mesh.map (·.body) = [.read 64 64 0 false (.peer 0 0 0x7F 5)] ∧
    (after (.rdReq 0 (inF 0 0 0 0xA250000000 5 [])) peerS).mesh.map (·.body) = [.response [] 0x0C (.peer 0 0 0x7F 5)] ∧
    (after (.wr 0 (inF 0 0 1 0xA202000041 5 [8, 9])) peerS).mesh.map (·.body) = [.spadWrite [(65, 8), (66, 9)] (some (0, 0x7F)) (.peer 0 0 0x7F 5)] ∧
    (after (.wr 0 (inF 0 0 1 0xA300000040 5 [8])) peerS).mesh.map (·.body) = [.write 64 [(64, 8)] 0 none true (.peer 0 0 0x7F 5)] ∧
    (after (.wr 0 (inF 0 0 1 0xA250000000 5 [8])) peerS).mesh.map (·.body) = [.ack 0x0C (.peer 0 0 0x7F 5)] := by
  decide +kernel

theorem test_replies_from_node_0 :
    (after (.slot 0 (inF 0 0 2 0 5 [2, 3, 1])) peerS).mesh.map (·.body) = [.slot .full 3 1 (0, 0x7F) 0 (.peer 0 0 0x7F 5)] ∧
    (after (.credit 0 (inF 0 1 3 0xA202000000 0 [4, 0])) peerS).mesh.map (·.body) = [.credit 4 0] ∧
    (after (.rdRsp 0 (inF 0 1 4 0 30 [6, 7])) peerS).mesh.map (·.body) = [.response [6, 7] 0 (.stream 4 0 9 2 0 32)] ∧
    (after (.wrAck 0 (inF 0 1 5 0 31 [])) peerS).mesh.map (·.body) = [.ack 0 (.step 4 0 9)] ∧
    (after (.replyTimeout 30) peerS).mesh.map (·.body) = [.response [] 0x0D (.stream 4 0 9 2 0 32)] := by
  decide +kernel

def chg : ChangeMsg := { node := 0, ports := 4, serving := false, epoch := 8 }
def ep6 : EpochRec := { num := 6, up := 6, transit := 4, links := 0x140 }
def chgF : WireFrame := inF 0 3 8 0 0 (changeBytes chg)
def epF (e : EpochRec) : WireFrame := inF 0 3 9 0 0 (epochBytes e)
/-- Node 1 is the lowest node that it can reach, and its wait runs. -/
def leading : State := { node1 {} (upTo 2) with
  grm := { (node1 {} (upTo 2)).grm with collecting := true, reports := [(2, { node := 2, ports := 1, serving := false, epoch := 9 })], maxEpoch := 9 } }

theorem witness_EpochsFollowTheLinks :
    (match n1.rx 0 chgF with | .ok pl => pl | _ => []) = changeBytes chg ∧ chgF.dst = n1.node ∧ chgF.typ = 8 ∧ chg.node.toNat ≠ n1.node ∧
    (match n1.rx 0 (epF ep6) with | .ok pl => pl | _ => []) = epochBytes ep6 ∧ (epF ep6).typ = 9 ∧
    (after (.change 0 chgF) n1).report 0 = some chg ∧ (after (.change 0 chgF) n1).grm.maxEpoch = 8 ∧
    (after (.epoch 0 (epF ep6)) n1).grm.epoch = ep6 ∧ (after (.epoch 0 (epF ep6)) n1).grm.leader = 1 ∧
    (after (.epoch 0 (epF { ep6 with num := 5 })) n1).grm.epoch = n1.grm.epoch ∧
    leading.grm.collecting = true ∧ leading.leads = true ∧ leading.connected = [1, 2] ∧
    (after .epochIssue leading).grm.epoch = { num := 10, up := 6, transit := 4, links := 0x140 } := by
  decide +kernel

/-! ## Errors, faults and the log -/

/-- A tile with a word of each kind at fault; the scrubber at its first word or at its end. -/
def sickTile : Tile :=
  { mem := [(64, 7)], valid := [8, 9], ecc := [(9, .correctable)], heals := [({} : Tile).place 9], rereads := [(8, true)] }
def sick : State := tile0 sickTile
def lapDone : State := tile0 { sickTile with scrubPos := 524288 + 8191 }
/-- The lap began 10,000,001 microseconds ago. -/
def lapOld : State := { sick with glb := { sick.glb with time := 1000000100 } }
def poisonS : State := tile0 { sickTile with ecc := [(8, .poisoned)] }

theorem witness_ErrorsAreReadAgainAndScrubbed :
    sick.memOk = true ∧ sick.tileRuns 0 = true ∧ Tab.get none ((sick.tile 0).rereads.map fun e => (e.1, some e.2)) 8 = some true ∧
    (sick.tile 0).valid.has 8 = true ∧ (sick.tile 0).heals.has ((sick.tile 0).place 9) = true ∧ (sick.tile 0).valid.has 9 = true ∧
    (sick.tile 0).wordEcc 9 = .correctable ∧ (arriving sick (.credit 3 0)).mesh[0]? = some (pkt (.credit 3 0)) ∧
    sick.scrubs 0 = true ∧ (sick.tile 0).nextScrub (sick.tile 0).scrubPos = some 8 ∧ (sick.tile 0).wordEcc 8 ≠ .poisoned ∧
    lapDone.scrubs 0 = true ∧ (lapDone.tile 0).scrubEnd = 524288 ∧ (lapDone.tile 0).nextScrub (524288 + 8191) = none ∧ sickTile.alarmed = false ∧
    poisonS.scrubs 0 = true ∧ (poisonS.tile 0).nextScrub (poisonS.tile 0).scrubPos = some 8 ∧ (poisonS.tile 0).wordEcc 8 = .poisoned ∧
    lapOld.scrubs 0 = true ∧ max 1 (getFld (lapOld.tile 0).scrubCtl 16 16) * 1000 < (lapOld.glb.time - (lapOld.tile 0).lapStart) / 100 := by
  decide +kernel

theorem test_errors :
    ((after (.reread (.scratchpad 0 8) ⟨.uncorrectable, .clean⟩) sick).tile 0).eccCnt = 0x10000 ∧
    ((after (.reread (.scratchpad 0 8) ⟨.uncorrectable, .poisoned⟩) sick).tile 0).eccCnt = 0x1000000 ∧
    ((after (.reread (.scratchpad 0 8) ⟨.uncorrectable, .poisoned⟩) sick).elog.queue.map (·.event)) = [6] ∧
    ((after (.reread (.programStore 0) ⟨.correctable, .clean⟩) sick).elog.queue.map (·.event)) = [1] ∧
    ((after (.reread (.meshPacket 0) ⟨.uncorrectable, .clean⟩) (arriving sick (.credit 3 0))).mesh.map (·.bad)) = [true] ∧
    ((after (.reread (.tagCache 2 1) ⟨.uncorrectable, .uncorrectable⟩) sick).chan 2).lostTags.has 255 = true ∧
    ((after (.reread (.writtenMap 2 1) ⟨.uncorrectable, .uncorrectable⟩) sick).chan 2).lostWpm.has 128 = false ∧
    ((after (.healTest 0 9 .clean) sick).elog.queue.map (·.event)) = [2] ∧ ((after (.healTest 0 9 .correctable) sick).tile 0).eccSt = 8 ∧
    ((after (.scrub 0 .correctable) sick).tile 0).scrubPos = 16385 ∧ ((after (.scrub 0 .clean) lapDone).tile 0).scrubLap = 1 ∧
    ((after (.scrub 0 .poisoned) poisonS).elog.queue.map (·.event)) = [6] ∧ ((after (.scrubAlarm 0 ((lapOld.glb.time - (lapOld.tile 0).lapStart) / 100)) lapOld).tile 0).scrubAlarm = true ∧
    ((after (.scrubAlarm 0 0) sick).tile 0).scrubAlarm = false := by
  decide +kernel

/-- Tile 0 serves logical tile 0 of lay 0 and consumes bight 3, whose slot 0 is FULL; tile 16 is a spare. -/
def placedS : State :=
  let s := withBight (tile0 { mem := [(64, 7)], valid := [8], strands := [] }) .full
  { s with
    rig := { s.rig with place := [(0, some (0, 0))] }
    tiles := [(0, { pstore := [], mem := [(64, 7)], valid := [8] })] }
/-- Its fault is latched; `role` is that of tile 16. -/
def lostS (role : Nat) : State :=
  { placedS with
    tiles := [(0, { mem := [(64, 7)], valid := [8], lost := true, deadRouter := true })]
    tmap := [(0, { phys := 0, role := 0, fenced := true }), (16, { phys := 16, role := role }), (33, { phys := 33, role := 2 }),
      (50, { phys := 50, role := 2 }), (67, { phys := 67, role := 2 })]
    svc := { placedS.svc with faults := [{ source := srcTile 0, kind := 1, at_ := 0 }] } }

/-- A packet for the spare is on the mesh. -/
def toSpare : State := { lostS 1 with mesh := [{ src := .chan 2, dst := .tile 16, vc := .rsp, body := .credit 3 0 }] }

theorem witness_LostTilesMoveToSpares :
    placedS.tileRuns 0 = true ∧ placedS.svc.faults = [] ∧ (Tab.get none placedS.rig.place (placedS.logOf 0)).isSome = true ∧
    (lostS 1).svc.faults = [{ source := srcTile 0, kind := 1, at_ := 0 }] ∧ (lostS 1).glb.st ≠ .halted ∧
    (Tab.get none (lostS 1).rig.place ((lostS 1).logOf 0)).isSome = true ∧ ((lostS 1).mapEnt 0).phys = 0 ∧ ((lostS 1).mapEnt 0).role = 0 ∧
    (lostS 1).onTile 0 = [] ∧ (lostS 1).svc.retireTile = none ∧ (lostS 1).chooseSpare 0 = some 16 ∧ (lostS 1).physOf 16 ≠ 0 ∧
    (∀ w ∈ (lostS 1).liveWords 0, ((lostS 1).tile 0).wordReads w = true) ∧ 8 ∈ (lostS 1).liveWords 0 ∧ (lostS 2).chooseSpare 0 = none ∧
    (placedS.tile 0).lost = false ∧ placedS.pd 0 = 2 ∧ (lostS 1).meshClear 16 = true ∧
    toSpare.svc.faults = (lostS 1).svc.faults ∧ (∃ x ∈ toSpare.mesh, x.dests.contains (.tile 16) = true ∧ x.dst ≠ .tile 0 ∧ x.src ≠ .tile 0) ∧
    (after (.faultRecovery true .readable) toSpare).svc.faults.map (·.spare) = [some 16] := by
  decide +kernel

theorem test_lost_tile :
    (after (.tileLost 0 false) placedS).svc.faults = [{ source := srcTile 0, kind := 1, at_ := 0 }] ∧
    (after (.tileLost 0 false) { placedS with svc := { placedS.svc with faults := [
      { source := srcTile 1, kind := 1, at_ := 0 }, { source := srcChan 1, kind := 4, at_ := 0 }] } }).glb.st = .halted ∧
    (after (.faultRecovery true .readable) (lostS 1)).mapEnt 0 = { phys := 16, role := 0 } ∧
    ((after (.faultRecovery true .readable) (lostS 1)).tile 16).byte 64 = 7 ∧
    (after (.faultRecovery true .readable) (lostS 2)).mapEnt 0 = { phys := 0, role := 2 } := by
  decide +kernel

theorem witness_RetirementsAreRecorded :
    up.pfWrites 0 0x10600 = true ∧ (0x80000000 : Word).getLsbD 31 = true ∧ up.svc.retireBusy = false ∧ up.svc.romMode = false ∧ up.glb.st ≠ .halted ∧
    getFld (0x8001860D : Word) 2 7 = 3 ∧ getFld (0x8001860C : Word) 0 2 = 0 ∧ getFld (0x8001860D : Word) 0 2 = 1 ∧ getFld (0x8001860E : Word) 0 2 = 2 ∧
    addSpare (up.tile 3).spare 3 3 = some ([(12, 3)], 0) ∧ addSpare [(12, 1), (13, 2), (14, 4), (15, 5)] 3 3 = none ∧
    (up.rig.placeOf (up.logOf 3)).isSome = false ∧ up.journal.tiles.has 3 = false ∧ up.svc.faults = [] ∧
    ((after (.lineRetirement 0 0x8001860C true) up).tile 3).spare = [(12, 3)] ∧
    (after (.lineRetirement 0 0x8001860C true) { up with tiles := [(3, { spare := [(12, 1), (13, 2), (14, 4), (15, 5)] })] }).svc.retireReason = 1 ∧
    Tab.get 0 (after (.bankRetirement 0 0x8001860D true) up).journal.banks 3 = 8 ∧
    (after (.tileRetirement 0 0x8001860E true) up).svc.retireTile = some 3 := by
  decide +kernel

def ev1 : LogEvent := { time := 5, source := 0, event := 1, sev := 1 }
/-- The log with `n` places of the ring used, and an event that is due. -/
def logS (n : Nat) (now : Nat) : State :=
  { up with
    glb := { up.glb with time := now }
    elog := { up.elog with queue := [ev1, { ev1 with time := 6 }], first := List.replicate (if n = 0 then 0 else 896) { ev := ev1, seq := 1, lost := false }, rcount := n - 1 } }

theorem witness_TheLogCommitsInOrder :
    ({ ev1 with time := 6 } : LogEvent).before ev1 = false ∧ (logS 0 1005).glb.st ≠ .off ∧ ev1.time + 1000 ≤ (logS 0 1005).glb.time ∧
    (logS 0 1005).elog.first.length < 896 ∧ 896 ≤ (logS 1 1005).elog.first.length ∧ (logS 1 1005).elog.rcount < 128 ∧ 128 ≤ (logS 129 1005).elog.rcount ∧
    up.pfWrites 0 0x900004 = true ∧
    ((after (.logCommit true true) (logS 0 1005)).elog.first.map fun e => (e.seq, e.ev.late)) = [(1, false)] ∧
    ((after (.logCommit true true) (logS 0 1006)).elog.first.map fun e => e.ev.late) = [true] ∧
    (after (.logCommit true true) (logS 1 1005)).elog.rcount = 1 ∧ (after (.logCommit true true) (logS 129 1005)).elog.ovf = true ∧
    (after (.logCommit true false) (logS 0 1005)).elog.lostCount = 1 ∧ (after (.logCommit true true) (logS 0 1004)).elog.first = [] ∧
    (after (.logClear 0 1) (after (.logCommit true true) (logS 0 1005))).elog.first = [] := by
  decide +kernel

/-- Channel 3 at its slot of the timebase; a fault is latched. -/
def chanS (x : Chan) : State :=
  { withDram up with glb := { up.glb with time := 137500 }, chans := [(3, { x with train := .trained, tTrain := 40 })] }
def inWindow : State := { chanS {} with svc := { (chanS {}).svc with faults := [{ source := srcTile 5, kind := 1, at_ := 0 }] } }

theorem witness_ChannelsRecentreAndRetrain :
    (chanS {}).glb.time % 100000 = 12500 * 3 ∧ (withDram up).glb.time % 100000 ≠ 12500 * 3 ∧ inWindow.svc.faults ≠ [] ∧
    (chanS {}).pd (68 + 3) = 2 ∧ ((chanS {}).chan 3).train = .trained ∧ (chanS {}).svc.faults = [] ∧
    ((after (.recentre 3 55) (chanS {})).chan 3).retrain = true ∧ ((after (.recentre 3 26) (chanS {})).chan 3).retrain = false ∧
    ((after (.recentre 3 26) (chanS { due := true })).chan 3).retrain = true ∧ ((after (.recentre 3 55) inWindow).chan 3).deferred = true ∧
    ((after (.recentreEnd 3) (after (.recentre 3 26) (chanS {}))).chan 3).trainCnt = 1 ∧
    ((after (.fullRetrainEnd 3 true) (after (.recentre 3 55) (chanS {}))).chan 3).tTrain = 55 ∧
    (after (.fullRetrainEnd 3 false) (after (.recentre 3 55) (chanS {}))).glb.st = .degraded := by
  decide +kernel

/-! ## Rigs and firmware -/

/-- The image source lies in host memory; the slots hold images of no bytes. -/
def rigS : State :=
  { tableS false with
    svc := { (tableS false).svc with rigSrc := 0xC000000000, rigLen := 64 }
    journal := { rig0 := { st := .valid }, fw0 := { st := .valid } } }
/-- 64 bytes that are no image. -/
def src64 : SourceIo := { io with host := List.replicate 64 0 }

theorem witness_RigCommandsValidateFirst :
    rigS.svcBusy = false ∧ rigS.pfWrites 0 0x1042C = true ∧ rigS.svc.romMode = false ∧ rigS.svc.memFail = false ∧ rigS.glb.st.serving = true ∧
    getFld (0x11 : Word) 0 4 = 1 ∧ slotOf 0x11 = true ∧ Mem.wf 0xFF rigS.flash = true ∧ rigS.runsSlot true = false ∧ rigS.journal.boot = false ∧
    (rigS.source src64 0x1800000).map (·.2) = some (List.replicate 64 0) ∧ slotOf 0x02 = false ∧ (rigS.journal.rig false).st = .valid ∧
    (rigS.journal.rig false).ver = rigS.rig.version ∧ (∀ l, l < 16 → (rigOf (rigS.slotImage false)).layVer l = rigS.rig.layVer l) ∧
    (∀ m, ({ rigS with journal := {} }.journal.rig m).st = .valid → ({ rigS with journal := {} }.journal.rig m).key.toNat ≠ 2) ∧
    rigS.svc.rigActive.getLsbD 0 = false := by
  decide +kernel

theorem test_rig_commands :
    ((after (.writeSlot 0 0x11 src64) rigS).journal.rig true).st = .bad ∧ (after (.writeSlot 0 0x11 src64) rigS).svc.rigReason = 1 ∧
    (after (.writeSlot 0 0x11 src64) rigS).flashRead 0x1800000 2 = [0, 0] ∧ ((after (.activate 0 2 io) rigS).journal.rig false).st = .bad ∧
    ((after (.rollback 0 3 io) { rigS with journal := { rigS.journal with boot := true } }).journal.rig false).st = .bad ∧
    (after (.load 0 4 src64) rigS).svc.rigReason = 1 ∧ (after (.reconfLay 0 5 src64) rigS).svc.rigReason = 1 ∧
    (after (.reconfTile 0 6 src64) rigS).svc.rigReason = 1 ∧ (after (.setBoot 0 7 io) { rigS with journal := { rigS.journal with boot := true } }).journal.boot = false ∧
    (after (.revoke 0 0x209 io) { rigS with journal := {} }).journal.revoked = 4 ∧ (after (.revoke 0 0x009 io) rigS).svc.rigReason = 0x0C := by
  decide +kernel

theorem test_compact : (after (.compact 0 8 io) rigS).journal.comm = 2 ∧ (after (.compact 0 8 io) rigS).svc.rigDone = true := by
  decide +kernel

/-- A journal with 49 sectors in use. -/
def fullJournal : State := { rigS with flash := (List.range 49).map fun i => (journalBase + i * 65536, 0x4E) }

theorem witness_RigCommandsValidateFirst_compaction :
    48 < fullJournal.journalUsed ∧ fullJournal.svcBusy = false ∧ Mem.wf 0xFF fullJournal.flash = true ∧ fullJournal.glb.st ≠ .off := by
  decide +kernel

/-- A drain whose tasks are gone, and one whose task 9 is in `st` on strand 0 of tile 0. -/
def drainS (k : DrainKind) : State :=
  { placedS with svc := { placedS.svc with rigBusy := true, drain := some { kind := k, rig := { placedS.rig with version := 7 }, phys := List.range 68 } } }
def drainT (st : TaskSt) : State :=
  { withTask (tile0 {}) (taskOf st) with svc := (drainS (.lay 0)).svc }

theorem witness_DrainsEndInTheNewRig :
    ((drainS (.tile 0)).svc.drain.map fun d => (drainS (.tile 0)).drainDone d) = some true ∧ (drainS (.tile 0)).glb.st ≠ .halted ∧
    ((drainS (.lay 0)).svc.drain.map fun d => (drainS (.lay 0)).drainDone d) = some true ∧
    ((drainS (.lay 0)).svc.drain.map fun d => (drainS (.lay 0)).resetsHitch d 6) = some false ∧
    ((drainS (.whole (some true))).svc.drain.map fun d => ((drainS (.whole (some true))).drainDone d, d.set)) = some (true, none) ∧
    ((drainT (.running 0 0)).svc.drain.map fun d => (drainT (.running 0 0)).drains d (taskOf (.running 0 0))) = some true ∧
    (drainT (.running 0 0)).task 9 = some (taskOf (.running 0 0)) ∧ ((drainT (.running 0 0)).strand 0 0).st = .issuing ∧
    ((drainT (.launch 0)).svc.drain.map fun d => (drainT (.launch 0)).drains d (taskOf (.launch 0))) = some true ∧
    ((after (.drainEnd false) (drainS (.whole (some true)))).journal.rig true).st = .bad ∧
    (after (.drainEnd false) (drainS (.whole (some true)))).svc.rigReason = 0x0F ∧
    (after (.drainEnd true) (drainS (.tile 0))).rig.version = 7 ∧ (after (.drainEnd true) (drainS (.lay 0))).svc.rigDone = true ∧
    ((after .drainLimit (drainT (.running 0 0))).strand 0 0).status = 6 ∧
    ((after .drainLimit (drainT (.launch 0))).task 9).map (·.status) = some 6 := by
  decide +kernel

def fwS (f : Svc → Svc) : State := { rigS with svc := f rigS.svc }

theorem witness_FirmwareSlotsSwitchAndRevert :
    rigS.pfWrites 0 0x10800 = true ∧ rigS.runsFw true = false ∧ rigS.runsFw false = true ∧ (rigS.source src64 4194304).map (·.2) = some (List.replicate 64 0) ∧
    rigS.journal.fwBoot = false ∧ (rigS.journal.fw false).st = .valid ∧ (fwS fun x => { x with runSlot := true }).runsFw false = false ∧
    (fwS fun x => { x with romMode := true }).svcBusy = false ∧
    (fwS fun x => { x with fwWait := some true, retireBusy := true }).fwQuiet = false ∧
    ((after (.fwWriteSlot 0 0x11 src64) rigS).journal.fw true).st = .bad ∧
    (after (.fwSetBoot 0 3 io) { rigS with journal := { rigS.journal with fwBoot := true } }).journal.fwBoot = false ∧
    (after (.fwLoad 0 4 src64 env) (fwS fun x => { x with romMode := true })).svc.fwReason = 1 ∧
    (after .switchWaitTimeout (fwS fun x => { x with fwWait := some true, retireBusy := true })).svc.fwReason = 0x0D ∧
    (after (.fwAlive true) (fwS fun x => { x with fwAlive := some (false, 3, false, true), runSlot := true })).journal.fwBoot = true ∧
    (after (.fwAliveTimeout true) (fwS fun x => { x with fwAlive := some (false, 3, false, true), runSlot := true })).svc.runSlot = false := by
  decide +kernel

/-! ## Registers -/

def readLog : State := logS 1 1005
/-- Interrupt 0 is raised and its message may go, but for the output hold. -/
def held0 : State :=
  { up with
    hold := { up.hold with agreed := true }
    glb := { up.glb with irq := 1, mask := 0xF }
    funcs := [(0, { bme := true, mse := true, msix := [(0, { addr := 0x40, data := 5, masked := false })] })] }

theorem witness_RegistersReadWhatWasWritten :
    up.barOpen 0 = true ∧ up.blockUp 0x100000 = true ∧ (∀ e ∈ rwRegisters 3, up.blockUp e.1 = true) ∧ up.blockUp 0x10 = true ∧ up.blockUp 0x34 = true ∧
    latches 0 8 = false ∧ latches 0 4 = false ∧ latches 0 0x10 = true ∧ readLog.barOpen 0 = true ∧
    readLog.elog.entry 0 = some { ev := ev1, seq := 1, lost := false } ∧ (after (.lowWordRead 0 0x901000 ⟨4, false⟩) readLog).elog.lostCount = 1 ∧
    ((after (.irqMaskWrite 0 0xE) held0).func 0).pba = 1 ∧ held0.outputHold = true ∧ goodAccess 2 4 = false ∧ goodAccess 8 2 = false ∧ goodAccess 4 8 = false ∧
    (after (.csrWrite 0 0x100400 4 0x12345) up).csr 0 0x100400 = 0x2345 ∧
    (after (.csrWrite 0 0x130500 4 2) { up with tiles := [(3, { eccSt := 0x43 })] }).csr 0 0x130500 = 0x41 ∧
    (after (.lowWordRead 0 0x34 ⟨4, true⟩) up).out = [.completion 0 (leBytes 4 (up.csr 0 0x34).toNat)] ∧
    (after (.lowWordRead 0 0x14 ⟨4, true⟩) (after (.lowWordRead 0 0x10 ⟨4, true⟩) { up with glb := { up.glb with time := 0x700000009 } })).out =
      [.completion 0 [7, 0, 0, 0], .completion 0 [9, 0, 0, 0]] ∧
    ((after (.pstoreDataRead 0 3) up).tile 3).pstoreAddr = 1 ∧ (after (.completerAbort 0 2 4) up).out = [.abort 0] ∧
    ((after (.irqMaskWrite 0 0xE) { up with glb := { up.glb with irq := 1, mask := 0xF } }).func 0).pba = 1 ∧
    (after (.irqMaskWrite 0 0xE) { up with
      glb := { up.glb with irq := 1, mask := 0xF }
      funcs := [(0, { bme := true, mse := true, msix := [(0, { addr := 0x40, data := 5, masked := false })] })] }).out = [.msix 0 0x40 5] := by
  decide +kernel

/-! ## Steps, and what every command keeps -/

theorem witness_IdleStepTicksTimebase :
    up.pending = [] ∧ up.glb.st ≠ .off ∧ up.svc.fwWait = none ∧ (match step up with | .next t => t.glb.time | _ => 0) = 1 ∧
    (match step { up with pending := [.holdChange false false] } with | .next t => t.hold.run | _ => 0) = 1 := by
  decide +kernel

theorem witness_LatchedDiscrepancyFaultPersists :
    (after (.holdChange false true) latched).hold.disc = true ∧ latched.hold.disc = true ∧ (match exec (.holdChange false true) latched with | .next t => t.hold.disc | _ => false) = true := by
  decide +kernel

def halted : State := { up with glb := { up.glb with st := .halted }, pins := { up.pins with faultN := false } }

theorem witness_OnlyAResetLeavesHalted :
    halted.glb.st = .halted ∧ (match exec .watchdogExpiry halted with | .next t => t.glb.st | _ => .boot) = .halted ∧ (after .watchdogExpiry halted).glb.st = .halted ∧
    (after (.perstAssert env) halted).glb.st ≠ .halted := by
  decide +kernel

theorem witness_EveryStepKeepsTheStateSound :
    up.sound = true ∧ halted.sound = true ∧ sick.memOk = true ∧ ({ up with glb := { up.glb with st := .halted } } : State).sound = false ∧
    (match step { halted with pending := [.watchdogExpiry] } with | .next t => t.sound | _ => false) = true ∧
    (match step { sick with pending := [.scrub 0 .clean] } with | .next t => t.memOk | _ => false) = true := by
  decide +kernel

theorem witness_LookupsGiveTheSumsOfTheirGroups :
    [1, -2, (3 : Int), 4].length = groupWidth 0 ∧ 15 < 2 ^ groupWidth 0 ∧ [1, 2, 3, 4, (5 : Int)].length = 5 ∧ 242 < 243 ∧
    lookupIdx 0 5 (slotTable 0 [] [1, -2, 3, 4]) = (1 + 2 + 3 - 4, false) ∧
    lookupIdx 2 242 (slotTable 2 [] [1, 2, 3, 4, 5]) = (15, false) ∧ lookupIdx 2 243 (slotTable 2 [] [1, 2, 3, 4, 5]) = (0, true) := by
  decide +kernel

theorem witness_AccumulationIsExactWithinTheGuard :
    (∀ n, n ≤ [100, -7, (2 : Int)].length → -(2 ^ 33) < (([100, -7, (2 : Int)].take n).foldl (· + ·) 0) ∧ (([100, -7, (2 : Int)].take n).foldl (· + ·) 0) < 2 ^ 33) ∧
    (([100, -7, (2 : Int)].foldl AccEntry.deliver {}).promote).total = 95 ∧ ({ guard := true, total := 5 } : AccEntry).guard = true := by
  decide +kernel

/-! ## Ill-formed commands -/

def env3 : BootEnv := { env with fuses := [none] }
def hot : TrainResult := { ok := true, cap := 0, temp := 128 }

theorem test_illformed_functions_tiles_channels_ports :
    (Instr.irqMaskWrite 64 0).wf = false ∧ (Instr.irqMaskWrite 63 0).wf = true ∧ (Instr.tableSwap 68).wf = false ∧ (Instr.add 67 8).wf = false ∧
    (Instr.add 67 7).wf = true ∧ (Instr.recentreEnd 8).wf = false ∧ (Instr.linkTrained 4).wf = false ∧ (Instr.modUsExpiry 32768).wf = false ∧
    (Instr.lowWordRead 0 0 ⟨3, true⟩).wf = false ∧ (Instr.unitStepComplete 0 6).wf = false ∧ (Instr.thermalSample 0 (List.replicate 22 0)).wf = false ∧ (Instr.scrubAlarm 68 0).wf = false ∧
    (Instr.pstoreDataRead 0 68).wf = false ∧ (Instr.spliceFlush 0 8 0).wf = false ∧ (Instr.portEnable 0 4 0).wf = false := by
  decide +kernel

theorem test_illformed_surroundings :
    env.wf = true ∧ (Instr.powerGood env3).wf = false ∧ (Instr.hotReset { env with fuses := [none, none, none, some []] }).wf = false ∧
    (Instr.perstAssert { env with train := [] }).wf = false ∧ (Instr.perstAssert { env with verify := [] }).wf = false ∧ (Instr.perstAssert { env with train := List.replicate 8 hot }).wf = false ∧
    (Instr.load 0 0 { io with train := List.replicate 9 { hot with temp := 0 } }).wf = false ∧ (Instr.load 0 0 { io with train := [{ hot with cap := 3, temp := 0 }] }).wf = false ∧
    (Instr.fwLoad 0 0 io env3).wf = false ∧ (Instr.domainTransitionEnd 80 { hot with temp := 0 }).wf = false ∧
    (Instr.domainTransitionEnd 79 { hot with temp := -129 }).wf = false ∧ (Instr.functionLevelReset 64 env).wf = false := by
  decide +kernel

theorem test_illformed_words_and_frames :
    (Instr.reread (.scratchpad 0 524288) ⟨.uncorrectable, .clean⟩).wf = false ∧ (Instr.reread (.programStore 68) ⟨.uncorrectable, .clean⟩).wf = false ∧
    (Instr.reread (.tileState 0 (some 8)) ⟨.uncorrectable, .clean⟩).wf = false ∧ (Instr.reread (.splice 0 128 0) ⟨.uncorrectable, .clean⟩).wf = false ∧
    (Instr.reread (.splice 0 0 16) ⟨.uncorrectable, .clean⟩).wf = false ∧ (Instr.reread (.tagCache 8 0) ⟨.uncorrectable, .clean⟩).wf = false ∧ (Instr.reread (.writtenMap 8 0) ⟨.uncorrectable, .clean⟩).wf = false ∧
    (Instr.reread (.schedHitch 256) ⟨.uncorrectable, .clean⟩).wf = false ∧ (Instr.reread (.schedTask 9) ⟨.uncorrectable, .clean⟩).wf = true ∧ (Instr.healTest 0 524288 .clean).wf = false ∧
    (Instr.hello 0 { fA with payload := List.replicate 257 0 }).wf = false ∧ (Instr.hello 0 { fA with gcmTag := [0] }).wf = false ∧
    (Instr.hello 4 fA).wf = false ∧ (Instr.hello 0 fA).wf = true ∧ (Instr.verdict (.frame 4 fA)).wf = false ∧ (Instr.replyTimeout 65536).wf = false ∧
    (Instr.linkAck 0 0 []).wf = false ∧ (Instr.pcieCompletion 1024 [] true).wf = false ∧ (Instr.smbusUnlistedRead 8).wf = false := by
  decide +kernel

end Sys2Proof.Tests
end

/-! # What every command keeps, and the device state

`Keep` (Sys2Proof/Laws/Keep.lean) holds of every command but nine; this part says so once for `exec`, and settles that HALTED is left by a
reset only. -/

namespace Sys2Proof.Machine

/-- The commands whose effect goes beyond `Keep`: the rise and the fall of PWR_GOOD, the resets, and the samples and the clear of the hold
logic. -/
def resetsOrSamples : Instr → Bool
  | .powerGood .. | .powerLoss | .perstAssert .. | .hotReset .. | .glbResetWarm .. | .functionLevelReset .. | .holdChange ..
  | .discrepancyFault .. | .discFaultClear .. => true
  | _ => false

/-- Every other command keeps what `Keep` names; one arm for each row, as in `exec`. -/
theorem exec_keep {c : Instr} {s t : State} (hc : resetsOrSamples c = false) (h : exec c s = .next t) : Keep s t :=
  match c with
  | .perstDeassert => execPerstDeassert_keep h
  | .busMasterEnable .. => execBusMasterEnable_keep h
  | .memorySpaceEnable .. => execMemorySpaceEnable_keep h
  | .d3hot .. => execD3hot_keep h
  | .csrWrite .. => execCsrWrite_keep h
  | .lowWordRead .. => execLowWordRead_keep h
  | .pstoreDataRead .. => execPstoreDataRead_keep h
  | .irqMaskWrite .. => execIrqMaskWrite_keep h
  | .completerAbort .. => execCompleterAbort_keep h
  | .supplyAck .. => execSupplyAck_keep h
  | .supplyTimeout => execSupplyTimeout_keep h
  | .smbusState => execSmbusState_keep h
  | .smbusTj => execSmbusTj_keep h
  | .smbusTjMax => execSmbusTjMax_keep h
  | .smbusProfile => execSmbusProfile_keep h
  | .smbusNodeId => execSmbusNodeId_keep h
  | .smbusSerialNumber => execSmbusSerialNumber_keep h
  | .smbusUnlistedRead .. => execSmbusUnlistedRead_keep h
  | .smbusWrite cmd data => execSmbusWrite_keep (v0 := cmd) (v1 := data) h
  | .alertResponse => execAlertResponse_keep h
  | .thermalSample .. => execThermalSample_keep h
  | .tclkDivisorChange => execTclkDivisorChange_keep h
  | .watchdogExpiry => execWatchdogExpiry_keep h
  | .profileCommand .. => execProfileCommand_keep h
  | .domainCommand .. => execDomainCommand_keep h
  | .domainTransitionEnd .. => execDomainTransitionEnd_keep h
  | .writeSlot .. => execWriteSlot_keep h
  | .activate .. => execActivate_keep h
  | .rollback .. => execRollback_keep h
  | .load .. => execLoad_keep h
  | .reconfLay .. => execReconfLay_keep h
  | .reconfTile .. => execReconfTile_keep h
  | .setBoot .. => execSetBoot_keep h
  | .compact .. => execCompact_keep h
  | .revoke .. => execRevoke_keep h
  | .journalCompaction .. => execJournalCompaction_keep h
  | .drainEnd .. => execDrainEnd_keep h
  | .drainLimit => execDrainLimit_keep h
  | .fwWriteSlot .. => execFwWriteSlot_keep h
  | .switch .. => execSwitch_keep h
  | .switchWaitTimeout => execSwitchWaitTimeout_keep h
  | .fwAlive .. => execFwAlive_keep h
  | .fwAliveTimeout .. => execFwAliveTimeout_keep h
  | .fwSetBoot .. => execFwSetBoot_keep h
  | .fwLoad .. => execFwLoad_keep h
  | .lineRetirement .. => execLineRetirement_keep h
  | .bankRetirement .. => execBankRetirement_keep h
  | .tileRetirement .. => execTileRetirement_keep h
  | .tileLost .. => execTileLost_keep h
  | .faultRecovery .. => execFaultRecovery_keep h
  | .reread .. => execReread_keep h
  | .healTest .. => execHealTest_keep h
  | .scrub .. => execScrub_keep h
  | .scrubAlarm .. => execScrubAlarm_keep h
  | .logCommit .. => execLogCommit_keep h
  | .logClear .. => execLogClear_keep h
  | .recentre .. => execRecentre_keep h
  | .fullRetrainEnd .. => execFullRetrainEnd_keep h
  | .submissionDoorbell .. => execSubmissionDoorbell_keep h
  | .completionDoorbell .. => execCompletionDoorbell_keep h
  | .queueEnable .. => execQueueEnable_keep h
  | .queueFlush .. => execQueueFlush_keep h
  | .entryRead .. => execEntryRead_keep h
  | .packetAcceptance .. => execPacketAcceptance_keep h
  | .dispatch .. => execDispatch_keep h
  | .completionReport .. => execCompletionReport_keep h
  | .completionRecordPost .. => execCompletionRecordPost_keep h
  | .modUsExpiry .. => execModUsExpiry_keep h
  | .endStep .. => execEndStep_keep h
  | .tbuild .. => execTbuild_keep h
  | .tmcast .. => execTmcast_keep h
  | .cbload .. => execCbload_keep h
  | .lpass .. => execLpass_keep h
  | .passRetire .. => execPassRetire_keep h
  | .tableSwap .. => execTableSwap_keep h
  | .rippleEnd .. => execRippleEnd_keep h
  | .setTimeout .. => execSetTimeout_keep h
  | .tableMulticastPacket .. => execTableMulticastPacket_keep h
  | .output .. => execOutput_keep h
  | .partialSend .. => execPartialSend_keep h
  | .combine .. => execCombine_keep h
  | .unitStepComplete .. => execUnitStepComplete_keep h
  | .copy .. => execCopy_keep h
  | .add .. => execAdd_keep h
  | .sub .. => execSub_keep h
  | .mul .. => execMul_keep h
  | .fma .. => execFma_keep h
  | .scale .. => execScale_keep h
  | .max .. => execMax_keep h
  | .min .. => execMin_keep h
  | .exp .. => execExp_keep h
  | .log .. => execLog_keep h
  | .recip .. => execRecip_keep h
  | .rsqrt .. => execRsqrt_keep h
  | .tanh .. => execTanh_keep h
  | .sigmoid .. => execSigmoid_keep h
  | .silu .. => execSilu_keep h
  | .gelu .. => execGelu_keep h
  | .rsum .. => execRsum_keep h
  | .rsumsq .. => execRsumsq_keep h
  | .rmax .. => execRmax_keep h
  | .dot .. => execDot_keep h
  | .odot .. => execOdot_keep h
  | .fcomb .. => execFcomb_keep h
  | .statcmb .. => execStatcmb_keep h
  | .rmsnorm .. => execRmsnorm_keep h
  | .smexp .. => execSmexp_keep h
  | .smnorm .. => execSmnorm_keep h
  | .rope .. => execRope_keep h
  | .qu8a .. => execQu8a_keep h
  | .qs8 .. => execQs8_keep h
  | .kapp .. => execKapp_keep h
  | .vapp .. => execVapp_keep h
  | .pscale .. => execPscale_keep h
  | .qg8 .. => execQg8_keep h
  | .qm8 .. => execQm8_keep h
  | .topk .. => execTopk_keep h
  | .topkm .. => execTopkm_keep h
  | .argmax .. => execArgmax_keep h
  | .iadd .. => execIadd_keep h
  | .gather .. => execGather_keep h
  | .fill .. => execFill_keep h
  | .inval .. => execInval_keep h
  | .matvec .. => execMatvec_keep h
  | .outer .. => execOuter_keep h
  | .dsilu .. => execDsilu_keep h
  | .dgelu .. => execDgelu_keep h
  | .adamw .. => execAdamw_keep h
  | .sstart .. => execSstart_keep h
  | .swait .. => execSwait_keep h
  | .streamRequest .. => execStreamRequest_keep h
  | .bread .. => execBread_keep h
  | .bightTimeout .. => execBightTimeout_keep h
  | .bwrite .. => execBwrite_keep h
  | .brel .. => execBrel_keep h
  | .harrive .. => execHarrive_keep h
  | .hwait .. => execHwait_keep h
  | .loop .. => execLoop_keep h
  | .setr .. => execSetr_keep h
  | .hitchArrival .. => execHitchArrival_keep h
  | .hitchRelease .. => execHitchRelease_keep h
  | .verdict .. => execVerdict_keep h
  | .scratchpadWrite .. => execScratchpadWrite_keep h
  | .scratchpadRead .. => execScratchpadRead_keep h
  | .readResponse .. => execReadResponse_keep h
  | .writeAck .. => execWriteAck_keep h
  | .claim .. => execClaim_keep h
  | .fullUpdate .. => execFullUpdate_keep h
  | .abandon .. => execAbandon_keep h
  | .creditReturn .. => execCreditReturn_keep h
  | .memoryRead .. => execMemoryRead_keep h
  | .memoryWrite .. => execMemoryWrite_keep h
  | .spliceFill .. => execSpliceFill_keep h
  | .gatherBufferClose .. => execGatherBufferClose_keep h
  | .spliceFlush .. => execSpliceFlush_keep h
  | .spliceFlushDone .. => execSpliceFlushDone_keep h
  | .wpmClear .. => execWpmClear_keep h
  | .wpmClearDone => execWpmClearDone_keep h
  | .codeTableLoad .. => execCodeTableLoad_keep h
  | .keyLoad .. => execKeyLoad_keep h
  | .regionEnable .. => execRegionEnable_keep h
  | .bar4Read .. => execBar4Read_keep h
  | .bar4Write .. => execBar4Write_keep h
  | .pcieCompletion .. => execPcieCompletion_keep h
  | .portEnable .. => execPortEnable_keep h
  | .portRetrain .. => execPortRetrain_keep h
  | .linkTrained .. => execLinkTrained_keep h
  | .hello .. => execHello_keep h
  | .change .. => execChange_keep h
  | .epochIssue => execEpochIssue_keep h
  | .epoch .. => execEpoch_keep h
  | .linkNak .. => execLinkNak_keep h
  | .linkDown .. => execLinkDown_keep h
  | .frameForward .. => execFrameForward_keep h
  | .rdReq .. => execRdReq_keep h
  | .wr .. => execWr_keep h
  | .slot .. => execSlot_keep h
  | .credit .. => execCredit_keep h
  | .rdRsp .. => execRdRsp_keep h
  | .wrAck .. => execWrAck_keep h
  | .replyTimeout .. => execReplyTimeout_keep h
  | .recentreEnd .. => execRecentreEnd_keep h
  | .linkAck .. => execLinkAck_keep h
  | .frameDiscard .. => execFrameDiscard_keep h
  | .frameInject .. => execFrameInject_keep h
  | .hostInterfaceRequest .. => execHostInterfaceRequest_keep h
  | .powerGood .. | .powerLoss | .perstAssert .. | .hotReset .. | .glbResetWarm .. | .functionLevelReset .. | .holdChange ..
  | .discrepancyFault .. | .discFaultClear .. => nomatch hc

/-- What a change of `OUTPUT_HOLD` brings keeps what `Keep` names, whatever the state was that it is compared with. -/
theorem State.holdEdge_keep_of_any {a s : State} (old : State) (h : Keep a s) : Keep a (s.holdEdge old) := by
  have h3 : Keep a (s.syncFaultN.irq 3) := State.irq_keep (State.syncFaultN_keep h)
  unfold State.holdEdge
  refine keep_ite (fun _ => State.syncFaultN_keep h) fun _ => keep_ite (fun _ => h3) fun _ => ?_
  exact State.settleTurns_keep (keep_foldl h3 fun b _ => State.flushPba_keep (Keep.refl b))

/-- The effect of `n` samples, beyond that on the hold logic itself, keeps what `Keep` names. -/
theorem State.holdSample_keep (s : State) (a b : Bool) (n : Nat) : Keep { s with hold := s.hold.sample a b n } (s.holdSample a b n) := by
  have h := Keep.refl { s with hold := s.hold.sample a b n }
  unfold State.holdSample
  exact keep_ite (fun _ => keep_ite (fun _ => State.holdEdge_keep_of_any s (State.logEv_keep h)) fun _ => h)
    fun _ => keep_ite (fun _ => h) fun _ => State.holdEdge_keep_of_any s (State.logEv_keep h)

/-- Settles O57: a command that is no reset and no sample keeps HALTED by `exec_keep`; in HALTED the rise of PWR_GOOD does nothing, the
samples and the clear of the hold logic change no device state, and a Function Level Reset of a VF resets only that VF. -/
theorem onlyAResetLeavesHalted : Obligations.OnlyAResetLeavesHalted := by
  intro c s t h hs hloss hperst hhot hwarm hflr
  cases hc : resetsOrSamples c with
  | false => exact (exec_keep hc h).halted hs
  | true =>
    cases c with
    | powerLoss => exact absurd rfl hloss
    | perstAssert env => exact absurd rfl (hperst env)
    | hotReset env => exact absurd rfl (hhot env)
    | glbResetWarm fn v env => exact absurd rfl (hwarm fn v env)
    | powerGood env =>
      obtain rfl : s = t := by simpa [exec, execPowerGood, hs] using h
      exact hs
    | functionLevelReset fn env =>
      have hfn : fn ≠ 0 := by rintro rfl; exact hflr env rfl
      refine (keep_next ?_ h).halted hs
      refine keep_ite (fun _ => Keep.refl s) fun _ => ?_
      rw [if_neg hfn]
      exact keep_ite (fun _ => Keep.refl s) fun _ => State.flr_keep (Keep.refl s)
    | holdChange a b =>
      cases h
      split
      · exact hs
      · exact (State.holdSample_keep s a b _).halted hs
    | discrepancyFault a b n =>
      cases h
      split
      · exact hs
      · exact (State.holdSample_keep s a b _).halted hs
    | discFaultClear fn v =>
      cases h
      split
      · exact hs
      · exact (State.holdEdge_keep_of_any s (Keep.refl _)).halted hs
    | _ => exact nomatch hc

end Sys2Proof.Machine

/-! # The idle step, and the state right after cold reset -/

namespace Sys2Proof.Machine

/-- A hand-over of firmware, whether it takes place or waits on, changes the service controller at most, and leaves its command busy
(R426). -/
theorem State.handOver_svc (s : State) : s.handOver = { s with svc := s.handOver.svc } ∧ s.handOver.svc.fwBusy = s.svc.fwBusy := by
  unfold State.handOver
  split
  · exact ⟨rfl, rfl⟩
  · split <;> exact ⟨rfl, rfl⟩

/-- With no hand-over that waits there is nothing to do. -/
theorem State.handOver_of_none {s : State} (h : s.svc.fwWait = none) : s.handOver = s := by
  unfold State.handOver
  rw [h]

/-- An empty queue makes the step a tick. -/
theorem step_of_empty {s : State} (h : s.pending = []) : step s = .next s.tick := by
  unfold step
  rw [h]

/-- One more tick on the timebase. -/
def State.ticked (s : State) : State := { s with glb := { s.glb with time := s.glb.time + 1 } }

theorem State.tick_of_off {s : State} (h : s.glb.st = .off) : s.tick = s := if_pos h

theorem State.tick_of_on {s : State} (h : s.glb.st ≠ .off) : s.tick = s.ticked.handOver := if_neg h

/-- Settles O2: the step is `State.tick`, and a hand-over changes the service controller only. -/
theorem idleStepTicksTimebase : Obligations.IdleStepTicksTimebase := by
  intro s hs
  rw [step_of_empty hs]
  refine ⟨fun hoff => by rw [State.tick_of_off hoff], fun hon => ⟨s.tick, rfl, ?_⟩⟩
  rw [State.tick_of_on hon]
  obtain ⟨hframe, hbusy⟩ := s.ticked.handOver_svc
  exact ⟨hframe, fun hnone => by rw [State.handOver_of_none (s := s.ticked) hnone]; rfl, hbusy⟩

/-! ## Cold reset: tables that list nothing, and what their entries read -/

@[simp] theorem reset_pd (d : Nat) : State.reset.pd d = 0 := rfl
@[simp] theorem reset_task (u : Nat) : State.reset.task u = none := rfl
@[simp] theorem reset_queue (q : Nat) : State.reset.queue q = {} := rfl
@[simp] theorem reset_hitch (h : Nat) : State.reset.hitch h = {} := rfl
@[simp] theorem reset_chan (c : Nat) : State.reset.chan c = {} := rfl
@[simp] theorem reset_port (p : Nat) : State.reset.port p = {} := rfl
@[simp] theorem reset_tile (p : Nat) : State.reset.tile p = {} := rfl
@[simp] theorem reset_strand (p k : Nat) : State.reset.strand p k = {} := rfl
@[simp] theorem reset_mapEnt (n : Nat) : State.reset.mapEnt n = MapEnt.resetOf n := rfl
@[simp] theorem reset_physOf (n : Nat) : State.reset.physOf n = n := rfl

/-- The state right after cold reset is sound: FAULT_N is high, and no sample has been taken. -/
theorem reset_sound : State.reset.sound = true := rfl

/-- Its memories list nothing. -/
theorem reset_memOk : State.reset.memOk = true := rfl

/-- Settles O3: the blocks of `State.reset` hold the Reset values of their registers, and its tables list nothing, so that every entry of
them is its resource's reset value. -/
theorem resetValuesOfTheTables : Obligations.ResetValuesOfTheTables := by
  refine ⟨⟨rfl, rfl, rfl, rfl, rfl, rfl, rfl, rfl, rfl, rfl, rfl, rfl, rfl, rfl, rfl, rfl, rfl, rfl, rfl, rfl, rfl, rfl, rfl, rfl, rfl, rfl,
    reset_pd, reset_task, ?queues, ?hitches, ?channels, ?ports, ?tiles, ?strands, ?tileMap⟩, reset_sound, reset_memOk, rfl⟩
  case tileMap => exact fun n => ⟨reset_physOf n, by rw [reset_mapEnt, MapEnt.resetOf]⟩
  all_goals simp

end Sys2Proof.Machine

/-! # Registers of BAR0: reads and writes

The registers of `rwRegisters` as one list of words, `rwFields`: what a read of them gives, and what a write of one of them leaves of the
others. -/

namespace Sys2Proof.Machine

/-! ## Where an offset of the PF's BAR0 leads -/

/-- Offset `o` of tile `p`'s block lies in no block before the tiles', and names that tile and that offset. -/
theorem tileOffset {p o a : Nat} (hp : p < 68) (ho : o < 0x10000) (ha : a = 0x100000 + o + p * 0x10000) :
    ¬ a < 0x1000 ∧ ¬ (0x10000 ≤ a ∧ a < 0x20000) ∧ (0x100000 ≤ a ∧ a < 0x540000) ∧ a / 0x10000 - 0x10 = p ∧ a % 0x10000 = o := by
  omega

theorem csr_tile {s : State} {p o a : Nat} (hp : p < 68) (ho : o < 0x10000) (ha : a = 0x100000 + o + p * 0x10000) :
    s.csr 0 a = if s.blockUp a then s.rdTile p o else 0 := by
  obtain ⟨hglb, hsvc, htile, hnum, hoff⟩ := tileOffset hp ho ha
  simp only [State.csr, State.pfReg, if_true, if_neg hglb, if_neg hsvc, if_pos htile, hnum, hoff]
  cases s.blockUp a <;> rfl

theorem csrWord_tile {s : State} {p o a : Nat} {v : Word} (hp : p < 68) (ho : o < 0x10000) (ha : a = 0x100000 + o + p * 0x10000)
    (h : s.blockUp a = true) : s.csrWord 0 a v = s.modTile p fun t => t.wr o v := by
  obtain ⟨hglb, hsvc, htile, hnum, hoff⟩ := tileOffset hp ho ha
  simp only [State.csrWord, h, if_neg hglb, if_neg hsvc, if_pos htile, hnum, hoff]
  rfl

/-- A tile's block is available as a whole (R416). -/
theorem blockUp_tile {s : State} {p o a : Nat} (hp : p < 68) (ho : o < 0x10000) (ha : a = 0x100000 + o + p * 0x10000) :
    s.blockUp a = s.blockUp 0x100000 := by
  have h1 : blockStep a = 7 := by
    unfold blockStep
    rw [if_neg (by omega), if_neg (by omega), if_neg (by omega), if_neg (by omega)]
  have h2 : decide (0x800000 ≤ a) = false := decide_eq_false (by omega)
  have h3 : blockStep 0x100000 = 7 := rfl
  have h4 : decide (0x800000 ≤ 0x100000) = false := rfl
  simp only [State.blockUp, h1, h2, h3, h4, Bool.and_false, Bool.false_and]

@[simp] theorem State.modTile_tile_same (s : State) (p : Nat) (f : Tile → Tile) : (s.modTile p f).tile p = f (s.tile p) := by
  simp [State.tile]

theorem State.modTile_tile_other (s : State) {p q : Nat} (f : Tile → Tile) (h : q ≠ p) : (s.modTile p f).tile q = s.tile q := by
  simp [State.tile, Tab.get_put_other _ _ _ _ _ h]

/-! ## The RW registers -/

/-- What the registers of `rwRegisters` hold, in their order. -/
def rwFields (s : State) (p : Nat) : List Word :=
  let t := s.tile p
  [ s.hold.discMs.setWidth 32, s.svc.rigLen, s.svc.drainLimit.setWidth 32, t.injectCyc, t.setLimit.setWidth 32,
    t.pstoreAddr.setWidth 32, t.bightLimit.setWidth 32, t.bightSel.setWidth 32, t.spareSel.setWidth 32,
    t.scrubCtl, s.grm.aperLo, s.grm.aperHi, s.grm.timeout.setWidth 32, s.exp.clrBase.setWidth 32,
    s.exp.clrSize.setWidth 32, s.elog.mirLo, s.elog.mirHi ]

/-- A register reads what it holds where its block is available, and zero elsewhere. -/
theorem csr_rwRegisters (s : State) {p : Nat} (hp : p < 68) :
    (rwRegisters p).map (fun e => s.csr 0 e.1) =
      List.zipWith (fun e w => if s.blockUp e.1 then w else 0) (rwRegisters p) (rwFields s p) := by
  simp only [rwRegisters, rwFields, List.map, List.zipWith]
  rw [csr_tile (o := 0x214) hp (by decide) rfl, csr_tile (o := 0x210) hp (by decide) rfl, csr_tile (o := 0x300) hp (by decide) rfl,
    csr_tile (o := 0x400) hp (by decide) rfl, csr_tile (o := 0x408) hp (by decide) rfl, csr_tile (o := 0x518) hp (by decide) rfl,
    csr_tile (o := 0x540) hp (by decide) rfl]
  simp [State.csr, State.pfReg, ← Bool.not_eq_true, State.rdGlb, State.rdSvc, State.rdTile, State.rdPort, State.rdExp, State.rdLog,
    Tab.get]

/-- `t` differs from `s` by `w` in the `i`-th register of `rwRegisters p`, and in nothing else that the statement about those registers
speaks of. -/
structure RwWritten (p i : Nat) (w : Word) (s t : State) : Prop where
  fields : rwFields t p = (rwFields s p).set i w
  glb : t.glb = s.glb
  tiles : ∀ q, q ≠ p → t.tile q = s.tile q
  sched : t.sched = s.sched
  chans : t.chans = s.chans
  bytes : ∀ a, (t.tile p).byte a = (s.tile p).byte a

/-- No register write of a tile's block reaches its scratchpad. -/
theorem Tile.wr_byte (t : Tile) (o : Nat) (v : Word) (a : Nat) : (t.wr o v).byte a = t.byte a := by
  unfold Tile.wr
  repeat' refine iteInduction (motive := fun u : Tile => u.byte a = t.byte a) (fun _ => ?_) fun _ => ?_
  all_goals rfl

/-- A write to a register of the tile itself: it is enough that the fields come out right. -/
theorem rwWritten_tile {s : State} {p i o a : Nat} {v w : Word} (hp : p < 68) (hup : s.blockUp a = true) (ho : o < 0x10000)
    (ha : a = 0x100000 + o + p * 0x10000) (hfields : rwFields (s.modTile p fun t => t.wr o v) p = (rwFields s p).set i w) :
    RwWritten p i w s (s.csrWord 0 a v) := by
  rw [csrWord_tile hp ho ha hup]
  exact ⟨hfields, rfl, fun q hq => State.modTile_tile_other s _ hq, rfl, rfl, fun b => by rw [State.modTile_tile_same, Tile.wr_byte]⟩

/-- A write outside the tiles, whose result is `u`. -/
theorem rwWritten_of_eq {s t u : State} {p i : Nat} {w : Word} (h : t = u) (hglb : u.glb = s.glb) (htiles : u.tiles = s.tiles)
    (hsched : u.sched = s.sched) (hchans : u.chans = s.chans) (hfields : rwFields u p = (rwFields s p).set i w) :
    RwWritten p i w s t := by
  subst h
  have htile : ∀ q, t.tile q = s.tile q := fun q => by rw [State.tile, htiles, State.tile]
  exact ⟨hfields, hglb, fun q _ => htile q, hsched, hchans, fun a => by rw [htile]⟩

theorem setWidth_setWidth_eq_and {n : Nat} (hn : n ≤ 32) (x : Word) : (x.setWidth n).setWidth 32 = x &&& BitVec.ofNat 32 (2 ^ n - 1) := by
  have h : 2 ^ n ≤ 2 ^ 32 := Nat.pow_le_pow_right (by decide) hn
  apply BitVec.eq_of_toNat_eq
  rw [BitVec.toNat_setWidth, BitVec.toNat_setWidth, BitVec.toNat_and, BitVec.toNat_ofNat, Nat.mod_eq_of_lt (a := 2 ^ n - 1) (by omega),
    Nat.and_two_pow_sub_one_eq_mod]
  exact Nat.mod_eq_of_lt (Nat.lt_of_lt_of_le (Nat.mod_lt _ (Nat.two_pow_pos n)) h)

theorem and_ones (x : Word) : x &&& 0xFFFFFFFF#32 = x := BitVec.and_allOnes

/-- A write to a register of `rwRegisters` sets the bits it has, in its own field; one case for each place of that list, whose registers 3 to 9
are the tile's. -/
theorem csrWord_rwRegister {s : State} {p : Nat} (hp : p < 68) (v : Word) (i : Nat) (e : Nat × Word)
    (he : (rwRegisters p)[i]? = some e) (hup : s.blockUp e.1 = true) : RwWritten p i (v &&& e.2) s (s.csrWord 0 e.1 v) :=
  match i, e, he, hup with
  | 0, _, rfl, hup => rwWritten_of_eq (u := { s with hold := { s.hold with discMs := v.setWidth 8 } })
      (by simp [State.csrWord, hup, State.wrGlb]) rfl rfl rfl rfl (by simp [rwFields, State.tile, setWidth_setWidth_eq_and])
  | 1, _, rfl, hup => rwWritten_of_eq (u := { s with svc := { s.svc with rigLen := v } })
      (by simp [State.csrWord, hup, State.wrSvc]) rfl rfl rfl rfl (by simp [rwFields, State.tile, and_ones])
  | 2, _, rfl, hup => rwWritten_of_eq (u := { s with svc := { s.svc with drainLimit := v.setWidth 16 } })
      (by simp [State.csrWord, hup, State.wrSvc]) rfl rfl rfl rfl (by simp [rwFields, State.tile, setWidth_setWidth_eq_and])
  | 3, _, rfl, hup => rwWritten_tile hp hup (o := 0x214) (by decide) rfl (by simp [rwFields, Tile.wr, and_ones])
  | 4, _, rfl, hup => rwWritten_tile hp hup (o := 0x210) (by decide) rfl (by simp [rwFields, Tile.wr, setWidth_setWidth_eq_and])
  | 5, _, rfl, hup => rwWritten_tile hp hup (o := 0x300) (by decide) rfl (by simp [rwFields, Tile.wr, setWidth_setWidth_eq_and])
  | 6, _, rfl, hup => rwWritten_tile hp hup (o := 0x400) (by decide) rfl (by simp [rwFields, Tile.wr, setWidth_setWidth_eq_and])
  | 7, _, rfl, hup => rwWritten_tile hp hup (o := 0x408) (by decide) rfl (by simp [rwFields, Tile.wr, setWidth_setWidth_eq_and])
  | 8, _, rfl, hup => rwWritten_tile hp hup (o := 0x518) (by decide) rfl (by simp [rwFields, Tile.wr, setWidth_setWidth_eq_and])
  | 9, _, rfl, hup => rwWritten_tile hp hup (o := 0x540) (by decide) rfl (by simp [rwFields, Tile.wr])
  | 10, _, rfl, hup => rwWritten_of_eq (u := { s with grm := { s.grm with aperLo := v &&& 0xFFFFF001 } })
      (by simp [State.csrWord, hup, State.wrNode]) rfl rfl rfl rfl (by simp [rwFields, State.tile])
  | 11, _, rfl, hup => rwWritten_of_eq (u := { s with grm := { s.grm with aperHi := v &&& 0x3FFF } })
      (by simp [State.csrWord, hup, State.wrNode]) rfl rfl rfl rfl (by simp [rwFields, State.tile])
  | 12, _, rfl, hup => rwWritten_of_eq (u := { s with grm := { s.grm with timeout := v.setWidth 16 } })
      (by simp [State.csrWord, hup, State.wrNode]) rfl rfl rfl rfl (by simp [rwFields, State.tile, setWidth_setWidth_eq_and])
  | 13, _, rfl, hup => rwWritten_of_eq (u := { s with exp := { s.exp with clrBase := v.setWidth 24 } })
      (by simp [State.csrWord, hup, State.wrExp]) rfl rfl rfl rfl (by simp [rwFields, State.tile, setWidth_setWidth_eq_and])
  | 14, _, rfl, hup => rwWritten_of_eq (u := { s with exp := { s.exp with clrSize := v.setWidth 24 } })
      (by simp [State.csrWord, hup, State.wrExp]) rfl rfl rfl rfl (by simp [rwFields, State.tile, setWidth_setWidth_eq_and])
  | 15, _, rfl, hup => rwWritten_of_eq (u := { s with elog := { s.elog with mirLo := v &&& 0xFFFF8001 } })
      (by simp [State.csrWord, hup, State.wrLog]) rfl rfl rfl rfl (by simp [rwFields, State.tile])
  | 16, _, rfl, hup => rwWritten_of_eq (u := { s with elog := { s.elog with mirHi := v &&& 0xFF } })
      (by simp [State.csrWord, hup, State.wrLog]) rfl rfl rfl rfl (by simp [rwFields, State.tile])

/-- A read of one register of `rwRegisters`. -/
theorem csr_rwRegister (s : State) {p i : Nat} (hp : p < 68) {e : Nat × Word} (he : (rwRegisters p)[i]? = some e) :
    s.csr 0 e.1 = if s.blockUp e.1 then ((rwFields s p)[i]?).getD 0 else 0 := by
  have hi : i < 17 := (List.getElem?_eq_some_iff.1 he).1
  have hf : i < (rwFields s p).length := hi
  have h := congrArg (fun l : List Word => l[i]?) (csr_rwRegisters s hp)
  simpa [he, List.getElem?_zipWith, List.getElem?_eq_getElem hf] using h

theorem State.blockUp_congr {s t : State} (h : t.glb = s.glb) (o : Nat) : t.blockUp o = s.blockUp o := by
  rw [State.blockUp, h, State.blockUp]

theorem RwWritten.csr_same {s t : State} {p i : Nat} {w : Word} (h : RwWritten p i w s t) (hp : p < 68) {e : Nat × Word}
    (he : (rwRegisters p)[i]? = some e) (hup : s.blockUp e.1 = true) : t.csr 0 e.1 = w := by
  have hi : i < (rwFields s p).length := (List.getElem?_eq_some_iff.1 he).1
  simp [csr_rwRegister t hp he, State.blockUp_congr h.glb, hup, h.fields, hi]

theorem RwWritten.csr_other {s t : State} {p i j : Nat} {w : Word} (h : RwWritten p i w s t) (hp : p < 68) {g : Nat × Word}
    (hg : (rwRegisters p)[j]? = some g) (hij : i ≠ j) : t.csr 0 g.1 = s.csr 0 g.1 := by
  rw [csr_rwRegister t hp hg, csr_rwRegister s hp hg, State.blockUp_congr h.glb, h.fields, List.getElem?_set_ne hij]

/-- A 4-byte write to an aligned offset of the PF's BAR0. -/
theorem exec_csrWrite_word {s : State} {o : Nat} (hopen : s.barOpen 0 = true) (ho : o % 4 = 0) (v : BitVec 64) :
    exec (.csrWrite 0 o 4 v) s = .next (s.csrWord 0 o (v.setWidth 32)) := by
  simp [exec, execCsrWrite, hopen, goodAccess, ho]

theorem rwRegisters_aligned {p : Nat} : ∀ e ∈ rwRegisters p, e.1 % 4 = 0 := by
  simp only [rwRegisters, List.forall_mem_cons, List.not_mem_nil, false_implies, implies_true, true_and, and_true]
  omega

end Sys2Proof.Machine

/-! # Reads of BAR0: the latch of 64-bit registers, the program store and the log -/

namespace Sys2Proof.Machine

/-! ## Tables of optional entries -/

theorem get_map_some_put_same {α : Type} (t : Tab α) (k : Nat) (v : α) :
    Tab.get none ((Tab.put t k v).map fun e => (e.1, some e.2)) k = some v := by
  induction t with
  | nil => simp [Tab.put, Tab.get]
  | cons e t ih =>
    obtain ⟨j, w⟩ := e
    grind [Tab.put, Tab.get]

theorem get_map_some_put_other {α : Type} (t : Tab α) {k n : Nat} (v : α) (h : n ≠ k) :
    Tab.get none ((Tab.put t k v).map fun e => (e.1, some e.2)) n = Tab.get none (t.map fun e => (e.1, some e.2)) n := by
  induction t with
  | nil => grind [Tab.put, Tab.get]
  | cons e t ih =>
    obtain ⟨j, w⟩ := e
    grind [Tab.put, Tab.get]

/-! ## One word -/

theorem barOpen_on {s : State} {fn : Nat} (h : s.barOpen fn = true) : s.glb.st ≠ .off := by
  rintro hoff
  simp [State.barOpen, hoff] at h

/-- The low words of the PF's 64-bit registers. -/
theorem latches_pf_iff (o : Nat) : latches 0 o = true ↔
    o = 0x10 ∨ o = 0x10420 ∨
    (0x100000 ≤ o ∧ o < 0x540000 ∧ (o % 0x10000 = 0x388 ∨ o % 0x10000 = 0x510 ∨ o % 0x10000 = 0x548)) ∨
    (0x700000 ≤ o ∧ o < 0x740000 ∧ (o % 0x10000 = 0xF014 ∨ o % 0x10000 = 0xF020)) ∨
    o = 0x740020 ∨ o = 0x740048 ∨ o = 0x740084 ∨ (0x742000 ≤ o ∧ o < 0x742200 ∧ o % 8 = 0) ∨
    o = 0x800004 ∨ o = 0x80000C ∨ o = 0x900010 ∨ (0x901000 ≤ o ∧ o < 0x909000 ∧ o % 16 = 0) := by
  unfold latches
  repeat' split
  all_goals grind

/-- The word before the low word of a 64-bit register is no low word. -/
theorem latches_before {o : Nat} (h : latches 0 o = true) (h4 : o % 4 = 0) : ¬ (4 ≤ o ∧ latches 0 (o - 4) = true) := by
  rw [latches_pf_iff] at *
  rintro ⟨h4o, hb⟩
  rcases h with h | h | h | h | h | h | h | h | h | h | h | h <;> omega

theorem readWord_plain {s : State} {o : Nat} (ho : latches 0 o = false) (hb : o < 4 ∨ latches 0 (o - 4) = false)
    (hps : ¬ (0x100000 ≤ o ∧ o < 0x540000 ∧ o % 0x10000 = 0x304)) : s.readWord 0 o = (s.csr 0 o, s) := by
  have hnb : ¬ (4 ≤ o ∧ latches 0 (o - 4) = true) := by
    rintro ⟨h4, h⟩
    rcases hb with hb | hb
    · omega
    · simp [hb] at h
  unfold State.readWord
  dsimp only
  rw [if_neg hnb, if_neg (by simp [ho]), if_neg]
  rintro ⟨-, hlo, hhi, hmod, -⟩
  exact hps ⟨hlo, hhi, hmod⟩

/-- The word that the latch of key `k` of a function holds (R13). -/
def Func.latched (f : Func) (k : Nat) : Option Word := Tab.get none (f.latch.map fun e => (e.1, some e.2)) k

/-- What a read of the low word at offset `o` leaves: the high word in the PF's latch (R13). -/
def State.latchHigh (s : State) (o : Nat) : State :=
  s.modFunc 0 fun f => { f with latch := Tab.put f.latch (s.latchOf 0 o) (s.csr 0 (o + 4)) }

@[simp] theorem State.modFunc_func_same (s : State) (n : Nat) (f : Func → Func) : (s.modFunc n f).func n = f (s.func n) := by
  simp [State.func]

theorem State.latchHigh_latched (s : State) (o : Nat) : ((s.latchHigh o).func 0).latched (s.latchOf 0 o) = some (s.csr 0 (o + 4)) := by
  rw [State.latchHigh, State.modFunc_func_same]
  exact get_map_some_put_same ..

theorem readWord_low {s : State} {o : Nat} (ho : latches 0 o = true) (h4 : o % 4 = 0) :
    s.readWord 0 o = (s.csr 0 o, s.latchHigh o) := by
  unfold State.readWord
  rw [if_neg (latches_before ho h4), if_pos ho, State.latchHigh]

theorem readWord_high {s : State} {o : Nat} (ho : latches 0 o = true) :
    s.readWord 0 (o + 4) = (((s.func 0).latched (s.latchOf 0 o)).getD (s.csr 0 (o + 4)), s) := by
  unfold State.readWord Func.latched
  rw [if_pos ⟨by omega, by simpa using ho⟩]
  simp only [Nat.add_sub_cancel]

/-- What a read of `TILE_PSTORE_DATA` leaves: the address on the next word (R176). -/
def State.nextPstoreWord (s : State) (p : Nat) : State := s.modTile p fun t => { t with pstoreAddr := t.pstoreAddr + 1 }

theorem State.nextPstoreWord_tile_same (s : State) (p : Nat) :
    (s.nextPstoreWord p).tile p = { s.tile p with pstoreAddr := (s.tile p).pstoreAddr + 1 } := State.modTile_tile_same ..

theorem State.nextPstoreWord_tile_other (s : State) {p q : Nat} (h : q ≠ p) : (s.nextPstoreWord p).tile q = s.tile q :=
  State.modTile_tile_other s _ h

theorem readWord_pstore {s : State} {p : Nat} (hp : p < 68) (hup : s.blockUp 0x100000 = true) :
    s.readWord 0 (0x100304 + p * 0x10000) =
      (s.csr 0 (0x100304 + p * 0x10000), s.nextPstoreWord p) := by
  have hlow : ¬ latches 0 (0x100304 + p * 0x10000) = true := by rw [latches_pf_iff]; grind
  have hhigh : ¬ (4 ≤ 0x100304 + p * 0x10000 ∧ latches 0 (0x100304 + p * 0x10000 - 4) = true) := by rw [latches_pf_iff]; grind
  have hup' : s.blockUp (0x100304 + p * 0x10000) = true := by rw [blockUp_tile (o := 0x304) hp (by decide) rfl, hup]
  unfold State.readWord
  rw [if_neg hhigh]
  dsimp only
  rw [if_neg hlow, if_pos ⟨rfl, by omega, by omega, by omega, hup'⟩, show (0x100304 + p * 0x10000) / 0x10000 - 0x10 = p by omega,
    State.nextPstoreWord]

/-- An aligned 4-byte read: the completion carries the word. -/
theorem csrRead_word {s : State} {o : Nat} (hopen : s.barOpen 0 = true) (ho : o % 4 = 0) :
    s.csrRead 0 o 4 = (s.readWord 0 o).2.emit (.completion 0 (leBytes 4 (s.readWord 0 o).1.toNat)) := by
  simp [State.csrRead, barOpen_on hopen, hopen, goodAccess, ho]

theorem exec_lowWordRead_ok (s : State) (fn o size : Nat) : exec (.lowWordRead fn o ⟨size, true⟩) s = .next (s.csrRead fn o size) := by
  simp [exec, execLowWordRead]

/-- A read of a low word holds the high word in the function's latch. -/
theorem exec_lowWordRead_low {s : State} {o : Nat} (hopen : s.barOpen 0 = true) (ho : latches 0 o = true) (h4 : o % 4 = 0) :
    exec (.lowWordRead 0 o ⟨4, true⟩) s =
      .next ((s.latchHigh o).emit (.completion 0 (leBytes 4 (s.csr 0 o).toNat))) := by
  rw [exec_lowWordRead_ok, csrRead_word hopen h4, readWord_low ho h4]

/-- The read of the high word returns what the latch holds. -/
theorem exec_lowWordRead_high {u : State} {o : Nat} {w : Word} (hopen : u.barOpen 0 = true) (ho : latches 0 o = true) (h4 : o % 4 = 0)
    (hl : (u.func 0).latched (u.latchOf 0 o) = some w) :
    exec (.lowWordRead 0 (o + 4) ⟨4, true⟩) u = .next (u.emit (.completion 0 (leBytes 4 w.toNat))) := by
  rw [exec_lowWordRead_ok, csrRead_word hopen (by omega), readWord_high ho, hl]
  rfl

/-- Four bytes carry a number modulo 2^32 (R12). -/
theorem leBytes_four_mod (n : Nat) : leBytes 4 (n % 2 ^ 32) = leBytes 4 n := by
  simp only [leBytes, List.cons.injEq, and_true]
  refine ⟨?_, ?_, ?_, ?_⟩ <;> apply BitVec.eq_of_toNat_eq <;> simp only [BitVec.toNat_ofNat] <;> omega

/-- The read of the program store: the word at its address, which goes on by one. -/
theorem exec_pstoreDataRead {s : State} {p : Nat} (hp : p < 68) (hopen : s.barOpen 0 = true) (hup : s.blockUp 0x100000 = true) :
    exec (.pstoreDataRead 0 p) s = .next ((s.nextPstoreWord p).emit
      (.completion 0 (leBytes 4 (leNat ((s.tile p).psRead (4 * (s.tile p).pstoreAddr.toNat) 4))))) := by
  have hcsr : s.csr 0 (0x100304 + p * 0x10000) = lo32 (leNat ((s.tile p).psRead (4 * (s.tile p).pstoreAddr.toNat) 4)) := by
    rw [csr_tile (o := 0x304) hp (by decide) rfl, blockUp_tile (o := 0x304) hp (by decide) rfl, if_pos hup]
    rfl
  have hexec : exec (.pstoreDataRead 0 p) s = .next (s.csrRead 0 (0x100304 + p * 0x10000) 4) := by
    simp only [exec, execPstoreDataRead, if_neg (Nat.not_le.2 hp)]
  rw [hexec, csrRead_word hopen (by omega), readWord_pstore hp hup, hcsr, lo32, BitVec.toNat_ofNat, leBytes_four_mod]

end Sys2Proof.Machine

/-! # Entries of the log that fail, aborted accesses, and unmasked interrupts -/

namespace Sys2Proof.Machine

/-! ## A log entry without two equal copies -/

/-- The log after its entry `i` has become `y`. -/
def ErrLog.putEntry (g : ErrLog) (i : Nat) (y : LogStored) : ErrLog :=
  { g with first := if i < 896 then g.first.set i y else g.first, ring := if i < 896 then g.ring else Tab.put g.ring (i - 896) y }

theorem ErrLog.entry_putEntry_same {g : ErrLog} {i : Nat} {x : LogStored} (h : g.entry i = some x) (y : LogStored) :
    (g.putEntry i y).entry i = some y := by
  unfold ErrLog.entry at *
  by_cases hi : i < 896
  · rw [if_pos hi] at *
    have hlen : i < g.first.length := (List.getElem?_eq_some_iff.1 h).1
    simp [ErrLog.putEntry, hi, hlen]
  · simp only [ErrLog.putEntry, if_neg hi]
    exact get_map_some_put_same g.ring (i - 896) y

theorem ErrLog.entry_putEntry_other {g : ErrLog} {i j : Nat} (h : j ≠ i) (y : LogStored) : (g.putEntry i y).entry j = g.entry j := by
  unfold ErrLog.entry
  by_cases hi : i < 896 <;> by_cases hj : j < 896 <;> simp only [ErrLog.putEntry, hi, hj, if_true, if_false]
  · exact List.getElem?_set_ne h.symm
  · exact get_map_some_put_other g.ring y (by omega)

theorem getLsbD_ofNat_two_pow_self {n i : Nat} (hi : i < n) : (BitVec.ofNat n (2 ^ i)).getLsbD i = true := by
  rw [BitVec.getLsbD_ofNat, Nat.testBit_two_pow_self, decide_eq_true hi]
  rfl

/-- A message, sent or held, leaves the global block and the log alone. -/
theorem State.msix_glb_elog (s : State) (f e : Nat) (held : Bool) : (s.msix f e held).glb = s.glb ∧ (s.msix f e held).elog = s.elog := by
  unfold State.msix
  dsimp only
  split <;> exact ⟨rfl, rfl⟩

/-- Interrupt `i` stands after it has been raised. -/
theorem State.irq_raised (s : State) {i : Nat} (hi : i < 4) : (s.irq i).glb.irq.getLsbD i = true := by
  unfold State.irq
  split
  · assumption
  · have h : (s.glb.irq ||| BitVec.ofNat 4 (2 ^ i)).getLsbD i = true := by
      rw [BitVec.getLsbD_or, getLsbD_ofNat_two_pow_self hi, Bool.or_true]
    dsimp only
    split
    · exact h
    · rw [(State.msix_glb_elog ..).1]
      exact h

theorem State.irq_elog (s : State) (i : Nat) : (s.irq i).elog = s.elog := by
  unfold State.irq
  split
  · rfl
  · dsimp only
    split
    · rfl
    · exact (State.msix_glb_elog ..).2

theorem State.failEntry_of_some {s : State} {i : Nat} {x : LogStored} (h : s.elog.entry i = some x) (hx : x.lost = false) :
    s.failEntry i = ({ s with elog := { s.elog.putEntry i { x with lost := true } with
      loss := true, lostCount := satAdd s.elog.lostCount 0 32 1 } } : State).irq 0 := by
  unfold State.failEntry
  simp only [h, hx]
  rfl

/-- A read of a word leaves the log and the global block alone. -/
theorem State.readWord_elog_glb (s : State) (fn o : Nat) : (s.readWord fn o).2.elog = s.elog ∧ (s.readWord fn o).2.glb = s.glb := by
  unfold State.readWord
  dsimp only
  repeat' split
  all_goals exact ⟨rfl, rfl⟩

/-- A read of a register leaves the log and the global block alone. -/
theorem State.csrRead_elog_glb (s : State) (fn o size : Nat) : (s.csrRead fn o size).elog = s.elog ∧ (s.csrRead fn o size).glb = s.glb := by
  obtain ⟨helog, hglb⟩ := s.readWord_elog_glb fn o
  obtain ⟨helog', hglb'⟩ := (s.readWord fn o).2.readWord_elog_glb fn (o + 4)
  unfold State.csrRead
  split
  · exact ⟨rfl, rfl⟩
  · split
    · exact ⟨rfl, rfl⟩
    · split
      · exact ⟨rfl, rfl⟩
      · dsimp only
        split
        · exact ⟨helog, hglb⟩
        · exact ⟨helog'.trans helog, hglb'.trans hglb⟩

/-- The read of a word of log entry `i` whose copies all differ counts the entry as lost before it reads it (R392). -/
theorem exec_lowWordRead_entry {s : State} {i k : Nat} (hopen : s.barOpen 0 = true) (hi : i < 1024) (hk : k < 8) :
    exec (.lowWordRead 0 (0x901000 + 32 * i + 4 * k) ⟨4, false⟩) s =
      .next ((s.failEntry i).csrRead 0 (0x901000 + 32 * i + 4 * k) 4) := by
  have h4 : (0x901000 + 32 * i + 4 * k) % 4 = 0 := by omega
  have hlo : 0x901000 ≤ 0x901000 + 32 * i + 4 * k := by omega
  have hhi : 0x901000 + 32 * i + 4 * k < 0x909000 := by omega
  have hentry : (0x901000 + 32 * i + 4 * k) % 0x10000 / 32 - 0x80 = i := by omega
  simp only [exec, execLowWordRead, hopen, goodAccess, h4, hlo, hhi, hentry]
  rfl

/-! ## Accesses of another size or alignment -/

/-- A dropped access is logged as a DROP of its source (R389). -/
theorem State.logDrop_queue (s : State) (src : BitVec 16) (a : Nat) :
    ∃ e, (s.logDrop src a).elog.queue = s.elog.queue ++ [e] ∧ e.event = 0x0011 ∧ e.source = src := ⟨_, rfl, rfl, rfl⟩

theorem exec_completerAbort_bad {s : State} {o size : Nat} (hopen : s.barOpen 0 = true) (h : goodAccess o size = false) :
    exec (.completerAbort 0 o size) s = .next ((s.logDrop srcHost o).emit (.abort 0)) := by
  simp [exec, execCompleterAbort, barOpen_on hopen, hopen, h]

theorem exec_csrWrite_bad {s : State} {o size : Nat} (hopen : s.barOpen 0 = true) (h : goodAccess o size = false) (v : BitVec 64) :
    exec (.csrWrite 0 o size v) s = .next (s.logDrop srcHost o) := by
  simp [exec, execCsrWrite, hopen, h]

/-! ## Messages of raised interrupts -/

/-- `t` comes of `s` by messages of the PF that have been sent or wait: Pending Bits may have been set. -/
structure Signalled (s t : State) : Prop where
  frame : t = { s with funcs := t.funcs, out := t.out }
  func : t.func 0 = { s.func 0 with pba := (t.func 0).pba }
  pba : ∀ i, (s.func 0).pba.getLsbD i = true → (t.func 0).pba.getLsbD i = true
  out : ∀ e, e ∈ s.out → e ∈ t.out

theorem Signalled.refl (s : State) : Signalled s s := ⟨rfl, rfl, fun _ => id, fun _ => id⟩

theorem Signalled.trans {a b c : State} (h : Signalled a b) (k : Signalled b c) : Signalled a c where
  frame := by rw [k.frame, h.frame]
  func := by rw [k.func, h.func]
  pba i x := k.pba i (h.pba i x)
  out e x := k.out e (h.out e x)

theorem State.msix_signalled (s : State) (i : Nat) (held : Bool) : Signalled s (s.msix 0 i held) := by
  unfold State.msix
  dsimp only
  split
  · refine ⟨rfl, by simp, fun j hj => ?_, fun e he => he⟩
    simp [hj]
  · exact ⟨rfl, rfl, fun _ => id, fun e he => List.mem_cons_of_mem _ he⟩

/-- The step of the fold in `execIrqMaskWrite`: interrupt `i`, if it is raised and now unmasked, signals. -/
def State.signalUnmasked (v : Word) (s : State) (i : Nat) : State :=
  if !v.getLsbD i && s.glb.irq.getLsbD i then s.msix 0 i s.outputHold else s

theorem State.signalUnmasked_signalled (v : Word) (s : State) (i : Nat) : Signalled s (s.signalUnmasked v i) := by
  unfold State.signalUnmasked
  split
  · exact State.msix_signalled ..
  · exact Signalled.refl s

theorem signalUnmasked_foldl_signalled (v : Word) (l : List Nat) (s : State) : Signalled s (l.foldl (State.signalUnmasked v) s) := by
  induction l generalizing s with
  | nil => exact Signalled.refl s
  | cons i l ih => exact (s.signalUnmasked_signalled v i).trans (ih _)

/-- Where the message of entry `i` is once it has been signalled: out, or in its Pending Bit. -/
structure SentOrPending (s t : State) (i : Nat) : Prop where
  sent : (Tab.get {} (s.func 0).msix i).masked = false → (s.func 0).bme = true → s.outputHold = false →
    .msix 0 (Tab.get {} (s.func 0).msix i).addr.toNat (Tab.get {} (s.func 0).msix i).data ∈ t.out
  pending : ((Tab.get {} (s.func 0).msix i).masked = true ∨ (s.func 0).bme = false ∨ s.outputHold = true) →
    (t.func 0).pba.getLsbD i = true

theorem State.msix_sentOrPending {s : State} {i : Nat} (hi : i < 32) (hd3 : (s.func 0).d3 = false) :
    SentOrPending s (s.msix 0 i s.outputHold) i where
  sent hm hb ho := by
    unfold State.msix
    dsimp only
    rw [hm, hb, hd3, ho]
    exact List.mem_cons_self ..
  pending h := by
    have hcond : ((Tab.get {} (s.func 0).msix i).masked || !(s.func 0).bme || (s.func 0).d3 || s.outputHold) = true := by
      rcases h with h | h | h <;> rw [h] <;> simp only [Bool.true_or, Bool.or_true, Bool.not_false]
    unfold State.msix
    dsimp only
    rw [if_pos hcond, State.modFunc_func_same, BitVec.getLsbD_or, getLsbD_ofNat_two_pow_self hi, Bool.or_true]

theorem SentOrPending.of_signalled_right {s t u : State} {i : Nat} (h : SentOrPending s t i) (k : Signalled t u) : SentOrPending s u i :=
  ⟨fun hm hb ho => k.out _ (h.sent hm hb ho), fun hc => k.pba i (h.pending hc)⟩

theorem SentOrPending.of_signalled_left {r s t : State} {i : Nat} (k : Signalled r s) (h : SentOrPending s t i) : SentOrPending r t i := by
  have hhold : s.outputHold = r.outputHold := by rw [k.frame]; rfl
  obtain ⟨hsent, hpending⟩ := h
  rw [k.func, hhold] at hsent hpending
  exact ⟨hsent, hpending⟩

/-- The fold signals every interrupt of its list that is raised and unmasked. -/
theorem signalUnmasked_foldl_sentOrPending {v : Word} {l : List Nat} {s : State} {i : Nat} (hl : i ∈ l) (hi : i < 32)
    (hd3 : (s.func 0).d3 = false) (hv : v.getLsbD i = false) (hirq : s.glb.irq.getLsbD i = true) :
    SentOrPending s (l.foldl (State.signalUnmasked v) s) i := by
  induction l generalizing s with
  | nil => cases hl
  | cons j l ih =>
    have hj : Signalled s (s.signalUnmasked v j) := s.signalUnmasked_signalled v j
    rcases List.mem_cons.1 hl with rfl | hmem
    · have hstep : s.signalUnmasked v i = s.msix 0 i s.outputHold := by simp [State.signalUnmasked, hv, hirq]
      refine SentOrPending.of_signalled_right ?_ (signalUnmasked_foldl_signalled v l _)
      rw [hstep]
      exact State.msix_sentOrPending hi hd3
    · refine SentOrPending.of_signalled_left hj (ih hmem ?_ ?_)
      · rw [hj.func, hd3]
      · rw [hj.frame, hirq]

theorem exec_irqMaskWrite {s : State} (hopen : s.barOpen 0 = true) (hup : s.blockUp 0x34 = true) (v : Word) :
    exec (.irqMaskWrite 0 v) s =
      .next ((List.range 4).foldl (State.signalUnmasked v) { s with glb := { s.glb with mask := v.setWidth 4 } }) := by
  simp only [exec, execIrqMaskWrite, State.pfWrites, hopen, hup]
  rfl

end Sys2Proof.Machine

/-! # The statement about the registers of BAR0 -/

namespace Sys2Proof.Machine

/-- A 4-byte write to an aligned offset of a tile's block. -/
theorem exec_csrWrite_tile {s : State} {p o a : Nat} (hp : p < 68) (hopen : s.barOpen 0 = true) (hup : s.blockUp 0x100000 = true)
    (ho : o < 0x10000) (ho4 : o % 4 = 0) (ha : a = 0x100000 + o + p * 0x10000) (v : BitVec 64) :
    exec (.csrWrite 0 a 4 v) s = .next (s.modTile p fun t => t.wr o (v.setWidth 32)) := by
  rw [exec_csrWrite_word hopen (by omega), csrWord_tile hp ho ha (by rw [blockUp_tile hp ho ha, hup])]

/-- Settles O55: a register of `rwRegisters` holds one field of `rwFields`, which a write sets and which no other one of those registers
shares; the reads go by whether their offset is the low word of a 64-bit register, a high word, `TILE_PSTORE_DATA` or none of these. -/
theorem registersReadWhatWasWritten : Obligations.RegistersReadWhatWasWritten := by
  intro p s hp hopen
  refine ⟨?rw, ?rw1c, ?plain, ?latched, ?time, ?entry, ?pstore, ?bad, ?irq⟩
  case rw =>
    intro e he v hup
    obtain ⟨i, hi⟩ := List.mem_iff_getElem?.1 he
    have hw := csrWord_rwRegister hp (v.setWidth 32) i e hi hup
    refine ⟨_, exec_csrWrite_word hopen (rwRegisters_aligned e he) v, hw.csr_same hp hi hup, ?_, hw.tiles, hw.sched, hw.chans, hw.bytes⟩
    intro g hg hne
    obtain ⟨j, hj⟩ := List.mem_iff_getElem?.1 hg
    refine hw.csr_other hp hj ?_
    rintro rfl
    exact hne (by rw [Option.some.inj (hi.symm.trans hj)])
  case rw1c =>
    intro v hup
    exact ⟨⟨_, exec_csrWrite_tile (o := 0x280) hp hopen hup (by decide) rfl rfl v, fun q hq => State.modTile_tile_other s _ hq, rfl,
        State.modTile_tile_same ..⟩,
      ⟨_, exec_csrWrite_tile (o := 0x500) hp hopen hup (by decide) rfl rfl v, fun q hq => State.modTile_tile_other s _ hq, rfl,
        State.modTile_tile_same ..⟩⟩
  case plain =>
    intro o h4 hlow hbefore hps
    rw [exec_lowWordRead_ok, csrRead_word hopen h4, readWord_plain hlow hbefore hps]
  case latched =>
    intro o u hlow h4
    refine ⟨_, exec_lowWordRead_low hopen hlow h4, rfl, rfl, fun hu hlatch hfunc =>
      ⟨_, exec_lowWordRead_high (w := s.csr 0 (o + 4)) hu hlow h4 ?_, rfl⟩⟩
    rw [hlatch, Func.latched, hfunc]
    exact State.latchHigh_latched s o
  case time =>
    intro hup
    have hup' : s.blockUp 0x14 = true := hup
    constructor
    · simp [State.csr, State.pfReg, hup, State.rdGlb, Tab.get, lo32]
    · simp [State.csr, State.pfReg, hup', State.rdGlb, Tab.get, hi32]
  case entry =>
    intro i k x hi hk hx hlost
    refine ⟨_, exec_lowWordRead_entry hopen hi hk, ?_⟩
    obtain ⟨helog, hglb⟩ := (s.failEntry i).csrRead_elog_glb 0 (0x901000 + 32 * i + 4 * k) 4
    rw [helog, hglb, State.failEntry_of_some hx hlost, State.irq_elog]
    exact ⟨ErrLog.entry_putEntry_same hx _, fun j _ hj => ErrLog.entry_putEntry_other hj _, rfl, rfl, State.irq_raised _ (by decide)⟩
  case pstore =>
    intro hup
    exact ⟨_, exec_pstoreDataRead hp hopen hup, rfl, s.nextPstoreWord_tile_same p, fun q hq => s.nextPstoreWord_tile_other hq, rfl⟩
  case bad =>
    intro o size hbad
    exact ⟨⟨_, exec_completerAbort_bad hopen hbad, rfl, State.logDrop_queue .., rfl, rfl⟩,
      fun v => ⟨_, exec_csrWrite_bad hopen hbad v, rfl, rfl, rfl, rfl, State.logDrop_queue ..⟩⟩
  case irq =>
    intro v hup
    have hall := signalUnmasked_foldl_signalled v (List.range 4) { s with glb := { s.glb with mask := v.setWidth 4 } }
    refine ⟨_, exec_irqMaskWrite hopen hup v, by rw [hall.frame], by rw [hall.frame], fun i hi hv hirq => ?_⟩
    have hd3 : (s.func 0).d3 = false := by
      simp only [State.barOpen, Bool.and_eq_true, Bool.not_eq_true'] at hopen
      exact hopen.2
    obtain ⟨hsent, hpending⟩ := signalUnmasked_foldl_sentOrPending (s := { s with glb := { s.glb with mask := v.setWidth 4 } })
      (List.mem_range.2 hi) (by omega) hd3 hv hirq
    exact ⟨hsent, hpending⟩

end Sys2Proof.Machine

/-! # The scratchpad: bytes stored by a write -/

namespace Sys2Proof

/-! ## Sets of words, and dropped entries of tables -/

theorem NSet.wfFrom_mono {t : NSet} {a b : Nat} (hab : a ≤ b) (h : NSet.wfFrom b t = true) : NSet.wfFrom a t = true := by
  cases t with
  | nil => rfl
  | cons j t =>
    simp only [NSet.wfFrom, Bool.and_eq_true, decide_eq_true_eq] at h ⊢
    exact ⟨by omega, h.2⟩

theorem NSet.has_below {t : NSet} {lo n : Nat} (h : NSet.wfFrom lo t = true) (hn : n < lo) : t.has n = false := by
  cases t with
  | nil => rfl
  | cons j t =>
    simp only [NSet.wfFrom, Bool.and_eq_true, decide_eq_true_eq] at h
    rw [NSet.has, if_neg (by omega), if_pos (by omega)]

theorem NSet.wfFrom_add {t : NSet} {lo k : Nat} (h : NSet.wfFrom lo t = true) (hk : lo ≤ k) : NSet.wfFrom lo (t.add k) = true := by
  induction t generalizing lo with
  | nil => simpa [NSet.add, NSet.wfFrom] using hk
  | cons j t ih =>
    simp only [NSet.wfFrom, Bool.and_eq_true, decide_eq_true_eq] at h
    obtain ⟨hj, ht⟩ := h
    unfold NSet.add
    split
    · simp only [NSet.wfFrom, Bool.and_eq_true, decide_eq_true_eq]
      exact ⟨hk, by omega, ht⟩
    · split
      · simp only [NSet.wfFrom, Bool.and_eq_true, decide_eq_true_eq]
        exact ⟨hj, ht⟩
      · simp only [NSet.wfFrom, Bool.and_eq_true, decide_eq_true_eq]
        exact ⟨hj, ih ht (by omega)⟩

theorem NSet.has_add {t : NSet} {lo : Nat} (h : NSet.wfFrom lo t = true) (k n : Nat) : NSet.has (NSet.add t k) n = (n == k || NSet.has t n) := by
  induction t generalizing lo with
  | nil => grind [NSet.add, NSet.has]
  | cons j t ih =>
    simp only [NSet.wfFrom, Bool.and_eq_true, decide_eq_true_eq] at h
    have hbelow : n < j + 1 → NSet.has t n = false := NSet.has_below h.2
    have ih := ih h.2
    grind [NSet.add, NSet.has]

/-- A key below all the keys of a table reads the default. -/
theorem Tab.get_below {α : Type} {d : α} {t : Tab α} {lo n : Nat} (h : NSet.wfFrom lo (t.map (·.1)) = true) (hn : n < lo) :
    Tab.get d t n = d := by
  induction t generalizing lo with
  | nil => rfl
  | cons e t ih =>
    obtain ⟨j, v⟩ := e
    simp only [List.map_cons, NSet.wfFrom, Bool.and_eq_true, decide_eq_true_eq] at h
    rw [Tab.get, if_neg (by omega), ih h.2 (by omega)]

theorem Tab.get_drop {α : Type} {d : α} {t : Tab α} {lo : Nat} (h : NSet.wfFrom lo (t.map (·.1)) = true) (k n : Nat) :
    Tab.get d (Tab.drop t k) n = if n = k then d else Tab.get d t n := by
  induction t generalizing lo with
  | nil => simp [Tab.drop, Tab.get]
  | cons e t ih =>
    obtain ⟨j, v⟩ := e
    simp only [List.map_cons, NSet.wfFrom, Bool.and_eq_true, decide_eq_true_eq] at h
    have hbelow : n < j + 1 → Tab.get d t n = d := Tab.get_below h.2
    have ih := ih h.2
    grind [Tab.drop, Tab.get]

theorem Tab.wfFrom_drop {α : Type} {t : Tab α} {lo : Nat} (h : NSet.wfFrom lo (t.map (·.1)) = true) (k : Nat) :
    NSet.wfFrom lo ((Tab.drop t k).map (·.1)) = true := by
  induction t generalizing lo with
  | nil => rfl
  | cons e t ih =>
    obtain ⟨j, v⟩ := e
    simp only [List.map_cons, NSet.wfFrom, Bool.and_eq_true, decide_eq_true_eq] at h
    unfold Tab.drop
    split
    · exact NSet.wfFrom_mono (by omega) h.2
    · simp only [List.map_cons, NSet.wfFrom, Bool.and_eq_true, decide_eq_true_eq]
      exact ⟨h.1, ih h.2⟩

theorem Tab.get_map {α β : Type} (g : α → β) (d : α) (t : Tab α) (k : Nat) :
    Tab.get (g d) (t.map fun e => (e.1, g e.2)) k = g (Tab.get d t k) := by
  induction t with
  | nil => rfl
  | cons e t ih =>
    obtain ⟨j, v⟩ := e
    simp only [List.map_cons, Tab.get, ih]
    split <;> rfl

/-- What holds of every listed entry and of the default holds of every entry. -/
theorem Tab.get_of_all {α : Type} {P : α → Bool} {d : α} {t : Tab α} (hd : P d = true) (h : t.all (fun e => P e.2) = true) (k : Nat) :
    P (Tab.get d t k) = true := by
  induction t with
  | nil => exact hd
  | cons e t ih =>
    simp only [List.all_cons, Bool.and_eq_true] at h
    unfold Tab.get
    split
    · exact h.1
    · exact ih h.2

end Sys2Proof

namespace Sys2Proof.Machine

/-! ## Listed bytes -/

/-- The byte at address `a`, which held `b`, after listed bytes have been written one after the other. -/
def byteAfter (l : List (Nat × Byte)) (a : Nat) (b : Byte) : Byte := l.foldl (fun b e => if e.1 = a then e.2 else b) b

theorem byteAfter_cons (e : Nat × Byte) (l : List (Nat × Byte)) (a : Nat) (b : Byte) :
    byteAfter (e :: l) a b = byteAfter l a (if e.1 = a then e.2 else b) := rfl

theorem byteAfter_append (l m : List (Nat × Byte)) (a : Nat) (b : Byte) : byteAfter (l ++ m) a b = byteAfter m a (byteAfter l a b) :=
  List.foldl_append

theorem byteAfter_of_not_listed {l : List (Nat × Byte)} {a : Nat} (h : ∀ e ∈ l, e.1 ≠ a) (b : Byte) : byteAfter l a b = b := by
  induction l generalizing b with
  | nil => rfl
  | cons e l ih =>
    rw [byteAfter_cons, if_neg (h e (List.mem_cons_self ..)), ih fun x hx => h x (List.mem_cons_of_mem _ hx)]

/-- The last byte listed for the address is the one that stays. -/
theorem byteAfter_eq_last (l : List (Nat × Byte)) (a : Nat) (b : Byte) :
    byteAfter l a b = ((l.reverse.find? fun e => e.1 == a).map (·.2)).getD b := by
  induction l generalizing b with
  | nil => rfl
  | cons e l ih =>
    rw [byteAfter_cons, ih, List.reverse_cons, List.find?_append]
    cases l.reverse.find? fun e => e.1 == a with
    | some x => rfl
    | none => by_cases h : e.1 = a <;> simp [h]

/-- Bytes listed once each for `n` addresses in a row. -/
theorem byteAfter_row (f : Nat → Byte) (a0 n a : Nat) (b : Byte) :
    byteAfter ((List.range n).map fun j => (a0 + j, f j)) a b = if a0 ≤ a ∧ a < a0 + n then f (a - a0) else b := by
  induction n with
  | zero => rw [if_neg (by omega)]; rfl
  | succ n ih =>
    rw [List.range_succ, List.map_append, byteAfter_append, ih]
    by_cases h : a0 + n = a
    · subst h
      simp [byteAfter]
    · have hiff : a0 ≤ a ∧ a < a0 + n ↔ a0 ≤ a ∧ a < a0 + (n + 1) := by omega
      simp only [List.map_cons, List.map_nil, byteAfter_cons, if_neg h, hiff]
      rfl

theorem Mem.get_writeAt {d : Byte} {m : Mem} (h : Mem.wf d m = true) (l : List (Nat × Byte)) (a : Nat) :
    Mem.get d (Mem.writeAt d m l) a = byteAfter l a (Mem.get d m a) := by
  induction l generalizing m with
  | nil => rfl
  | cons e l ih => simp only [Mem.writeAt, byteAfter_cons, ih (Mem.wf_put h), Mem.get_put h, eq_comm]

/-! ## Bytes by words -/

/-- The groups of bytes by words hold the bytes in their order. -/
theorem groupWords_flatten (l : List (Nat × Byte)) : (groupWords l).flatMap (·.2) = l := by
  induction l with
  | nil => rfl
  | cons e l ih =>
    obtain ⟨a, b⟩ := e
    unfold groupWords
    split
    · rename_i w m r heq
      rw [heq] at ih
      split <;> simpa using ih
    · rename_i heq
      rw [heq] at ih
      simpa using ih

/-- No group is empty, and a group holds bytes of its word only. -/
theorem groupWords_word (l : List (Nat × Byte)) : ∀ g ∈ groupWords l, g.2 ≠ [] ∧ ∀ e ∈ g.2, e.1 / 8 = g.1 := by
  induction l with
  | nil => intro g hg; cases hg
  | cons e l ih =>
    obtain ⟨a, b⟩ := e
    unfold groupWords
    split
    · rename_i w m r heq
      rw [heq, List.forall_mem_cons] at ih
      split
      · rename_i hw
        rw [List.forall_mem_cons]
        refine ⟨⟨by simp, ?_⟩, ih.2⟩
        rw [List.forall_mem_cons]
        exact ⟨hw.symm, ih.1.2⟩
      · rw [List.forall_mem_cons]
        exact ⟨⟨by simp, by simp⟩, List.forall_mem_cons.2 ih⟩
    · simp

/-- What holds of the word of every byte holds of the word of every group. -/
theorem groupWords_forall {P : Nat → Prop} {l : List (Nat × Byte)} (h : ∀ e ∈ l, P (e.1 / 8)) : ∀ g ∈ groupWords l, P g.1 := by
  intro g hg
  obtain ⟨hne, hword⟩ := groupWords_word l g hg
  obtain ⟨e, he⟩ := List.exists_mem_of_ne_nil _ hne
  have hel : e ∈ l := by
    rw [← groupWords_flatten l]
    exact List.mem_flatMap.2 ⟨g, hg, he⟩
  exact hword e he ▸ h e hel

/-- The word of a byte is among the words that an extent over the byte touches. -/
theorem mem_wordsOf {off n a : Nat} (h : off ≤ a ∧ a < off + n) : a / 8 ∈ wordsOf off n := by
  rw [wordsOf, if_neg (by omega), List.mem_map]
  exact ⟨a / 8 - off / 8, List.mem_range.2 (by omega), by omega⟩

/-- The word of a byte listed for one of `n` addresses in a row is among the words that they touch. -/
theorem mem_wordsOf_row {a0 n : Nat} {f : Nat → Byte} {e : Nat × Byte} (h : e ∈ (List.range n).map fun j => (a0 + j, f j)) :
    e.1 / 8 ∈ wordsOf a0 n := by
  obtain ⟨j, hj, rfl⟩ := List.mem_map.1 h
  have hlt : j < n := List.mem_range.1 hj
  exact mem_wordsOf ⟨by omega, by omega⟩

/-! ## One stored word -/

theorem State.tile_memOk {s : State} (h : s.memOk = true) (p : Nat) : (s.tile p).memOk = true := by
  simp only [State.memOk, Bool.and_eq_true] at h
  obtain ⟨⟨-, htiles⟩, -⟩ := h
  exact Tab.get_of_all (P := Tile.memOk) rfl htiles p

/-- The memory that `storeWord` writes its bytes to: where the word's valid bit is clear, zeros stand in it (R162). -/
def Tile.storeBase (t : Tile) (w : Nat) : Mem :=
  if t.valid.has w then t.mem else Mem.write 0 t.mem (8 * w) (List.replicate 8 0)

theorem Tile.storeWord_eq (t : Tile) (w : Nat) (l : List (Nat × Byte)) : t.storeWord w l =
    { t with mem := Mem.writeAt 0 (t.storeBase w) l, valid := t.valid.add w, ecc := Tab.drop t.ecc w } := rfl

section
variable {t : Tile} (h : t.memOk = true)
include h

theorem Tile.memOk_parts : Mem.wf 0 t.mem = true ∧ Mem.wf 0 t.pstore = true ∧ NSet.wf t.valid = true ∧ NSet.wf (t.ecc.map (·.1)) = true := by
  simpa [Tile.memOk, and_assoc] using h

theorem Tile.storeBase_wf (w : Nat) : Mem.wf 0 (t.storeBase w) = true := by
  obtain ⟨hmem, -⟩ := Tile.memOk_parts h
  unfold Tile.storeBase
  split
  · exact hmem
  · exact Mem.wf_write hmem

theorem Tile.storeBase_get (w a : Nat) : Mem.get 0 (t.storeBase w) a = if a / 8 = w then t.byte a else Mem.get 0 t.mem a := by
  obtain ⟨hmem, -⟩ := Tile.memOk_parts h
  unfold Tile.storeBase Tile.byte
  cases hv : NSet.has t.valid w with
  | true => by_cases ha : a / 8 = w <;> simp [ha, hv]
  | false =>
    rw [if_neg (by simp), Mem.get_write hmem, List.length_replicate]
    by_cases ha : a / 8 = w
    · rw [if_pos (by omega), if_pos ha, ha, hv, List.getD_eq_getElem?_getD,
        List.getElem?_replicate_of_lt (by omega)]
      rfl
    · rw [if_neg (by omega), if_neg ha]

theorem Tile.storeWord_memOk (w : Nat) (l : List (Nat × Byte)) : (t.storeWord w l).memOk = true := by
  obtain ⟨-, hps, hvalid, hecc⟩ := Tile.memOk_parts h
  simp only [Tile.memOk, Bool.and_eq_true]
  exact ⟨⟨⟨Mem.wf_writeAt (Tile.storeBase_wf h w), hps⟩, NSet.wfFrom_add hvalid (Nat.zero_le w)⟩, Tab.wfFrom_drop hecc w⟩

/-- A stored word checks clean, and the others check as before. -/
theorem Tile.storeWord_wordEcc (w v : Nat) (l : List (Nat × Byte)) :
    (t.storeWord w l).wordEcc v = if v = w then .clean else t.wordEcc v := by
  obtain ⟨-, -, hvalid, hecc⟩ := Tile.memOk_parts h
  simp only [Tile.wordEcc, Tile.storeWord, NSet.has_add hvalid, Tab.get_drop hecc]
  by_cases hv : v = w <;> simp [hv]

/-- A byte of the word reads as written, or else as before. -/
theorem Tile.storeWord_byte {w : Nat} {l : List (Nat × Byte)} (hl : ∀ e ∈ l, e.1 / 8 = w) (a : Nat) :
    (t.storeWord w l).byte a = byteAfter l a (t.byte a) := by
  obtain ⟨-, -, hvalid, -⟩ := Tile.memOk_parts h
  have hbyte : (t.storeWord w l).byte a =
      if a / 8 == w || NSet.has t.valid (a / 8) then byteAfter l a (Mem.get 0 (t.storeBase w) a) else 0 := by
    rw [Tile.byte, Tile.storeWord_eq, NSet.has_add hvalid, Mem.get_writeAt (Tile.storeBase_wf h w)]
  rw [hbyte, Tile.storeBase_get h]
  by_cases ha : a / 8 = w
  · simp [ha]
  · have hout : ∀ e ∈ l, e.1 ≠ a := fun e he hea => ha (hea ▸ hl e he)
    simp [ha, byteAfter_of_not_listed hout, Tile.byte]

end

end Sys2Proof.Machine

/-! # Writes of words that may all be stored -/

namespace Sys2Proof.Machine

/-! ## A state that differs in one tile -/

/-- `t` is `s` with `u` as tile `p`. -/
structure State.TileBecomes (s t : State) (p : Nat) (u : Tile) : Prop where
  frame : t = { s with tiles := t.tiles }
  same : t.tile p = u
  other : ∀ q, q ≠ p → t.tile q = s.tile q

theorem State.TileBecomes.refl (s : State) (p : Nat) : s.TileBecomes s p (s.tile p) := ⟨rfl, rfl, fun _ _ => rfl⟩

theorem State.TileBecomes.trans {a b c : State} {p : Nat} {u v : Tile} (h : a.TileBecomes b p u) (k : b.TileBecomes c p v) :
    a.TileBecomes c p v where
  frame := by rw [k.frame, h.frame]
  same := k.same
  other q hq := by rw [k.other q hq, h.other q hq]

theorem State.modTile_becomes (s : State) (p : Nat) (f : Tile → Tile) : s.TileBecomes (s.modTile p f) p (f (s.tile p)) :=
  ⟨rfl, s.modTile_tile_same p f, fun _ hq => s.modTile_tile_other f hq⟩

/-! ## Words that may be stored -/

/-- Word `w` of tile `p` exists, `prod` may write it (R219), and it checks clean: nothing refuses a write to it (R158, R368). -/
structure State.TakesWord (s : State) (p : Nat) (prod : Option (Nat × Nat)) (w : Nat) : Prop where
  exists_ : 8 * w < (s.tile p).usable
  allowed : s.slotRule p (8 * w) prod = true
  clean : (s.tile p).wordEcc w = .clean

theorem State.TakesWord.wordRefusal {s : State} {p : Nat} {prod : Option (Nat × Nat)} {g : Nat × List (Nat × Byte)}
    (h : s.TakesWord p prod g.1) : s.wordRefusal p prod g = 0 := by
  simp [State.wordRefusal, Nat.not_le.2 h.exists_, h.allowed, h.clean]

/-- The word is stored, and no correctable event is noted. -/
theorem State.TakesWord.writeWord {s : State} {p : Nat} {prod : Option (Nat × Nat)} {g : Nat × List (Nat × Byte)}
    (h : s.TakesWord p prod g.1) (tag : Word) : s.writeWord p prod tag g = (s.modTile p fun t => t.storeWord g.1 g.2, 0) := by
  simp [State.writeWord, h.wordRefusal, h.clean]

/-- A store to one word leaves every word ready for the next store. -/
theorem State.TakesWord.storeWord {s : State} {p w : Nat} {prod : Option (Nat × Nat)} (h : s.TakesWord p prod w)
    (hmem : (s.tile p).memOk = true) (v : Nat) (l : List (Nat × Byte)) : (s.modTile p fun t => t.storeWord v l).TakesWord p prod w where
  exists_ := by rw [State.modTile_tile_same]; exact h.exists_
  allowed := h.allowed
  clean := by
    rw [State.modTile_tile_same, Tile.storeWord_wordEcc hmem, h.clean, ite_self]

/-! ## A whole write -/

/-- The tile after groups of bytes have been stored, word by word. -/
def Tile.storeGroups (t : Tile) (gs : List (Nat × List (Nat × Byte))) : Tile := gs.foldl (fun t g => t.storeWord g.1 g.2) t

/-- Tile `t` with the bytes, valid bits and check bits of `u`. -/
def Tile.withScratch (t u : Tile) : Tile := { t with mem := u.mem, valid := u.valid, ecc := u.ecc }

/-- Only bytes, valid bits and check bits change. -/
theorem Tile.storeGroups_frame (t : Tile) (gs : List (Nat × List (Nat × Byte))) :
    t.storeGroups gs = t.withScratch (t.storeGroups gs) := by
  induction gs generalizing t with
  | nil => rfl
  | cons g gs ih => exact ih (t.storeWord g.1 g.2)

theorem Tile.storeGroups_byte {t : Tile} {gs : List (Nat × List (Nat × Byte))} (h : t.memOk = true)
    (hgs : ∀ g ∈ gs, ∀ e ∈ g.2, e.1 / 8 = g.1) (a : Nat) : (t.storeGroups gs).byte a = byteAfter (gs.flatMap (·.2)) a (t.byte a) := by
  induction gs generalizing t with
  | nil => rfl
  | cons g gs ih =>
    rw [List.forall_mem_cons] at hgs
    rw [List.flatMap_cons, byteAfter_append, ← Tile.storeWord_byte h hgs.1]
    exact ih (Tile.storeWord_memOk h g.1 g.2) hgs.2

/-- The next word of a write, and the status of the words so far. -/
def State.writeNext (p : Nat) (prod : Option (Nat × Nat)) (tag : Word) (a : State × Nat) (g : Nat × List (Nat × Byte)) : State × Nat :=
  ((a.1.writeWord p prod tag g).1, worst [a.2, (a.1.writeWord p prod tag g).2])

theorem State.spadWrite_eq (s : State) (p : Nat) (prod : Option (Nat × Nat)) (tag : Word) (data : List (Nat × Byte)) :
    s.spadWrite p prod tag data = (groupWords data).foldl (State.writeNext p prod tag) (s, 0) := rfl

theorem State.writeNext_foldl {s : State} {p : Nat} {prod : Option (Nat × Nat)} {gs : List (Nat × List (Nat × Byte))}
    (hmem : (s.tile p).memOk = true) (h : ∀ g ∈ gs, s.TakesWord p prod g.1) (tag : Word) :
    (gs.foldl (State.writeNext p prod tag) (s, 0)).2 = 0 ∧
      s.TileBecomes (gs.foldl (State.writeNext p prod tag) (s, 0)).1 p ((s.tile p).storeGroups gs) := by
  induction gs generalizing s with
  | nil => exact ⟨rfl, .refl s p⟩
  | cons g gs ih =>
    rw [List.forall_mem_cons] at h
    obtain ⟨hg, hgs⟩ := h
    have hnext : State.writeNext p prod tag (s, 0) g = (s.modTile p fun t => t.storeWord g.1 g.2, 0) := by
      rw [State.writeNext, hg.writeWord]
      rfl
    have htile : (s.modTile p fun t => t.storeWord g.1 g.2).tile p = (s.tile p).storeWord g.1 g.2 := s.modTile_tile_same ..
    obtain ⟨hst, hrest⟩ := ih (s := s.modTile p fun t => t.storeWord g.1 g.2) (by rw [htile]; exact Tile.storeWord_memOk hmem g.1 g.2)
      fun e he => (hgs e he).storeWord hmem g.1 g.2
    rw [List.foldl_cons, hnext]
    rw [htile] at hrest
    exact ⟨hst, (s.modTile_becomes p _).trans hrest⟩

/-- `t` is `s` after the bytes `data` have been stored in the scratchpad of tile `p`. -/
structure State.Stored (s t : State) (p : Nat) (data : List (Nat × Byte)) : Prop where
  becomes : s.TileBecomes t p ((s.tile p).withScratch (t.tile p))
  byte : ∀ a, (t.tile p).byte a = byteAfter data a ((s.tile p).byte a)

/-- A write to words that may all be stored is accepted, and its bytes are stored. -/
theorem State.spadWrite_stored {s : State} {p : Nat} {prod : Option (Nat × Nat)} {data : List (Nat × Byte)}
    (hmem : (s.tile p).memOk = true) (h : ∀ e ∈ data, s.TakesWord p prod (e.1 / 8)) (tag : Word) :
    (s.spadWrite p prod tag data).2 = 0 ∧ s.Stored (s.spadWrite p prod tag data).1 p data := by
  obtain ⟨hst, hbecomes⟩ := State.writeNext_foldl hmem (groupWords_forall (P := s.TakesWord p prod) h) tag
  rw [← State.spadWrite_eq] at hst hbecomes
  refine ⟨hst, ⟨hbecomes.frame, ?_, hbecomes.other⟩, fun a => ?_⟩
  · rw [hbecomes.same]
    exact Tile.storeGroups_frame ..
  · rw [hbecomes.same, Tile.storeGroups_byte hmem fun g hg => (groupWords_word data g hg).2, groupWords_flatten]

end Sys2Proof.Machine

/-! # Packets that reach the scratchpad -/

namespace Sys2Proof.Machine

theorem State.unsend_eq (s : State) (i : Nat) : s.unsend i = { s with mesh := (s.unsend i).mesh } := rfl

/-- A packet with no other destination leaves the mesh. -/
theorem State.unsend_last {s : State} {i : Nat} {q : Packet} (h : s.deliverable i = some q) (hq : q.more = []) :
    s.unsend i = { s with mesh := s.mesh.eraseIdx i } := by
  rw [s.unsend_eq, s.unsend_mesh i fun r hr => by rw [← Option.some.inj (h.symm.trans hr), hq]]

section
variable {s : State} {i p tl k uid : Nat} {src : Endpoint} {vc : VC} {data : List (Nat × Byte)} {prod : Option (Nat × Nat)}
  {l : List Endpoint} {bad : Bool}
  (hpkt : s.deliverable i =
    some { src := src, dst := .tile p, vc := vc, body := .spadWrite data prod (.step tl k uid), more := l, bad := bad })
  (hrouter : (s.tile p).deadRouter = false)
include hpkt hrouter

/-- A write that is not taken is answered and stores nothing (R29, R362). -/
theorem exec_scratchpadWrite_refused (h : s.spadOpen p = false ∨ bad = true) :
    exec (.scratchpadWrite i) s = .next { s with mesh := (s.unsend i).mesh ++
      [{ src := .tile p, dst := .tile tl, vc := .rsp, body := .ack (if s.spadOpen p then 1 else 0x0C) (.step tl k uid) }] } := by
  simp only [exec, execScratchpadWrite, hpkt, hrouter]
  cases hopen : s.spadOpen p with
  | false => rfl
  | true =>
    obtain rfl : bad = true := by simpa [hopen] using h
    rfl

/-- A write that is taken is written word by word. -/
theorem exec_scratchpadWrite_taken (hopen : s.spadOpen p = true) (hbad : bad = false) (hblock : (s.tile p).writeBlocked data = false) :
    exec (.scratchpadWrite i) s = .next ((s.unsend i).arriveWrite p data prod (.step tl k uid)) := by
  simp [exec, execScratchpadWrite, hpkt, hrouter, hopen, hbad, hblock]

end

theorem Tile.blocked_of_clean {t : Tile} {off n : Nat} (h : ∀ v ∈ wordsOf off n, t.wordEcc v = .clean) : t.blocked off n = false := by
  rw [Tile.blocked, List.any_eq_false]
  intro v hv
  rw [h v hv]
  decide

theorem Tile.find_poisoned_of_clean {t : Tile} {off n : Nat} (h : ∀ v ∈ wordsOf off n, t.wordEcc v = .clean) :
    ((wordsOf off n).find? fun w => t.wordEcc w == .poisoned) = none := by
  rw [List.find?_eq_none]
  intro v hv
  rw [h v hv]
  decide

/-- Clean words leave nothing to note. -/
theorem State.noteCe_of_clean {s : State} {p off n : Nat} (h : ∀ v ∈ wordsOf off n, (s.tile p).wordEcc v = .clean) :
    s.noteCe p off n = s := by
  unfold State.noteCe
  generalize wordsOf off n = ws at h
  induction ws with
  | nil => rfl
  | cons w ws ih =>
    rw [List.forall_mem_cons] at h
    rw [List.foldl_cons, h.1]
    exact ih h.2

/-- A read of clean words is answered with their bytes (R29, R364). -/
theorem exec_scratchpadRead_clean {s : State} {i p off len tl k uid c pos n : Nat} {src : Endpoint} {vc : VC}
    (hrouter : (s.tile p).deadRouter = false) (hopen : s.spadOpen p = true)
    (hpkt : s.deliverable i = some { src := src, dst := .tile p, vc := vc, body := .spadRead off len (.stream tl k uid c pos n) })
    (hsize : off + len ≤ (s.tile p).usable) (hclean : ∀ v ∈ wordsOf off len, (s.tile p).wordEcc v = .clean) :
    exec (.scratchpadRead i) s = .next { s with mesh := s.mesh.eraseIdx i ++
      [{ src := .tile p, dst := .tile tl, vc := .rsp, body := .response ((s.tile p).bytes off len) 0 (.stream tl k uid c pos n) }] } := by
  have hrefused : ¬ ((!s.spadOpen p) = true ∨ (s.tile p).usable < off + len) := by simp [hopen, hsize]
  have hexec : exec (.scratchpadRead i) s = .next (((s.unsend i).noteCe p off len).respond (.tile p) (.stream tl k uid c pos n)
      ((s.tile p).bytes off len) 0) := by
    simp only [exec, execScratchpadRead, hpkt, hrouter, if_neg hrefused, Tile.blocked_of_clean hclean, Tile.find_poisoned_of_clean hclean]
    rfl
  rw [hexec, State.noteCe_of_clean (s := s.unsend i) hclean, s.unsend_last hpkt rfl]
  rfl

/-- The bytes of a write that may all be stored are stored, and the write is acknowledged with status 0 (R163, R204). -/
theorem State.arriveWrite_stored {s : State} {p tl k uid : Nat} {prod : Option (Nat × Nat)} {data : List (Nat × Byte)}
    (hmem : (s.tile p).memOk = true) (h : ∀ e ∈ data, s.TakesWord p prod (e.1 / 8)) : ∃ t, s.Stored t p data ∧
      s.arriveWrite p data prod (.step tl k uid) = t.send { src := .tile p, dst := .tile tl, vc := .rsp, body := .ack 0 (.step tl k uid) } := by
  obtain ⟨hst, hstored⟩ := State.spadWrite_stored hmem h (s.tagWho (.step tl k uid))
  exact ⟨_, hstored, by rw [State.arriveWrite, hst]; rfl⟩

/-! ## Read responses -/

/-- Stream `x` of context `c` and its strand `k` take a response: one read less is outstanding, of them and of the tile (R200). -/
def Tile.takeRead (t : Tile) (k c : Nat) (x : StreamCtx) : Tile :=
  let u := { t.setCtx c (some { x with out := x.out - 1 }) with outReads := t.outReads - 1 }
  u.setStrand k { t.strand k with outRd := (t.strand k).outRd - 1 }

@[inherit_doc Tile.takeRead]
def State.takeRead (s : State) (p k c : Nat) (x : StreamCtx) : State :=
  (s.modTile p fun t => { t.setCtx c (some { x with out := x.out - 1 }) with outReads := t.outReads - 1 }).modStrand p k fun z =>
    { z with outRd := z.outRd - 1 }

theorem State.takeRead_becomes (s : State) (p k c : Nat) (x : StreamCtx) :
    s.TileBecomes (s.takeRead p k c x) p ((s.tile p).takeRead k c x) := by
  have h := (s.modTile_becomes p fun t => { t.setCtx c (some { x with out := x.out - 1 }) with outReads := t.outReads - 1 }).trans
    (State.modTile_becomes _ p fun t => t.setStrand k { t.strand k with outRd := (t.strand k).outRd - 1 })
  rw [State.modTile_tile_same] at h
  exact h

@[simp] theorem Tile.setStrand_strand_same (t : Tile) (k : Nat) (z : Strand) : (t.setStrand k z).strand k = z := Tab.get_put_same ..

theorem Tile.setStrand_strand_other (t : Tile) {k j : Nat} (z : Strand) (h : j ≠ k) : (t.setStrand k z).strand j = t.strand j :=
  Tab.get_put_other _ _ _ _ _ h

/-- A context that settles leaves the rest of its tile alone. -/
theorem Tile.settleCtx_frame (t : Tile) (c : Nat) : t.settleCtx c = { t with ctxs := (t.settleCtx c).ctxs } := by
  unfold Tile.settleCtx
  split
  · split <;> rfl
  · rfl

@[simp] theorem Tile.settleCtx_byte (t : Tile) (c a : Nat) : (t.settleCtx c).byte a = t.byte a := by rw [t.settleCtx_frame]; rfl
@[simp] theorem Tile.settleCtx_strand (t : Tile) (c k : Nat) : (t.settleCtx c).strand k = t.strand k := by rw [t.settleCtx_frame]; rfl
@[simp] theorem Tile.settleCtx_outReads (t : Tile) (c : Nat) : (t.settleCtx c).outReads = t.outReads := by rw [t.settleCtx_frame]

theorem Tile.settleCtx_ctx {t : Tile} {c : Nat} {y : StreamCtx} (h : t.ctx c = some y) :
    (t.settleCtx c).ctx c = if y.spent ∧ y.out = 0 ∧ y.unacked = 0 then none else some y := by
  unfold Tile.settleCtx
  rw [h]
  dsimp only
  split
  · exact Tab.get_put_same ..
  · exact h

/-- The response to a read of a stream that loads its window: `t` is what the write of its bytes leaves. -/
theorem exec_readResponse_load {s t : State} {i p k uid c pos n : Nat} {src : Endpoint} {vc : VC} {data : List Byte} {x : StreamCtx}
    (hpkt : s.deliverable i = some { src := src, dst := .tile p, vc := vc, body := .response data 0 (.stream p k uid c pos n) })
    (hctx : (s.tile p).ctx c = some x) (huid : x.uid = uid) (hrun : x.stopped = false) (hwindow : x.desc.dbight = false)
    (hblock : (s.tile p).writeBlocked (s.landing p x pos n data) = false)
    (hwrite : ((s.unsend i).takeRead p k c x).spadWrite p (some (s.me p)) (s.tagOf (s.strand p k)) (s.landing p x pos n data) = (t, 0)) :
    exec (.readResponse i) s = .next (t.modTile p fun u => u.settleCtx c) := by
  have hexec : exec (.readResponse i) s = .next (State.modTile
      (let r := ((s.unsend i).takeRead p k c x).spadWrite p (some (s.me p)) (s.tagOf (s.strand p k)) (s.landing p x pos n data)
        if r.2 ≠ 0 then r.1.streamStop p c r.2 true pos else r.1) p fun u => u.settleCtx c) := by
    obtain ⟨strand, xuid, sid, desc, pos', out, unacked, fills, stopped⟩ := x
    obtain rfl : xuid = uid := huid
    obtain rfl : stopped = false := hrun
    replace hwindow : desc.dbight = false := hwindow
    simp only [exec, execReadResponse, hpkt, hctx, hwindow, hblock, ne_eq, not_true_eq_false, if_false, Bool.and_false]
    rfl
  rw [hexec, hwrite]
  rfl

/-- The bytes of a load into the window lie there one behind the other (R193). -/
theorem State.landing_window {s : State} {p : Nat} {x : StreamCtx} (h : x.desc.dbight = false) (pos n : Nat) (data : List Byte) :
    s.landing p x pos n data = (List.range n).map fun j => ((s.strand p x.strand).base + x.desc.loc + pos + j,
      data.getD (((x.desc.gaddr : Int) + x.desc.pat (pos + j)) % 64).toNat 0) := by
  simp only [State.landing, h, Nat.add_assoc]
  rfl

end Sys2Proof.Machine

namespace Sys2Proof.Machine

/-! # Write acknowledgements -/

/-! ## What sends a packet leaves the tiles alone -/

theorem tiles_foldl {α : Type} {f : State → α → State} (h : ∀ s x, (f s x).tiles = s.tiles) (l : List α) (s : State) :
    (l.foldl f s).tiles = s.tiles := by
  induction l generalizing s with
  | nil => rfl
  | cons x l ih => rw [List.foldl_cons, ih, h]

theorem State.sendTo_tiles (s : State) (src : Endpoint) (node n : Nat) (vc : VC) (b : Body) : (s.sendTo src node n vc b).tiles = s.tiles := by
  unfold State.sendTo
  split
  · rfl
  · split <;> rfl

theorem State.setSlot_tiles (s : State) (b j : Nat) (x : BSlot) : (s.setSlot b j x).tiles = s.tiles := rfl

theorem State.returnCredit_tiles (s : State) (b j : Nat) : (s.returnCredit b j).tiles = s.tiles := by
  unfold State.returnCredit
  split
  · rfl
  · exact State.sendTo_tiles ..

theorem State.slotApply_tiles (s : State) (m : SlotMsg) (b j : Nat) (prod : Nat × Nat) (uid : Nat) :
    (s.slotApply m b j prod uid).tiles = s.tiles := by
  unfold State.slotApply
  dsimp only
  split
  · split
    · split <;> rfl
    · rfl
  · split <;> rfl
  · split
    · exact State.returnCredit_tiles ..
    · rfl
  · rfl

theorem State.slotMsg_tiles (s : State) (p : Nat) (m : SlotMsg) (b : Nat) (d : BightDecl) (j uid : Nat) (direct : Bool) (sid : Option Nat) :
    (s.slotMsg p m b d j uid direct sid).tiles = s.tiles := by
  unfold State.slotMsg
  split
  · exact State.slotApply_tiles ..
  · exact State.sendTo_tiles ..

theorem State.freeSlot_tiles (s : State) (b j : Nat) : (s.freeSlot b j).tiles = s.tiles := State.returnCredit_tiles ..

theorem State.sendVerdict_tiles (s : State) (p red tok : Nat) (v : VerdictKind) : (s.sendVerdict p red tok v).tiles = s.tiles := by
  unfold State.sendVerdict
  split
  · rfl
  · refine tiles_foldl (fun a part => ?_) _ s
    split
    · rfl
    · split <;> rfl

theorem State.sendAborts_tiles (s : State) (p k : Nat) : (s.sendAborts p k).tiles = s.tiles := by
  refine tiles_foldl (fun a e => ?_) _ s
  split
  · split
    · exact State.sendVerdict_tiles ..
    · rfl
  · rfl

theorem State.logStatus_tiles (s : State) (p k st : Nat) : (s.logStatus p k st).tiles = s.tiles := by
  unfold State.logStatus
  split
  · exact (State.logEv_reported ..).tiles
  · rfl

theorem State.modTile_tiles_congr {a b : State} (h : a.tiles = b.tiles) (p : Nat) (f : Tile → Tile) :
    (a.modTile p f).tiles = (b.modTile p f).tiles := by
  simp only [State.modTile_tiles, State.tile, h]

theorem State.modStrand_tiles_congr {a b : State} (h : a.tiles = b.tiles) (p k : Nat) (f : Strand → Strand) :
    (a.modStrand p k f).tiles = (b.modStrand p k f).tiles := State.modTile_tiles_congr h p _

/-- The slots that a task held or filled: in the tiles only the strand's own lists of them change. -/
theorem State.endSlots_tiles (s : State) (p k st : Nat) : (s.endSlots p k st).tiles =
    (s.modStrand p k fun x => { x with held := [], claims := [], again := none, kept := [] }).tiles := by
  refine State.modStrand_tiles_congr ((tiles_foldl (fun a c => ?claim) _ _).trans (tiles_foldl (fun a h => ?held) _ s)) p k _
  case claim =>
    split
    · exact State.slotMsg_tiles ..
    · rfl
  case held =>
    split
    · split
      · exact State.freeSlot_tiles ..
      · exact State.setSlot_tiles ..
    · split
      · exact State.slotMsg_tiles ..
      · rfl

/-! ## What stays when one strand's task ends -/

/-- `t` comes of `s` by what one strand's task does to tile `p`: the other strands and tiles stay, the strand is owed as many
acknowledgements, and no arrival and no share has come to wait. -/
structure State.OnlyStrand (s t : State) (p k : Nat) : Prop where
  tiles : ∀ q, q ≠ p → t.tile q = s.tile q
  strands : ∀ j, j ≠ k → t.strand p j = s.strand p j
  unacked : (t.strand p k).unacked = (s.strand p k).unacked
  waits : (s.tile p).nothingWaits = true → (t.tile p).nothingWaits = true

theorem State.OnlyStrand.trans {a b c : State} {p k : Nat} (h : a.OnlyStrand b p k) (g : b.OnlyStrand c p k) : a.OnlyStrand c p k where
  tiles q hq := (g.tiles q hq).trans (h.tiles q hq)
  strands j hj := (g.strands j hj).trans (h.strands j hj)
  unacked := g.unacked.trans h.unacked
  waits hw := g.waits (h.waits hw)

theorem State.tile_congr {s t : State} (h : t.tiles = s.tiles) (p : Nat) : t.tile p = s.tile p := by rw [State.tile, h, State.tile]

theorem State.OnlyStrand.of_tiles {s t : State} (h : t.tiles = s.tiles) (p k : Nat) : s.OnlyStrand t p k where
  tiles q _ := State.tile_congr h q
  strands j _ := by rw [State.strand, State.tile_congr h, State.strand]
  unacked := by rw [State.strand, State.tile_congr h, State.strand]
  waits := by rw [State.tile_congr h]; exact id

/-- An update of the tile that keeps its strands. -/
theorem State.OnlyStrand.of_modTile {s t : State} {p : Nat} {f : Tile → Tile} (h : t.tiles = (s.modTile p f).tiles)
    (hstrands : (f (s.tile p)).strands = (s.tile p).strands)
    (hwaits : (s.tile p).nothingWaits = true → (f (s.tile p)).nothingWaits = true) (k : Nat) : s.OnlyStrand t p k := by
  have hsame : t.tile p = f (s.tile p) := (State.tile_congr h p).trans (s.modTile_tile_same p f)
  have hstrand : ∀ j, t.strand p j = s.strand p j := fun j => by rw [State.strand, hsame, Tile.strand, hstrands]; rfl
  exact ⟨fun q hq => (State.tile_congr h q).trans (s.modTile_tile_other f hq), fun j _ => hstrand j, by rw [hstrand], by rw [hsame]; exact hwaits⟩

@[simp] theorem State.modStrand_strand_same (s : State) (p k : Nat) (f : Strand → Strand) : (s.modStrand p k f).strand p k = f (s.strand p k) := by
  simp [State.strand, State.modStrand]

theorem State.modStrand_strand_other (s : State) {p k j : Nat} (f : Strand → Strand) (h : j ≠ k) :
    (s.modStrand p k f).strand p j = s.strand p j := by
  simp [State.strand, State.modStrand, Tile.setStrand_strand_other _ _ h]

theorem State.modStrand_nothingWaits (s : State) (p k : Nat) (f : Strand → Strand) :
    ((s.modStrand p k f).tile p).nothingWaits = (s.tile p).nothingWaits := by
  rw [State.modStrand, State.modTile_tile_same]
  rfl

/-- An update of the strand itself that keeps what it is owed. -/
theorem State.OnlyStrand.of_modStrand {s t : State} {p k : Nat} {f : Strand → Strand} (h : t.tiles = (s.modStrand p k f).tiles)
    (hf : (f (s.strand p k)).unacked = (s.strand p k).unacked) : s.OnlyStrand t p k := by
  have hs : s.OnlyStrand (s.modStrand p k f) p k := ⟨fun q hq => s.modTile_tile_other _ hq, fun j hj => s.modStrand_strand_other f hj,
    by rw [State.modStrand_strand_same, hf], by rw [State.modStrand_nothingWaits]; exact id⟩
  exact hs.trans (.of_tiles h p k)

/-! ## The end of a task -/

theorem StrandSt.ne_of_running {st : StrandSt} (h : st = .issuing ∨ st = .waiting) : st ≠ .free ∧ st ≠ .ending := by
  rcases h with rfl | rfl <;> decide

theorem Tile.setCodebook_keeps (t : Tile) (c : Bool) (x : Codebook) :
    (t.setCodebook c x).strands = t.strands ∧ (t.setCodebook c x).units = t.units := by
  cases c <;> exact ⟨rfl, rfl⟩

theorem Tile.startLoad_keeps (t : Tile) (x : UStep) : (t.startLoad x).strands = t.strands ∧ (t.startLoad x).units = t.units :=
  t.setCodebook_keeps ..

theorem Tile.nothingWaits_congr {t u : Tile} (h : u.units = t.units) : u.nothingWaits = t.nothingWaits := by
  simp only [Tile.nothingWaits, Tile.unit, h]

theorem State.OnlyStrand.of_modTile_keeps {s t : State} {p : Nat} {f : Tile → Tile} (h : t.tiles = (s.modTile p f).tiles)
    (hkeeps : (f (s.tile p)).strands = (s.tile p).strands ∧ (f (s.tile p)).units = (s.tile p).units) (k : Nat) : s.OnlyStrand t p k :=
  .of_modTile h hkeeps.1 (by rw [Tile.nothingWaits_congr hkeeps.2]; exact id) k

theorem State.stopLoad_tiles (s : State) (c : Codebook) : (s.stopLoad c).2.tiles = s.tiles := by
  unfold State.stopLoad
  split <;> rfl

/-- A codebook load that stops, and the one that starts in its place, change codebook entries only. -/
theorem State.stopLoadInto_onlyStrand (s : State) (p k : Nat) (c : Bool) : s.OnlyStrand (s.stopLoadInto p k c) p k := by
  unfold State.stopLoadInto
  split
  · rename_i x rest _
    split
    · refine .of_modTile_keeps (State.modTile_tiles_congr (State.stopLoad_tiles ..) p _) ?_ k
      generalize (rest.find? fun y => y.strand != k) = follower
      have hstop := (s.tile p).setCodebook_keeps c (s.stopLoad ((s.tile p).codebook c)).1
      cases follower with
      | none => exact hstop
      | some y =>
        have hstart := Tile.startLoad_keeps ((s.tile p).setCodebook c (s.stopLoad ((s.tile p).codebook c)).1) y
        exact ⟨hstart.1.trans hstop.1, hstart.2.trans hstop.2⟩
    · exact .of_tiles rfl p k
  · exact .of_tiles rfl p k

/-- What an ending task of strand `k` leaves of its work in the tile: no steps, no running streams, no banks (R173). -/
def Tile.endWork (t : Tile) (k : Nat) : Tile :=
  (Tile.stopStreams { t with units := t.units.map fun (e : Nat × List UStep) => (e.1, e.2.filter fun y => y.strand != k) } k).releaseBanks k

theorem Tile.endWork_unit (t : Tile) (k u : Nat) : (t.endWork k).unit u = (t.unit u).filter fun y => y.strand != k :=
  Tab.get_map (fun l : List UStep => l.filter fun y : UStep => y.strand != k) [] t.units u

theorem Tile.endWork_nothingWaits {t : Tile} (k : Nat) (h : t.nothingWaits = true) : (t.endWork k).nothingWaits = true := by
  simp only [Tile.nothingWaits, Tile.endWork_unit, Bool.and_eq_true, List.all_eq_true, List.mem_filter] at h ⊢
  exact ⟨fun u hu => h.1 u hu.1, fun u hu => h.2 u hu.1⟩

/-- The state in which a task that ends with status `st` has given up everything, before its strand is ENDING. -/
def State.gaveUp (s : State) (p k st : Nat) : State :=
  let s3 := ((s.stopLoads p k).modTile p fun t => t.endWork k).endSlots p k st
  if st ≠ 0 then s3.sendAborts p k else s3

theorem State.gaveUp_onlyStrand (s : State) (p k st : Nat) : s.OnlyStrand (s.gaveUp p k st) p k := by
  have hloads : s.OnlyStrand (s.stopLoads p k) p k := (s.stopLoadInto_onlyStrand p k false).trans (State.stopLoadInto_onlyStrand _ p k true)
  have hwork := hloads.trans (.of_modTile (f := fun t => t.endWork k) rfl rfl (Tile.endWork_nothingWaits k) k)
  have hslots := hwork.trans (.of_modStrand (State.endSlots_tiles _ p k st) rfl)
  unfold State.gaveUp
  dsimp only
  split
  · exact hslots.trans (.of_tiles (State.sendAborts_tiles ..) p k)
  · exact hslots

theorem State.endTask_eq {s : State} {p k : Nat} (h : (s.strand p k).st = .issuing ∨ (s.strand p k).st = .waiting) (st : Nat) :
    s.endTask p k st = ((((s.gaveUp p k st).modStrand p k fun x =>
      { x with st := .ending, reason := .none_, status := st, rg := none, log := [], logOver := false }).logStatus p k st).pumpSyn p).pumpBld p := by
  rcases h with h | h <;> simp only [State.endTask, State.endTaskWith, h, and_true] <;> rfl

/-- The synchronisation unit has no arrival to send (R225). -/
theorem State.pumpSyn_of_nothingWaits {s : State} {p : Nat} (h : (s.tile p).nothingWaits = true) : s.pumpSyn p = s := by
  simp only [Tile.nothingWaits, Bool.and_eq_true] at h
  unfold State.pumpSyn
  split
  · rename_i u rest hunit
    obtain ⟨hsyn, -⟩ := h
    simp only [hunit, List.all_cons, Bool.and_eq_true, Option.isNone_iff_eq_none] at hsyn
    rw [hsyn.1]
  · rfl

/-- The builder has no arrival and no share to send (R68). -/
theorem State.pumpBld_of_nothingWaits {s : State} {p : Nat} (h : (s.tile p).nothingWaits = true) : s.pumpBld p = s := by
  simp only [Tile.nothingWaits, Bool.and_eq_true] at h
  unfold State.pumpBld
  split
  · rename_i u rest hunit
    obtain ⟨-, hbld⟩ := h
    simp only [hunit, List.all_cons, Bool.and_eq_true, Option.isNone_iff_eq_none] at hbld
    obtain ⟨⟨harrive, hout⟩, -⟩ := hbld
    simp [harrive, hout]
  · rfl

/-- A task under way in strand `k` ends: the strand is ENDING with the status, and the other strands and tiles stay as they are. -/
theorem State.endTask_ends {s : State} {p k : Nat} (h : (s.strand p k).st = .issuing ∨ (s.strand p k).st = .waiting)
    (hw : (s.tile p).nothingWaits = true) (st : Nat) : s.OnlyStrand (s.endTask p k st) p k ∧
      ((s.endTask p k st).strand p k).st = .ending ∧ ((s.endTask p k st).strand p k).status = st := by
  rw [State.endTask_eq h]
  generalize hu : (s.gaveUp p k st).modStrand p k (fun x =>
    { x with st := .ending, reason := .none_, status := st, rg := none, log := [], logOver := false }) = u
  have hbefore : s.OnlyStrand u p k := (s.gaveUp_onlyStrand p k st).trans (.of_modStrand (by rw [← hu]) rfl)
  have htiles := State.logStatus_tiles u p k st
  have hwaits : ((u.logStatus p k st).tile p).nothingWaits = true := by rw [State.tile_congr htiles]; exact hbefore.waits hw
  rw [State.pumpSyn_of_nothingWaits hwaits, State.pumpBld_of_nothingWaits hwaits]
  have hstrand : (u.logStatus p k st).strand p k = u.strand p k := by rw [State.strand, State.tile_congr htiles, State.strand]
  refine ⟨hbefore.trans (.of_tiles htiles p k), ?_⟩
  rw [hstrand, ← hu, State.modStrand_strand_same]
  exact ⟨rfl, rfl⟩

/-! ## The acknowledgement of a step's write -/

/-- The strand is owed one acknowledgement less (R205). -/
def State.oneAcked (s : State) (p k : Nat) : State := s.modStrand p k fun z => { z with unacked := z.unacked - 1 }

theorem State.takeAck_step {s : State} {p k uid : Nat} (huid : (s.strand p k).uid = uid) (hst : (s.strand p k).st ≠ .free) (st : Nat) :
    s.takeAck st (.step p k uid) =
      ((if st ≠ 0 then (s.oneAcked p k).refused p k st else s.oneAcked p k).pumpSyn p).pumpBld p := by
  have hhere : ¬ ((s.strand p k).uid ≠ uid ∨ (s.strand p k).st = .free) := by simp [huid, hst]
  simp only [State.takeAck, State.ackStrand, if_neg hhere]
  rfl

theorem exec_writeAck_step {s : State} {i p k uid st : Nat} {src : Endpoint} {vc : VC}
    (hpkt : s.deliverable i = some { src := src, dst := .tile p, vc := vc, body := .ack st (.step p k uid) }) :
    exec (.writeAck i) s = .next (State.takeAck { s with mesh := s.mesh.eraseIdx i } st (.step p k uid)) := by
  simp only [exec, execWriteAck, hpkt]
  rw [s.unsend_last hpkt rfl]

theorem State.refused_running {s : State} {p k : Nat} (h : (s.strand p k).st = .issuing ∨ (s.strand p k).st = .waiting) (st : Nat) :
    s.refused p k st = s.endTask p k st := by
  unfold State.refused
  rw [if_neg (StrandSt.ne_of_running h).2]

end Sys2Proof.Machine

/-! # The statement about packets that reach a tile -/

namespace Sys2Proof.Machine

/-- The tile that takes a response: its bytes and check bits, and the words that may be written, are as before. -/
theorem State.TakesWord.takeRead {s : State} {p k c w : Nat} {x : StreamCtx} {prod : Option (Nat × Nat)} (h : s.TakesWord p prod w) :
    (s.takeRead p k c x).TakesWord p prod w where
  exists_ := by rw [(s.takeRead_becomes p k c x).same]; exact h.exists_
  allowed := h.allowed
  clean := by rw [(s.takeRead_becomes p k c x).same]; exact h.clean

theorem State.takeRead_memOk {s : State} {p : Nat} (h : (s.tile p).memOk = true) (k c : Nat) (x : StreamCtx) :
    ((s.takeRead p k c x).tile p).memOk = true := by
  rw [(s.takeRead_becomes p k c x).same]
  exact h

section
variable {s t : State} {p k c : Nat} {x : StreamCtx} {data : List (Nat × Byte)} (h : (s.takeRead p k c x).Stored t p data)
include h

/-- What a response leaves of its tile, but for the bytes it stores (R200): one read less outstanding, and the context settled. -/
theorem State.Stored.settled : s.TileBecomes (t.modTile p fun u => u.settleCtx c) p
    ((((s.tile p).takeRead k c x).withScratch (t.tile p)).settleCtx c) := by
  have hall := ((s.takeRead_becomes p k c x).trans h.becomes).trans (t.modTile_becomes p fun u => u.settleCtx c)
  have hsame := h.becomes.same
  rw [(s.takeRead_becomes p k c x).same] at hsame
  rw [← hsame]
  exact hall

theorem State.Stored.settled_byte (a : Nat) :
    ((t.modTile p fun u => u.settleCtx c).tile p).byte a = byteAfter data a ((s.tile p).byte a) := by
  rw [State.modTile_tile_same, Tile.settleCtx_byte, h.byte, (s.takeRead_becomes p k c x).same]
  rfl

theorem State.Stored.settled_ctx : ((t.modTile p fun u => u.settleCtx c).tile p).ctx c =
    if x.spent ∧ x.out ≤ 1 ∧ x.unacked = 0 then none else some { x with out := x.out - 1 } := by
  have hctx : (((s.tile p).takeRead k c x).withScratch (t.tile p)).ctx c = some { x with out := x.out - 1 } := Tab.get_put_same ..
  have hout : x.out - 1 = 0 ↔ x.out ≤ 1 := by omega
  rw [h.settled.same, Tile.settleCtx_ctx hctx]
  simp only [hout]
  rfl

theorem State.Stored.settled_strand_same : (t.modTile p fun u => u.settleCtx c).strand p k =
    { s.strand p k with outRd := (s.strand p k).outRd - 1 } := by
  rw [State.strand, h.settled.same, Tile.settleCtx_strand]
  exact Tile.setStrand_strand_same ..

theorem State.Stored.settled_strand_other {j : Nat} (hj : j ≠ k) : (t.modTile p fun u => u.settleCtx c).strand p j = s.strand p j := by
  rw [State.strand, h.settled.same, Tile.settleCtx_strand]
  exact Tile.setStrand_strand_other _ _ hj

theorem State.Stored.settled_outReads : ((t.modTile p fun u => u.settleCtx c).tile p).outReads = (s.tile p).outReads - 1 := by
  rw [h.settled.same, Tile.settleCtx_outReads]
  rfl

end

/-- An acknowledgement with status 0 takes one unacknowledged write from its strand, and nothing else happens (R205). -/
theorem State.takeAck_step_ok {s : State} {p k uid : Nat} (huid : (s.strand p k).uid = uid)
    (hst : (s.strand p k).st = .issuing ∨ (s.strand p k).st = .waiting) (hw : (s.tile p).nothingWaits = true) :
    s.takeAck 0 (.step p k uid) = s.oneAcked p k := by
  have hwaits : ((s.oneAcked p k).tile p).nothingWaits = true := by rw [State.oneAcked, State.modStrand_nothingWaits, hw]
  rw [State.takeAck_step huid (StrandSt.ne_of_running hst).1, if_neg (by simp), State.pumpSyn_of_nothingWaits hwaits,
    State.pumpBld_of_nothingWaits hwaits]

/-- One with another status ends the task with it (R204). -/
theorem State.takeAck_step_refused {s : State} {p k uid st : Nat} (huid : (s.strand p k).uid = uid)
    (hst : (s.strand p k).st = .issuing ∨ (s.strand p k).st = .waiting) (hw : (s.tile p).nothingWaits = true) (h0 : st ≠ 0) :
    s.takeAck st (.step p k uid) = (s.oneAcked p k).endTask p k st ∧
      (s.oneAcked p k).OnlyStrand ((s.oneAcked p k).endTask p k st) p k ∧
      (((s.oneAcked p k).endTask p k st).strand p k).st = .ending ∧ (((s.oneAcked p k).endTask p k st).strand p k).status = st := by
  have hwaits : ((s.oneAcked p k).tile p).nothingWaits = true := by rw [State.oneAcked, State.modStrand_nothingWaits, hw]
  have hrun : ((s.oneAcked p k).strand p k).st = .issuing ∨ ((s.oneAcked p k).strand p k).st = .waiting := by
    rw [State.oneAcked, State.modStrand_strand_same]
    exact hst
  obtain ⟨honly, hends⟩ := State.endTask_ends hrun hwaits st
  refine ⟨?_, honly, hends⟩
  rw [State.takeAck_step huid (StrandSt.ne_of_running hst).1, if_pos h0, State.refused_running hrun,
    State.pumpSyn_of_nothingWaits (honly.waits hwaits), State.pumpBld_of_nothingWaits (honly.waits hwaits)]

/-- Settles O29: the words of a write that is taken are stored one by one, and a response to a load writes its block in the same way; a read
of clear words changes nothing; an acknowledgement changes its strand, and where it is a refusal the strand's task ends. -/
theorem tilePacketsTakeEffect : Obligations.TilePacketsTakeEffect := by
  refine ⟨fun i p src vc s hrouter => ⟨?refused, ?write, ?read⟩, fun i p k uid src vc s huid hst => ⟨?response, ?ack⟩⟩
  case refused =>
    intro data prod tl k uid l bad hpkt h
    exact exec_scratchpadWrite_refused hpkt hrouter h
  case write =>
    intro data prod tl k uid l hmem hopen hpkt hblock hwords
    have htakes : ∀ e ∈ data, (s.unsend i).TakesWord p prod (e.1 / 8) := fun e he =>
      let ⟨hexists, hallowed, hclean⟩ := hwords e he
      ⟨hexists, hallowed, hclean⟩
    obtain ⟨t, ⟨⟨hframe, hsame, hother⟩, hbyte⟩, harrive⟩ :=
      State.arriveWrite_stored (s := s.unsend i) (tl := tl) (k := k) (uid := uid) (State.tile_memOk hmem p) htakes
    refine ⟨_, (exec_scratchpadWrite_taken hpkt hrouter hopen rfl hblock).trans (congrArg _ harrive), ?_, ?_, hother, hsame, ?_⟩
    · intro a
      rw [← byteAfter_eq_last]
      exact hbyte a
    · rw [State.send_mesh, hframe]
    · rw [State.send, hframe]
      rfl
  case read =>
    intro off len tl k uid c pos n hopen hpkt hsize hclean
    exact exec_scratchpadRead_clean hrouter hopen hpkt hsize hclean
  case response =>
    intro c pos n data x hmem hpkt hctx hxuid hxk hrun hwindow a0 hblock hwords
    have hland : s.landing p x pos n data = (List.range n).map fun j =>
        (a0 + j, data.getD (((x.desc.gaddr : Int) + x.desc.pat (pos + j)) % 64).toNat 0) := by
      rw [State.landing_window hwindow, hxk]
    have htakes : ∀ e ∈ s.landing p x pos n data, ((s.unsend i).takeRead p k c x).TakesWord p (some (s.me p)) (e.1 / 8) := fun e he =>
      let ⟨hexists, hallowed, hclean⟩ := hwords _ (mem_wordsOf_row (hland ▸ he))
      State.TakesWord.takeRead ⟨hexists, hallowed, hclean⟩
    obtain ⟨hstatus, hstored⟩ := State.spadWrite_stored (State.takeRead_memOk (s := s.unsend i) (State.tile_memOk hmem p) k c x) htakes
      (s.tagOf (s.strand p k))
    refine ⟨_, exec_readResponse_load hpkt hctx hxuid hrun hwindow hblock (Prod.ext rfl hstatus), ?_, ?_, hstored.settled_ctx,
      hstored.settled_strand_same, hstored.settled_outReads, fun j hj => hstored.settled_strand_other hj, hstored.settled.other, ?_⟩
    · intro j hj
      rw [hstored.settled_byte, hland, byteAfter_row, if_pos (by omega), Nat.add_sub_cancel_left]
    · intro a ha
      rw [hstored.settled_byte, hland, byteAfter_row, if_neg (by omega)]
      rfl
    · rw [s.unsend_last hpkt rfl] at hstored ⊢
      exact hstored.settled.frame
  case ack =>
    intro st hpkt hw
    refine ⟨_, exec_writeAck_step hpkt, ?_, ?_⟩
    · rintro rfl
      rw [State.takeAck_step_ok (s := { s with mesh := s.mesh.eraseIdx i }) huid hst hw]
      exact ⟨State.modStrand_strand_same .., rfl, fun q hq => State.modTile_tile_other _ _ hq, by
        rw [State.oneAcked, State.modStrand, State.modTile_tile_same]; rfl, fun j hj => State.modStrand_strand_other _ _ hj⟩
    · intro h0
      obtain ⟨hack, honly, hending, hstatus⟩ :=
        State.takeAck_step_refused (s := { s with mesh := s.mesh.eraseIdx i }) huid hst hw h0
      rw [hack]
      refine ⟨hending, hstatus, ?_, fun j hj => ?_, fun q hq => ?_⟩
      · rw [honly.unacked, State.oneAcked, State.modStrand_strand_same]
        rfl
      · rw [honly.strands j hj]
        exact State.modStrand_strand_other _ _ hj
      · rw [honly.tiles q hq]
        exact State.modTile_tile_other _ _ hq

end Sys2Proof.Machine
